-- ==== Sys2Proof/Word.lean ====
section
/-!
DEFINITION. The quantities of the part (spec/00_scope.md 0.6, R179) as types.
Channels, groups and peers are counted from 0 here: channel number n is the value n - 1 (log 32).
-/

namespace Sys2Proof

/-- One byte. -/
abbrev Byte := BitVec 8

/-- A time in microseconds, the bit time of the show bus; a time in milliseconds is its floor by 1000 (log 2). -/
abbrev Micros := Nat

/-- A position on the scale of R1. -/
abbrev Position := Fin 1024

/-- A gain code (0.6): 0 is off. -/
abbrev GainCode := Fin 1001

/-- A cue number in hundredths; 1 to 99999 names a cue (0.6). -/
abbrev CueNumber := Nat

/-- Channel n is the value n - 1. -/
abbrev Channel := Fin 16

/-- Group n is the value n - 1. -/
abbrev Group := Fin 32

/-- Peer table index: station n is the value n - 1, for the stations 1 to 31 (R148). -/
abbrev Peer := Fin 31

/-- A station number, 0 for a follower (0.6). -/
abbrev Station := Fin 32

end Sys2Proof
end

