-- ==== Sys2Proof/Syntax.lean ====
section
/-!
DEFINITION. The commands of the block: one constructor per row of spec/opcode_table.json.
The table gives the rows no bits and no operands; each operand is what the row's rule names.
-/

namespace Sys2Proof

/-- The two kinds of show-stop (R159). -/
inductive StopKind where
  | a
  | b
  deriving DecidableEq, Repr

/-- Where an attempt fails (R132): a mismatch while sending, or dominant in the error window; and how many bit times in a
row the bus has been read dominant, the last bit read among them (R137, R138). -/
inductive FailurePlace where
  | mismatch (run : Nat)
  | errorWindow (run : Nat)
  deriving DecidableEq, Repr

/-- The commands. Operands of port commands are the raw argument bytes of R182, high byte first;
operands of internal events name the channel, group, peer or pool place the event belongs to. -/
inductive Instr where
  /-- COLD_RESET; the level of the five strap pins at its end (R142). -/
  | coldReset (straps : Station)
  | levelPoint
  | outputPoint
  | gainLinkStrobe
  /-- CONVERSION_COMPLETE of a channel's wiper with its result (R103). -/
  | conversionComplete (ch : Channel) (value : Position)
  | touchInputAsserted (ch : Channel)
  | touchInputAbsent (ch : Channel)
  | touchedArrival (ch : Channel)
  | freeArrival (ch : Channel)
  /-- KEY_SCAN with the 33 keys as read, pressed as 1; channel n is bit n - 1 (R105). -/
  | keyScan (mute solo : BitVec 16) (go : Bool)
  | stopLineInputChange (kind : StopKind) (asserted : Bool)
  | lineAssertion (kind : StopKind)
  | lineRelease (kind : StopKind)
  | bidPoint
  | arbitrationWon
  | arbitrationLost
  /-- ARBITRATION_BYTE_READ: the two 5-bit groups of the byte as read (R123, R124). -/
  | arbitrationByteRead (first second : BitVec 5)
  /-- FRAME_RECEIVED: the 5-bit groups of the frame as read, in the order read (R123, R124). -/
  | frameReceived (groups : List (BitVec 5))
  | frameComplete
  | attemptFailed (place : FailurePlace)
  | busBreak
  | busBreakEnd
  | busFault
  | busRestored
  | readStatus
  | readEvents (n : Byte)
  | readChannel (ch : Byte)
  | readPeer (s : Byte)
  | readGroup (g : Byte)
  | loadBegin
  /-- LOAD_DATA: the length byte and the data bytes clocked in after it (R174). -/
  | loadData (length : Byte) (data : List Byte)
  | loadEnd
  | go
  | fire (cue : BitVec 24)
  | standby (cue : BitVec 24)
  | stopRelease (kind : Byte) (target : Byte)
  | clearMotor (ch : Byte)
  | restart
  | unknownCommand (code : Byte)
  /-- CHIP_SELECT_HIGH: how many response bytes, the result byte the first, were clocked out whole (R171, R177). -/
  | chipSelectHigh (clocked : Nat)
  | validationEnd
  | listenTimerExpiry
  | catchupWalkEnd
  | runEntry
  | prefetchComplete
  | expansionComplete
  | followExpiry
  /-- DELAY_COUNT_EXPIRY and FADE_COMPLETE of the record at a place of the pool, the oldest at 0 (R58). -/
  | delayCountExpiry (slot : Fin 64)
  | fadeComplete (slot : Fin 64)
  | restEnd (ch : Channel)
  | motorStall (ch : Channel)
  | groupAgeLimit (g : Group)
  | groupSendDue (ch : Channel)
  | peerLost (s : Peer)
  | stateRefresh
  | staleTimerExpiry
  | startBit
  | chipSelectLow
  deriving DecidableEq, Repr

end Sys2Proof
end

