-- ==== Sys2Proof/Decode.lean ====
section
/-!
DEFINITION. The command that bits spell: by the table's bits, of which spec/opcode_table.json gives none to any of its
58 rows (log 29), and by the bytes a port transaction clocks in (R182). The other encodings of the spec (frames,
responses, event records, the show image) are in Machine/Formats.lean.
-/

namespace Sys2Proof

/-- The command a word of `nbits` bits spells: none, since no row of the table has bits. -/
def decodeTableWord (_nbits _w : Nat) : Option Instr :=
  none

/-- The port command that the bytes clocked in since chip select went low spell (R171, R174, R182): the code, its
arguments, and bytes after the last argument, which are ignored. None while the command is not yet taken. -/
def readCommand : List Byte → Option Instr
  | [] => none
  | code :: args =>
    match code.toNat, args with
    | 0x01, _ => some .readStatus
    | 0x02, n :: _ => some (.readEvents n)
    | 0x02, [] => none
    | 0x03, ch :: _ => some (.readChannel ch)
    | 0x03, [] => none
    | 0x04, s :: _ => some (.readPeer s)
    | 0x04, [] => none
    | 0x05, g :: _ => some (.readGroup g)
    | 0x05, [] => none
    | 0x10, _ => some .loadBegin
    | 0x11, length :: data =>
      if length.toNat ≤ data.length then some (.loadData length (data.take length.toNat)) else none
    | 0x11, [] => none
    | 0x12, _ => some .loadEnd
    | 0x20, _ => some .go
    | 0x21, high :: middle :: low :: _ => some (.fire (high ++ middle ++ low))
    | 0x21, _ => none
    | 0x22, high :: middle :: low :: _ => some (.standby (high ++ middle ++ low))
    | 0x22, _ => none
    | 0x30, kind :: target :: _ => some (.stopRelease kind target)
    | 0x30, _ => none
    | 0x31, ch :: _ => some (.clearMotor ch)
    | 0x31, [] => none
    | 0x32, _ => some .restart
    | _, _ => some (.unknownCommand code)

/-- The bits of groups in the order read, true where the bus is recessive (R123). -/
def groupBits (groups : List (BitVec 5)) : List Bool :=
  groups.flatMap (fun g => [4, 3, 2, 1, 0].map g.getLsbD)

end Sys2Proof
end

