-- ==== Sys2Proof/Config.lean ====
section
/-!
DEFINITION. The constants the part fixes. Times are in microseconds.
-/

namespace Sys2Proof.Config

/-- One millisecond in bit times (0.5). -/
def ms : Micros := 1000

/-- The update period and the place of the output point in it (R3). -/
def period : Micros := 1000
def outputPhase : Micros := 500

/-- Records of the fade pool (R58) and of the event queue (R176). -/
def poolSize : Nat := 64
def queueSize : Nat := 64

/-- Entries of the incoming GO queue (R47) and of the outgoing request queue (R36). -/
def incomingSize : Nat := 4
def outgoingSize : Nat := 4

/-- Where the time since acceptance (R43) and the candidate's age (R145) stop. -/
def sinceLimit : Micros := 2000 * ms

/-- The listen period (R144). -/
def listenTime : Micros := 600 * ms

/-- Silence after which a peer is LOST (R150), and where the time since heard stops (R148). -/
def lostTime : Micros := 400 * ms
def heardLimit : Micros := 65535 * ms

/-- Period of the STATE refresh (R153). -/
def refreshTime : Micros := 100 * ms

/-- Age limit of a group table entry (R91, R94). -/
def ageLimit : Micros := 1000 * ms

/-- Least spacing and refresh period of a hosted master's GROUP frames (R97). -/
def groupSpacing : Micros := 8 * ms
def groupRefresh : Micros := 250 * ms

/-- Steady contact before a fader is TOUCHED (R104), and steady level of a stop line (R159). -/
def touchAssert : Micros := 2 * ms
def lineDebounce : Micros := 2 * ms

/-- The timestamp counter has 16 bits of milliseconds (R156). -/
def stampWrap : Micros := 65536 * ms

/-- A follow of delay 0 on a station that cannot send (R51). -/
def shortFollow : Micros := 1 * ms

/-- Bit times of a break or an error flag (R128, R132, R137). -/
def breakBits : Nat := 16

/-- Gap bit times after which a dominant bit is a start bit (R125), and after which a station bids (R126). -/
def windowBits : Nat := 16
def bidGap : Nat := 20
def idleGap : Nat := 21

/-- Unbroken dominant, and unbroken recessive, bit times of bus fault (R138). -/
def faultBits : Nat := 2000

/-- Attempts after which a frame is abandoned (R133). -/
def attemptLimit : Nat := 8

/-- Size of show memory (R17). -/
def memorySize : Nat := 65536

/-- Successive scans that accept a key change (R105). -/
def keyScans : Nat := 3

/-- Abandonments one command may lead to on a station that cannot bid: more than every chain of
abandoned frames that ends (log 14). -/
def abandonLimit : Nat := 65536

end Sys2Proof.Config
end

