-- ==== Sys2Proof/Machine/State.lean ====
section
/-!
DEFINITION. The state of the part, block by block as the spec divides it (00_scope.md 0.4), as plain data,
and the state after a cold reset. The functions over it are in the other files of Machine/.
-/

namespace Sys2Proof.Machine

/-! ## The show image (02) -/

/-- Stop mode of a kind (R18). -/
inductive StopMode where
  | latched
  | follow
  deriving DecidableEq, Repr

/-- Touch policy of a MOTOR channel (R19). -/
inductive TouchPolicy where
  | keep
  | returns
  deriving DecidableEq, Repr

/-- Fader kind (R19): NONE, PLAIN, or MOTOR with its touch policy. -/
inductive Fader where
  | absent
  | plain
  | motor (policy : TouchPolicy)
  deriving DecidableEq, Repr

/-- Role of a channel with the parts the role has (R19). -/
inductive Role where
  | unused
  | audio (members : List Group) (soloSafe : Bool)
  | master (hosted : Group)
  deriving DecidableEq, Repr

/-- Stop action of a channel for one kind (R10, R19). -/
inductive StopAction where
  | mute
  | hold
  | level (position : Position)
  deriving DecidableEq, Repr

/-- An entry of the channel table (R19). -/
structure ChannelEntry where
  role : Role
  fader : Fader
  preset : Position
  presetMute : Bool
  stopA : StopAction
  stopB : StopAction
  deriving DecidableEq, Repr

/-- The header settings of R18, in the units of the image. -/
structure Header where
  repeatGuard : Nat
  slewStep : Nat
  modeA : StopMode
  modeB : StopMode
  touchHold : Nat
  deadband : Nat
  kp : Nat
  minDuty : Nat
  reversalRest : Nat
  stallLimit : Nat
  eventThreshold : Nat
  staleTime : Nat
  cueCount : Nat
  moveCount : Nat
  deriving DecidableEq, Repr

/-- Fade curves (R68). -/
inductive Curve where
  | linear
  | scurve
  | early
  | late
  deriving DecidableEq, Repr

/-- What a move does (R22); the fade time is in units of 10 level points. -/
inductive MoveKind where
  | level (fade : Nat) (curve : Curve) (target : Position)
  | muteOn
  | muteOff
  deriving DecidableEq, Repr

/-- A move of a cue record (R22); the delay is in units of 10 level points. -/
structure Move where
  channel : Channel
  delay : Nat
  kind : MoveKind
  deriving DecidableEq, Repr

/-- The follow of a cue record (R21); the delay is in units of 10 ms. -/
structure Follow where
  target : CueNumber
  delay : Nat
  deriving DecidableEq, Repr

/-- A cue record (R21). -/
structure CueRecord where
  number : CueNumber
  follow : Option Follow
  moves : List Move
  deriving DecidableEq, Repr

/-- A validated show image (02). -/
structure ShowImage where
  header : Header
  channels : Vector ChannelEntry 16
  cues : List CueRecord
  deriving DecidableEq, Repr

/-- Load fault reasons, in the order of their codes (R183). -/
inductive LoadFaultReason where
  | crcMismatch
  | badVersion
  | size
  | badChannelEntry
  | duplicateMaster
  | cueOrder
  | moveChannel
  | badValue
  | followTarget
  deriving DecidableEq, Repr

/-- Show memory (R17): its bytes, as rising offsets with non-zero bytes, and while VALID the decoded view of
them (log 8, log 9). The loaded length is the load write offset of the load port. -/
structure ShowMemory where
  bytes : List Host.Cell
  image : Option ShowImage
  deriving DecidableEq, Repr

/-! ## Period timer (R3) -/

/-- Time since the last whole update period, and whether a level point has come since the cold reset. -/
structure PeriodTimer where
  phase : Micros
  begun : Bool
  deriving DecidableEq, Repr

/-! ## Frames and the bus controller (07, 11) -/

/-- The frame classes in descending priority (R124). -/
inductive FrameClass where
  | stop
  | cue
  | group
  | state
  deriving DecidableEq, Repr

/-- Kind of a cue request or CUE frame (R36). -/
inductive CueKind where
  | fire
  | standby
  deriving DecidableEq, Repr

/-- Origin kind of a cue request (R36). -/
inductive OriginKind where
  | key
  | port
  | follow
  deriving DecidableEq, Repr

/-- Payload of a frame by class (R180). -/
inductive Payload where
  | stop (release : Bool) (kind : StopKind) (target : Station)
  | cue (kind : CueKind) (origin : OriginKind) (cue : CueNumber)
  | group (group : Group) (mute : Bool) (position : Position)
  | state (solo stopA stopB : Bool) (last : Option CueNumber)
  deriving DecidableEq, Repr

/-- Signalling state (R137). -/
inductive BusPhase where
  | idle
  | receiving
  | sending
  | broken
  | fault
  deriving DecidableEq, Repr

/-- A frame in flight (R131, R133): its fixed contents, attempt count and repeat flag. -/
structure Flight where
  payload : Payload
  attempts : Nat
  repeated : Bool
  deriving DecidableEq, Repr

/-- The frame on the bus from this station, and whether its arbitration has been won (R127). -/
structure Sending where
  payload : Payload
  won : Bool
  deriving DecidableEq, Repr

/-- The last frame accepted from one sender, by class (R129). -/
structure CopyRecord where
  stop : Option Payload
  cue : Option Payload
  group : Option Payload
  state : Option Payload
  deriving DecidableEq, Repr

/-- The bus controller (07). `lineHeld` is the input: another station drives the bus dominant in a run
(log 18); `drive` counts the bit times of the own break or error flag still to drive, and `sent` those of the frame
being sent, from its start bit on. -/
structure BusController where
  phase : BusPhase
  gap : Nat
  run : Nat
  lineHeld : Bool
  drive : Nat
  quiet : Nat
  faultTime : Micros
  sending : Option Sending
  sent : Nat
  stopFlight : Option Flight
  cueFlight : Option Flight
  groupFlight : Option Flight
  stateFlight : Option Flight
  yieldGroup : Bool
  yieldState : Bool
  copies : Vector CopyRecord 31
  deriving DecidableEq, Repr

/-! ## Station controller (08) -/

/-- Station states (R143). -/
inductive StationState where
  | load
  | validating
  | loadFault
  | listen
  | catchup
  | run
  deriving DecidableEq, Repr

/-- State of a peer table entry (R148). -/
inductive Presence where
  | absent
  | present
  | lost
  deriving DecidableEq, Repr

/-- A peer table entry (R148). -/
structure PeerEntry where
  presence : Presence
  solo : Bool
  stopA : Bool
  stopB : Bool
  last : Option CueNumber
  heard : Micros
  deriving DecidableEq, Repr

/-- Source of the listen candidate (R145). -/
inductive CandidateSource where
  | fire
  | state
  deriving DecidableEq, Repr

/-- The listen candidate (R145). -/
structure Candidate where
  cue : CueNumber
  source : CandidateSource
  age : Micros
  deriving DecidableEq, Repr

/-- Tracked state of one channel (R32). -/
structure Tracked where
  level : Position
  mute : Bool
  deriving DecidableEq, Repr

/-- The station controller (08). A timer is none while stopped. -/
structure StationController where
  number : Station
  txMuted : Bool
  state : StationState
  listen : Option Micros
  candidate : Option Candidate
  peers : Vector PeerEntry 31
  stateRequest : Bool
  refresh : Option Micros
  stamp : Micros
  tracked : Option (Vector Tracked 16)
  walkEnded : Bool
  deriving DecidableEq, Repr

/-! ## Cue sequencer (03) -/

/-- The standby buffer (R34). The moves stand in it from the end of the reading on (log 20). -/
inductive StandbyBuffer where
  | empty
  | prefetching (cue : CueNumber)
  | prefetched (cue : CueNumber) (moves : List Move)
  | expanding (cue : CueNumber)
  deriving DecidableEq, Repr

/-- An entry of the incoming GO queue (R47): QUEUED, or EXPANDING when marked. -/
structure GoEntry where
  cue : CueNumber
  expanding : Bool
  deriving DecidableEq, Repr

/-- An entry of the outgoing request queue (R36): WAITING, or SENT when marked. -/
structure Request where
  kind : CueKind
  cue : CueNumber
  origin : OriginKind
  sent : Bool
  deriving DecidableEq, Repr

/-- The ARMED follow timer (R51). -/
structure FollowTimer where
  target : CueNumber
  left : Micros
  deriving DecidableEq, Repr

/-- The cue sequencer (03). -/
structure CueSequencer where
  standby : Option CueNumber
  last : Option CueNumber
  since : Micros
  buffer : StandbyBuffer
  incoming : List GoEntry
  outgoing : List Request
  follow : Option FollowTimer
  deriving DecidableEq, Repr

/-! ## Fade engine (04) -/

/-- State-dependent part of a pool record (R58). Counts are in level points. -/
inductive RecordState where
  | waitingLevel (delay : Nat) (target : Position) (duration : Nat) (curve : Curve)
  | waitingMute (delay : Nat) (on : Bool)
  | running (start target : Position) (duration : Nat) (elapsed : Nat) (curve : Curve)
  deriving DecidableEq, Repr

/-- A record of the fade pool (R58). -/
structure PoolRecord where
  channel : Channel
  origin : CueNumber
  state : RecordState
  deriving DecidableEq, Repr

/-- An expanded cue (R49, R60). -/
structure ExpandedCue where
  cue : CueNumber
  moves : List Move
  deriving DecidableEq, Repr

/-- The fade engine (04). -/
structure FadeEngine where
  levels : Vector Position 16
  pool : List PoolRecord
  commits : List ExpandedCue
  deriving DecidableEq, Repr

/-! ## Mix resolver (01, 05) -/

/-- What an owned group table entry holds (R91). -/
structure Ownership where
  stale : Bool
  owner : Peer
  position : Position
  mute : Bool
  age : Micros
  deriving DecidableEq, Repr

/-- A group table entry (R91): UNOWNED, or LIVE or STALE with an owner. -/
inductive GroupEntry where
  | unowned
  | owned (entry : Ownership)
  deriving DecidableEq, Repr

/-- State and pacing of a hosted master (R90, R97), kept per hosting channel. -/
structure Master where
  demoted : Bool
  lastSent : Option (Position × Bool)
  since : Micros
  deriving DecidableEq, Repr

/-- The mix resolver (01, 05). `attenuators` is what the last latch strobe sent out, none before the first
strobe (log 7). -/
structure MixResolver where
  mute : Vector Bool 16
  solo : Vector Bool 16
  headroom : Vector Bool 16
  applied : Vector GainCode 16
  groups : Vector GroupEntry 32
  masters : Vector Master 16
  lastGroup : Option Channel
  link : Vector GainCode 16
  bursting : Bool
  attenuators : Option (Vector GainCode 16)
  deriving DecidableEq, Repr

/-! ## Strip controller (06) -/

/-- Touch state (R104): PENDING with the time asserted, HOLD with the time left. -/
inductive Touch where
  | free
  | pending (held : Micros)
  | touched
  | hold (left : Micros)
  deriving DecidableEq, Repr

/-- Channel mode (R107). -/
inductive Mode where
  | auto
  | hand
  deriving DecidableEq, Repr

/-- Motor state with the duty of a drive (R115). -/
inductive Motor where
  | off
  | brake
  | driveUp (duty : Nat)
  | driveDown (duty : Nat)
  | rest
  | stalled
  deriving DecidableEq, Repr

/-- What the strip controller holds for one channel (06). `touchInput` is the touch pin. -/
structure Strip where
  measured : Position
  touchInput : Bool
  touch : Touch
  mode : Mode
  hand : Position
  park : Position
  crossing : Option (Position × Int)
  motor : Motor
  rest : Nat
  stall : Nat
  deriving DecidableEq, Repr

/-- A debounced key (R105). -/
structure Key where
  down : Bool
  count : Nat
  deriving DecidableEq, Repr

/-- The strip controller (06). -/
structure StripController where
  strips : Vector Strip 16
  muteKeys : Vector Key 16
  soloKeys : Vector Key 16
  goKey : Key
  deriving DecidableEq, Repr

/-! ## Stop controller (09) -/

/-- A stop line (R159): the raw input pin, the debounced state, and the debounce timer. -/
structure StopLine where
  raw : Bool
  asserted : Bool
  timer : Option Micros
  deriving DecidableEq, Repr

/-- States of a local stop machine (9.2). -/
inductive MachineState where
  | clear
  | announcing
  | held
  | releasing
  deriving DecidableEq, Repr

/-- A local stop machine with its acknowledgement mark (R162). -/
structure StopMachine where
  state : MachineState
  ack : Bool
  deriving DecidableEq, Repr

/-- The effective stop (R169). -/
inductive EffectiveStop where
  | none
  | b
  | a
  deriving DecidableEq, Repr

/-- The stop controller (09). -/
structure StopController where
  lineA : StopLine
  lineB : StopLine
  machineA : StopMachine
  machineB : StopMachine
  orphan : Option (StopKind × Peer)
  effective : EffectiveStop
  deriving DecidableEq, Repr

/-! ## Load port (10) -/

/-- Port results, in the order of their codes (R182). -/
inductive PortResult where
  | ok
  | wrongState
  | badArgument
  | full
  | busy
  | stopped
  | unknownCommand
  deriving DecidableEq, Repr

/-- Transaction state of the port (R171): chip select high; low with no command taken; or a command answered,
with its response data and the number of event records it took. -/
inductive Port where
  | idle
  | reading
  | answered (result : PortResult) (data : List Byte) (records : Nat)
  deriving DecidableEq, Repr

/-- Event kinds, in the order of their codes (R183). -/
inductive EventKind where
  | cueFired
  | cueAbsorbed
  | goRefused
  | goQueueFull
  | requestRefused
  | endOfList
  | poolFull
  | moveHeldOff
  | motorStall
  | headroom
  | groupConflict
  | groupStale
  | peerJoined
  | peerLost
  | orphanStop
  | duplicateStation
  | catchupDone
  | restart
  | stopChange
  | frameError
  | txAbandoned
  | busFault
  | busRestored
  | loadFault
  deriving DecidableEq, Repr

/-- An event record (R176); the arguments are coded as R183 gives them. -/
structure EventRecord where
  kind : EventKind
  gap : Bool
  stamp : Nat
  first : Nat
  second : Nat
  deriving DecidableEq, Repr

/-- The event stale timer (R178). -/
inductive StaleTimer where
  | off
  | running (left : Micros)
  | expired
  deriving DecidableEq, Repr

/-- The load port (10). -/
structure LoadPort where
  port : Port
  offset : Nat
  overflowed : Bool
  lastFault : Option (LoadFaultReason × Nat)
  queue : List EventRecord
  gapPending : Bool
  stale : StaleTimer
  attn : Bool
  deriving DecidableEq, Repr

/-! ## The whole part -/

/-- The state of the part: its period timer, its nine blocks, and the commands waiting (the model's own). -/
structure State where
  period : PeriodTimer
  bc : BusController
  sc : StationController
  cq : CueSequencer
  fe : FadeEngine
  mr : MixResolver
  st : StripController
  sp : StopController
  lp : LoadPort
  sm : ShowMemory
  pending : List Instr
  deriving DecidableEq, Repr

/-- Reasons the block could stop. -/
inductive Fault where
  /-- Raised by no meaning: the spec names no event that stops the part (log 30). Safe. -/
  | unreachable
  deriving DecidableEq, Repr

/-- Reasons a command could have no meaning. -/
inductive Refusal where
  /-- Raised by an arm of exec whose command has no meaning yet; no arm does so now. Safe. -/
  | notModelled (mnemonic : String)
  deriving DecidableEq, Repr

/-! ## Reset values, block by block -/

/-- R141; the pin `lineHeld` is given. -/
def BusController.afterReset (lineHeld : Bool) : BusController where
  phase := .idle
  gap := 0
  run := 0
  lineHeld := lineHeld
  drive := 0
  quiet := 0
  faultTime := 0
  sending := none
  sent := 0
  stopFlight := none
  cueFlight := none
  groupFlight := none
  stateFlight := none
  yieldGroup := false
  yieldState := false
  copies := Vector.replicate 31 { stop := none, cue := none, group := none, state := none }

/-- An entry of the peer table after reset (R148). -/
def PeerEntry.afterReset : PeerEntry where
  presence := .absent
  solo := false
  stopA := false
  stopB := false
  last := none
  heard := 0

/-- R157 after cold reset, with the station number read from the straps (R142). -/
def StationController.afterReset (straps : Station) : StationController where
  number := straps
  txMuted := false
  state := .load
  listen := none
  candidate := none
  peers := Vector.replicate 31 PeerEntry.afterReset
  stateRequest := false
  refresh := none
  stamp := 0
  tracked := none
  walkEnded := false

/-- R56. -/
def CueSequencer.afterReset : CueSequencer where
  standby := none
  last := none
  since := Config.sinceLimit
  buffer := .empty
  incoming := []
  outgoing := []
  follow := none

/-- R81. -/
def FadeEngine.afterReset : FadeEngine where
  levels := Vector.replicate 16 0
  pool := []
  commits := []

/-- A hosted master after reset (R97, R102). -/
def Master.afterReset : Master where
  demoted := false
  lastSent := none
  since := Config.groupRefresh

/-- R16 and R102 after cold reset, with what the attenuators hold left as it is (R15). -/
def MixResolver.afterReset (attenuators : Option (Vector GainCode 16)) : MixResolver where
  mute := Vector.replicate 16 false
  solo := Vector.replicate 16 false
  headroom := Vector.replicate 16 false
  applied := Vector.replicate 16 0
  groups := Vector.replicate 32 .unowned
  masters := Vector.replicate 16 Master.afterReset
  lastGroup := none
  link := Vector.replicate 16 0
  bursting := false
  attenuators := attenuators

/-- R122 for one channel, with its measured position and touch pin given. -/
def Strip.afterReset (measured : Position) (touchInput : Bool) : Strip where
  measured := measured
  touchInput := touchInput
  touch := .free
  mode := .auto
  hand := 0
  park := 0
  crossing := none
  motor := .off
  rest := 0
  stall := 0

/-- A key after reset (R105). -/
def Key.afterReset : Key where
  down := false
  count := 0

/-- R122, with the strips given. -/
def StripController.afterReset (strips : Vector Strip 16) : StripController where
  strips := strips
  muteKeys := Vector.replicate 16 Key.afterReset
  soloKeys := Vector.replicate 16 Key.afterReset
  goKey := Key.afterReset

/-- A stop line after reset (R159, R170), with its pin given. -/
def StopLine.afterReset (raw : Bool) : StopLine where
  raw := raw
  asserted := false
  timer := none

/-- A stop machine after reset (R170). -/
def StopMachine.afterReset : StopMachine where
  state := .clear
  ack := false

/-- R170, with the two stop line pins given. -/
def StopController.afterReset (rawA rawB : Bool) : StopController where
  lineA := StopLine.afterReset rawA
  lineB := StopLine.afterReset rawB
  machineA := StopMachine.afterReset
  machineB := StopMachine.afterReset
  orphan := none
  effective := .none

/-- R171, R174, R176, R178 after cold reset. -/
def LoadPort.afterReset : LoadPort where
  port := .idle
  offset := 0
  overflowed := false
  lastFault := none
  queue := []
  gapPending := false
  stale := .off
  attn := false

/-- R3: the period timer starts when a cold reset ends. -/
def PeriodTimer.afterReset : PeriodTimer where
  phase := 0
  begun := false

/-- The part right after a cold reset with every strap pin low, every touch input absent, both stop lines
released and the bus free (DESIGN CHOICE, unsafe, log 6), before the first latch strobe (log 7), with show
memory never written (log 8). Every other value is the spec's. -/
def State.reset : State where
  period := PeriodTimer.afterReset
  bc := BusController.afterReset false
  sc := StationController.afterReset 0
  cq := CueSequencer.afterReset
  fe := FadeEngine.afterReset
  mr := MixResolver.afterReset none
  st := StripController.afterReset (Vector.replicate 16 (Strip.afterReset 0 false))
  sp := StopController.afterReset false false
  lp := LoadPort.afterReset
  sm := { bytes := [], image := none }
  pending := []

end Sys2Proof.Machine
end

