-- ==== Sys2Proof/Machine/Arithmetic.lean ====
section
/-!
DEFINITION. The arithmetic of chapters 1, 4 and 6: taper, sum and codes, slew, fade curves, servo duty.
Products are exact and roundings are as each rule states them.
-/

namespace Sys2Proof.Machine

/-- A number brought into 0 to 1023; the callers' numbers already lie there (R1, R69). -/
def clampPosition (x : Int) : Position :=
  ⟨min x.toNat 1023, by omega⟩

/-- A number brought into 0 to 1000. -/
def clampCode (x : Int) : GainCode :=
  ⟨min x.toNat 1000, by omega⟩

/-- The taper of a position from 1 to 1023, in tenths of a decibel (R2); position 0 has none. -/
def taper (p : Position) : Int :=
  let x : Int := p.val
  if x ≤ 128 then -800 + (x - 1) * 300 / 127
  else if x ≤ 256 then -500 + (x - 128) * 200 / 128
  else if x ≤ 512 then -300 + (x - 256) * 200 / 256
  else if x ≤ 768 then -100 + (x - 512) * 100 / 256
  else (x - 768) * 100 / 255

/-- The resolved code of a sum (R7). -/
def resolvedCode (sum : Int) : GainCode :=
  if sum ≤ -900 then 0
  else if sum ≤ 100 then clampCode (sum + 900)
  else 1000

/-- The stop level code of a stop level (R11). -/
def stopLevelCode (level : Position) : GainCode :=
  if level = 0 then 0 else resolvedCode (taper level)

/-- One output point of slew (R12). -/
def slew (step : Nat) (applied aim : GainCode) : GainCode :=
  if applied.val ≤ aim.val then
    if aim.val - applied.val ≤ step then aim else clampCode (applied.val + step)
  else
    if applied.val - aim.val ≤ step then aim else clampCode (applied.val - step)

/-- The progress of a fade, 0 to 4096 (R68). -/
def progress (elapsed duration : Nat) : Nat :=
  4096 * elapsed / duration

/-- The fade fraction of a curve (R68). -/
def fadeFraction (curve : Curve) (elapsed duration : Nat) : Nat :=
  let p := progress elapsed duration
  match curve with
  | .linear => p
  | .scurve => p * p * (12288 - 2 * p) / 16777216
  | .early => 4096 - (4096 - p) * (4096 - p) / 4096
  | .late => p * p / 4096

/-- The fade level of a RUNNING record (R69): the quotient is truncated toward zero. -/
def fadeLevel (start target : Position) (curve : Curve) (elapsed duration : Nat) : Position :=
  clampPosition (start.val
    + (((target.val : Int) - start.val) * fadeFraction curve elapsed duration).tdiv 4096)

/-- Level points of a show time field (R22). -/
def levelPoints (field : Nat) : Nat := 10 * field

/-- Microseconds of a show time field, in units of 10 ms (R21). -/
def showTime (field : Nat) : Micros := 10 * field * Config.ms

/-- The duty of a driven motor for an error of magnitude `e` (R116). -/
def driveDuty (h : Header) (e : Nat) : Nat :=
  min 255 (max h.minDuty (h.kp * e))

/-- Two differences of opposite signs (R112). -/
def oppositeSigns (x y : Int) : Bool :=
  (0 < x && y < 0) || (x < 0 && 0 < y)

/-- Two positions no more than `n` counts apart. -/
def within (n : Nat) (x y : Position) : Bool :=
  x.val - y.val ≤ n && y.val - x.val ≤ n

end Sys2Proof.Machine
end

