-- ==== Sys2Proof/Machine/Tables.lean ====
section
/-!
DEFINITION. The fixed-size tables of the part: writing one place, changing every place, and the lists of
all channels, groups and peers in ascending order.
-/

namespace Sys2Proof.Machine

/-- `v` with place `i` holding `x`. -/
def put {α : Type} {n : Nat} (v : Vector α n) (i : Fin n) (x : α) : Vector α n :=
  v.set i.val x i.isLt

/-- Every place of `v` changed by `f`. -/
def mapTable {α β : Type} {n : Nat} (f : α → β) (v : Vector α n) : Vector β n :=
  ⟨⟨v.toList.map f⟩, by simp⟩

/-- The table whose place `i` holds `f i`. -/
def tabulate {α : Type} {n : Nat} (f : Fin n → α) : Vector α n :=
  ⟨⟨(List.finRange n).map f⟩, by simp⟩

/-- The sixteen channels in channel order. -/
def channels : List Channel := List.finRange 16

/-- The 32 groups in group order. -/
def groupNumbers : List Group := List.finRange 32

/-- The 31 peers in station order. -/
def peerNumbers : List Peer := List.finRange 31

/-- Channel number, 1 to 16. -/
def channelNumber (ch : Channel) : Nat := ch.val + 1

/-- Group number, 1 to 32. -/
def groupNumber (g : Group) : Nat := g.val + 1

/-- Station number of a peer, 1 to 31. -/
def peerNumber (p : Peer) : Nat := p.val + 1

/-- The channel a number names, if it is 1 to 16. -/
def toChannel? (n : Nat) : Option Channel :=
  if h : 1 ≤ n ∧ n ≤ 16 then some ⟨n - 1, by omega⟩ else none

/-- The group a number names, if it is 1 to 32. -/
def toGroup? (n : Nat) : Option Group :=
  if h : 1 ≤ n ∧ n ≤ 32 then some ⟨n - 1, by omega⟩ else none

/-- The peer a station number names, if it is 1 to 31. -/
def toPeer? (n : Nat) : Option Peer :=
  if h : 1 ≤ n ∧ n ≤ 31 then some ⟨n - 1, by omega⟩ else none

/-- The position a number is, if it is 0 to 1023 (R1). -/
def toPosition? (n : Nat) : Option Position :=
  if h : n < 1024 then some ⟨n, h⟩ else none

/-- A cue number is 1 to 99999 hundredths (0.6). -/
def isCueNumber (n : Nat) : Bool :=
  1 ≤ n && n ≤ 99999

end Sys2Proof.Machine
end

