-- ==== Sys2Proof/Machine/Formats.lean ====
section
/-!
DEFINITION. Chapter 11: the layouts a bus partner, the rack processor and the attenuators see, and the
codes of chapter 7's frames. Numbers wider than a byte go high byte first (R179).
-/

namespace Sys2Proof.Machine

/-! ## Numbers in bytes (R179) -/

/-- A number in one byte. -/
def byte1 (n : Nat) : Byte := BitVec.ofNat 8 n

/-- A number in two bytes, high byte first. -/
def bytes2 (n : Nat) : List Byte := [byte1 (n / 256), byte1 n]

/-- A number in three bytes, high byte first. -/
def bytes3 (n : Nat) : List Byte := [byte1 (n / 65536), byte1 (n / 256), byte1 n]

/-- A yes or no in one byte, 1 or 0. R182 gives the mute bytes of READ GROUP no codes (DESIGN CHOICE, log 38). -/
def boolByte (b : Bool) : Byte := if b then 1 else 0

/-- The number some bytes hold, high byte first. -/
def numberOf (bytes : List Byte) : Nat :=
  bytes.foldl (fun n b => n * 256 + b.toNat) 0

/-! ## The CRC (R180) -/

/-- One data bit into the CRC register. -/
def crcBit (reg : BitVec 16) (bit : Bool) : BitVec 16 :=
  let shifted := reg <<< 1
  if bit != reg.getLsbD 15 then shifted ^^^ 0x1021#16 else shifted

/-- One byte into the CRC register, most significant bit first. -/
def crcByte (reg : BitVec 16) (b : Byte) : BitVec 16 :=
  [7, 6, 5, 4, 3, 2, 1, 0].foldl (fun r i => crcBit r (b.getLsbD i)) reg

/-- The CRC of some bytes, from the initial value FFFFh. -/
def crc (bytes : List Byte) : BitVec 16 :=
  bytes.foldl crcByte 0xFFFF#16

/-! ## Codes of quantities (R182, R183) -/

/-- Class code (R124). -/
def FrameClass.code : FrameClass → Nat
  | .stop => 0
  | .cue => 1
  | .group => 2
  | .state => 3

/-- The class two bits name (R124). -/
def classOf (bits : Nat) : FrameClass :=
  match bits with
  | 0 => .stop
  | 1 => .cue
  | 2 => .group
  | _ => .state

/-- Payload bytes of a class (R124). -/
def payloadLength : FrameClass → Nat
  | .stop => 1
  | .cue => 3
  | .group => 2
  | .state => 3

/-- Stop kind code (R183). -/
def kindCode : StopKind → Nat
  | .a => 0
  | .b => 1

/-- Origin kind code (R183). -/
def originCode : OriginKind → Nat
  | .key => 0
  | .port => 1
  | .follow => 2

/-- Station state code (R182). -/
def stateCode : StationState → Nat
  | .load => 0
  | .validating => 1
  | .loadFault => 2
  | .listen => 3
  | .catchup => 4
  | .run => 5

/-- Bus controller state code (R182). -/
def busPhaseCode : BusPhase → Nat
  | .idle => 0
  | .receiving => 1
  | .sending => 2
  | .broken => 3
  | .fault => 4

/-- Effective stop code (R182). -/
def stopCode : EffectiveStop → Nat
  | .none => 0
  | .b => 1
  | .a => 2

/-- Stop machine code (R182). -/
def machineCode : MachineState → Nat
  | .clear => 0
  | .announcing => 1
  | .held => 2
  | .releasing => 3

/-- Peer table state code (R182). -/
def presenceCode : Presence → Nat
  | .absent => 0
  | .present => 1
  | .lost => 2

/-- Role code (R181). -/
def roleCode : Role → Nat
  | .unused => 0
  | .audio _ _ => 1
  | .master _ => 2

/-- Mode code (R182). -/
def modeCode : Mode → Nat
  | .auto => 0
  | .hand => 1

/-- Motor state code (R182). -/
def motorCode : Motor → Nat
  | .off => 0
  | .brake => 1
  | .driveUp _ => 2
  | .driveDown _ => 3
  | .rest => 4
  | .stalled => 5

/-- Result byte code (R182). -/
def resultCode : PortResult → Nat
  | .ok => 0
  | .wrongState => 1
  | .badArgument => 2
  | .full => 3
  | .busy => 4
  | .stopped => 5
  | .unknownCommand => 6

/-- Load fault reason code (R183). -/
def loadFaultCode : LoadFaultReason → Nat
  | .crcMismatch => 1
  | .badVersion => 2
  | .size => 3
  | .badChannelEntry => 4
  | .duplicateMaster => 5
  | .cueOrder => 6
  | .moveChannel => 7
  | .badValue => 8
  | .followTarget => 9

/-- Event kind code (R183). -/
def eventCode : EventKind → Nat
  | .cueFired => 0x01
  | .cueAbsorbed => 0x02
  | .goRefused => 0x03
  | .goQueueFull => 0x04
  | .requestRefused => 0x05
  | .endOfList => 0x06
  | .poolFull => 0x07
  | .moveHeldOff => 0x08
  | .motorStall => 0x09
  | .headroom => 0x0A
  | .groupConflict => 0x0B
  | .groupStale => 0x0C
  | .peerJoined => 0x0D
  | .peerLost => 0x0E
  | .orphanStop => 0x0F
  | .duplicateStation => 0x10
  | .catchupDone => 0x11
  | .restart => 0x12
  | .stopChange => 0x13
  | .frameError => 0x14
  | .txAbandoned => 0x15
  | .busFault => 0x16
  | .busRestored => 0x17
  | .loadFault => 0x18

/-- A cue or none as a number; none is 0 (R179). -/
def cueCode (cue : Option CueNumber) : Nat := cue.getD 0

/-- An origin station with an origin kind (R183). -/
def originPair (station : Nat) (kind : OriginKind) : Nat := station * 4 + originCode kind

/-- An event record in its 8 bytes (R183). -/
def recordBytes (r : EventRecord) : List Byte :=
  [byte1 ((if r.gap then 128 else 0) + eventCode r.kind)]
    ++ bytes2 r.stamp
    ++ [byte1 (r.first / 4096), byte1 (r.first / 16), byte1 (r.first % 16 * 16 + r.second / 65536 % 16)]
    ++ bytes2 r.second

/-- A gain link word: bits 15 to 10 are 0, bits 9 to 0 the code (R179). -/
def linkWord (code : GainCode) : BitVec 16 := BitVec.ofNat 16 code.val

/-! ## Groups of a frame (R123) -/

/-- The 5-bit group of four data bits: its guard bit is the complement of the fourth data bit. -/
def groupOf (nibble : BitVec 4) : BitVec 5 :=
  nibble ++ BitVec.ofBool (!nibble.getLsbD 0)

/-- The four data bits of a group as read. -/
def nibbleOf (group : BitVec 5) : BitVec 4 := group.extractLsb' 1 4

/-- The guard bit differs from the fourth data bit. -/
def guardSound (group : BitVec 5) : Bool := group.getLsbD 0 != group.getLsbD 1

/-- The two groups of a byte, high data bits first. -/
def byteGroups (b : Byte) : List (BitVec 5) :=
  [groupOf (b.extractLsb' 4 4), groupOf (b.extractLsb' 0 4)]

/-- The bytes that groups as read hold; a last group without a partner is dropped. -/
def groupBytes : List (BitVec 5) → List Byte
  | first :: second :: rest => (nibbleOf first ++ nibbleOf second) :: groupBytes rest
  | _ => []

/-! ## Frames (R124, R180) -/

/-- Class of a payload. -/
def payloadClass : Payload → FrameClass
  | .stop _ _ _ => .stop
  | .cue _ _ _ => .cue
  | .group _ _ _ => .group
  | .state _ _ _ _ => .state

/-- Bit times of a frame of a class: its start bit, and ten for each byte (R124). -/
def frameBits (cls : FrameClass) : Nat := 1 + 10 * (payloadLength cls + 3)

/-- Arbitration byte: class in bits 7 and 6, station number in bits 5 to 1, repeat flag in bit 0. -/
def arbitrationByte (cls : FrameClass) (sender : Station) (repeated : Bool) : Byte :=
  BitVec.ofNat 2 cls.code ++ BitVec.ofNat 5 sender.val ++ BitVec.ofBool repeated

/-- The payload bytes of a frame. -/
def payloadBytes : Payload → List Byte
  | .stop release kind target =>
    [BitVec.ofBool release ++ BitVec.ofNat 1 (kindCode kind) ++ 0#1 ++ BitVec.ofNat 5 target.val]
  | .cue kind origin cue =>
    [BitVec.ofBool (kind == .standby) ++ BitVec.ofNat 2 (originCode origin) ++ 0#4 ++ BitVec.ofNat 1 (cue / 65536)]
      ++ bytes2 cue
  | .group group mute position =>
    [BitVec.ofNat 5 group.val ++ BitVec.ofBool mute ++ BitVec.ofNat 2 (position.val / 256), byte1 position.val]
  | .state solo stopA stopB last =>
    [BitVec.ofBool solo ++ BitVec.ofBool stopA ++ BitVec.ofBool stopB ++ BitVec.ofBool last.isSome ++ 0#3
        ++ BitVec.ofNat 1 (cueCode last / 65536)]
      ++ bytes2 (cueCode last)

/-- The bytes of a frame after its start bit: arbitration byte, payload, CRC high and low byte. -/
def frameBytes (sender : Station) (repeated : Bool) (p : Payload) : List Byte :=
  let body := arbitrationByte (payloadClass p) sender repeated :: payloadBytes p
  body ++ bytes2 (crc body).toNat

/-- The groups a frame puts on the bus after its start bit. -/
def frameGroups (sender : Station) (repeated : Bool) (p : Payload) : List (BitVec 5) :=
  (frameBytes sender repeated p).flatMap byteGroups

/-- The payload that payload bytes hold; none is a FIELD fault (R128, R180). -/
def readPayload (cls : FrameClass) (bytes : List Byte) : Option Payload :=
  match cls, bytes with
  | .stop, [b] =>
    let target : Station := ⟨b.toNat % 32, Nat.mod_lt _ (by decide)⟩
    if b.getLsbD 5 || target == 0 then none
    else some (.stop (b.getLsbD 7) (if b.getLsbD 6 then .b else .a) target)
  | .cue, [b, hi, lo] =>
    let cue := b.toNat % 2 * 65536 + numberOf [hi, lo]
    let kind := if b.getLsbD 7 then CueKind.standby else .fire
    if b.extractLsb' 1 4 != 0#4 || !isCueNumber cue then none
    else match b.toNat / 32 % 4 with
      | 0 => some (.cue kind .key cue)
      | 1 => some (.cue kind .port cue)
      | 2 => some (.cue kind .follow cue)
      | _ => none
  | .group, [b, lo] =>
    some (.group ⟨b.toNat / 8, by have := b.isLt; omega⟩ (b.getLsbD 2)
      ⟨b.toNat % 4 * 256 + lo.toNat, by have := lo.isLt; have := Nat.mod_lt b.toNat (show 4 > 0 by decide); omega⟩)
  | .state, [b, hi, lo] =>
    let cue := b.toNat % 2 * 65536 + numberOf [hi, lo]
    let last := if b.getLsbD 4 then some cue else none
    if b.extractLsb' 1 3 != 0#3 || (if b.getLsbD 4 then !isCueNumber cue else cue != 0) then none
    else some (.state (b.getLsbD 7) (b.getLsbD 6) (b.getLsbD 5) last)
  | _, _ => none

/-- Why a received frame is rejected, in the order of R128's table. -/
inductive FrameFault where
  | guard
  | crc
  | field
  | senderZero
  deriving DecidableEq, Repr

/-- Frame error reason code (R183). -/
def frameFaultCode : FrameFault → Nat
  | .guard => 0
  | .crc => 1
  | .field => 2
  | .senderZero => 3

/-- A received frame after the checks of R128: the station number as read, and the frame or the first reason
it is rejected for. -/
structure FrameReading where
  station : Nat
  result : Except FrameFault (Peer × Bool × Payload)

/-- Class of a frame by the first two data bits of its first group (R124). -/
def classRead (groups : List (BitVec 5)) : FrameClass :=
  classOf ((groups.headD 0).toNat / 8)

/-- The groups of a frame whose length its class bits give (R128). A group that was not read is taken as all
dominant, which holds a guard violation; groups beyond the length are not the frame's (log 16). -/
def groupsRead (groups : List (BitVec 5)) : List (BitVec 5) :=
  let n := 2 * (payloadLength (classRead groups) + 3)
  groups.take n ++ List.replicate (n - groups.length) 0

/-- The dominant run that ends at the frame's last bit (R137): 0 or 1 bit times in a frame with sound guards. -/
def lastRun (groups : List (BitVec 5)) : Nat :=
  ((groupBits (groupsRead groups)).reverse.takeWhile (!·)).length

/-- The checks of R128 on a frame as read, in the order of its table. -/
def readFrame (groups : List (BitVec 5)) : FrameReading :=
  let cls := classRead groups
  let read := groupsRead groups
  let bytes := groupBytes read
  let arbitration := bytes.headD 0
  let station := arbitration.toNat / 2 % 32
  let bodyLength := payloadLength cls + 1
  let result :=
    if read.any (fun g => !guardSound g) then .error FrameFault.guard
    else if (crc (bytes.take bodyLength)).toNat != numberOf (bytes.drop bodyLength) then .error .crc
    else match readPayload cls ((bytes.take bodyLength).drop 1) with
      | none => .error .field
      | some payload =>
        match toPeer? station with
        | none => .error .senderZero
        | some sender => .ok (sender, arbitration.getLsbD 0, payload)
  { station := station, result := result }

end Sys2Proof.Machine
end

