-- ==== Sys2Proof/Machine/Validation.lean ====
section
/-!
DEFINITION. Validation of a show image (R23 to R28, layout R181), first fault in image order, and the
catch-up walk (R32), both over the bytes and records of show memory.
-/

namespace Sys2Proof.Machine

/-- A load fault: its reason and the offset of the field in fault (R23). -/
abbrev LoadFault := LoadFaultReason × Nat

/-- What is left of the image to read, and the offset it starts at. -/
structure Cursor where
  rest : List Byte
  offset : Nat

/-- The next byte; past the loaded length the image is short (R24). -/
def field1 (c : Cursor) : Except LoadFault (Nat × Cursor) :=
  match c.rest with
  | b :: rest => .ok (b.toNat, { rest := rest, offset := c.offset + 1 })
  | [] => .error (.size, c.offset)

/-- The next two bytes as a number. -/
def field2 (c : Cursor) : Except LoadFault (Nat × Cursor) := do
  let (hi, c) ← field1 c
  let (lo, c) ← field1 c
  return (hi * 256 + lo, c)

/-- The next three bytes as a number. -/
def field3 (c : Cursor) : Except LoadFault (Nat × Cursor) := do
  let (hi, c) ← field2 c
  let (lo, c) ← field1 c
  return (hi * 256 + lo, c)

/-- A fault at `at_` unless the check holds. -/
def require (ok : Bool) (reason : LoadFaultReason) (offset : Nat) : Except LoadFault Unit :=
  if ok then .ok () else .error (reason, offset)

/-- The value of a choice that must be there. -/
def requireSome {α : Type} (x : Option α) (reason : LoadFaultReason) (offset : Nat) : Except LoadFault α :=
  match x with
  | some a => .ok a
  | none => .error (reason, offset)

/-- Stop mode of a code (R181). -/
def stopMode? : Nat → Option StopMode
  | 0 => some .latched
  | 1 => some .follow
  | _ => none

/-- Curve of a code (R181). -/
def curve? : Nat → Option Curve
  | 0 => some .linear
  | 1 => some .scurve
  | 2 => some .early
  | 3 => some .late
  | _ => none

/-- The header (R18, R24, R25). -/
def readHeader (c : Cursor) : Except LoadFault (Header × Cursor) := do
  let at0 := c.offset
  let (version, c) ← field1 c
  require (version == 1) .badVersion at0
  let at1 := c.offset
  let (repeatGuard, c) ← field1 c
  require (repeatGuard ≤ 200) .badValue at1
  let at2 := c.offset
  let (slewStep, c) ← field2 c
  require (1 ≤ slewStep && slewStep ≤ 1000) .badValue at2
  let at3 := c.offset
  let (codeA, c) ← field1 c
  let modeA ← requireSome (stopMode? codeA) .badValue at3
  let at4 := c.offset
  let (codeB, c) ← field1 c
  let modeB ← requireSome (stopMode? codeB) .badValue at4
  let (touchHold, c) ← field1 c
  let at5 := c.offset
  let (deadband, c) ← field1 c
  require (1 ≤ deadband && deadband ≤ 15) .badValue at5
  let at6 := c.offset
  let (kp, c) ← field1 c
  require (1 ≤ kp && kp ≤ 16) .badValue at6
  let at7 := c.offset
  let (minDuty, c) ← field1 c
  require (minDuty ≤ 200) .badValue at7
  let at8 := c.offset
  let (reversalRest, c) ← field1 c
  require (reversalRest ≤ 15) .badValue at8
  let at9 := c.offset
  let (stallLimit, c) ← field2 c
  require (10 ≤ stallLimit && stallLimit ≤ 400) .badValue at9
  let at10 := c.offset
  let (eventThreshold, c) ← field1 c
  require (1 ≤ eventThreshold && eventThreshold ≤ 64) .badValue at10
  let (staleTime, c) ← field1 c
  let at11 := c.offset
  let (cueCount, c) ← field2 c
  require (1 ≤ cueCount && cueCount ≤ 1024) .size at11
  let at12 := c.offset
  let (moveCount, c) ← field2 c
  require (moveCount ≤ 6144) .size at12
  return ({ repeatGuard, slewStep, modeA, modeB, touchHold, deadband, kp, minDuty, reversalRest, stallLimit,
            eventThreshold, staleTime, cueCount, moveCount }, c)

/-- The first `count` member places of an entry, each 1 to 32 (R26, R181). -/
def readMembers : Nat → Cursor → Except LoadFault (List Group × Cursor)
  | 0, c => .ok ([], c)
  | count + 1, c => do
    let at0 := c.offset
    let (v, c) ← field1 c
    let g ← requireSome (toGroup? v) .badChannelEntry at0
    let (rest, c) ← readMembers count c
    return (g :: rest, c)

/-- No member equals an earlier one; a fault is at the later one's place (R26). -/
def requireDistinct : List Group → List Group → Nat → Except LoadFault Unit
  | _, [], _ => .ok ()
  | seen, g :: rest, offset => do
    require (!seen.contains g) .badChannelEntry offset
    requireDistinct (g :: seen) rest (offset + 1)

/-- The member places after the count, which are zeros (R181). -/
def readZeros : Nat → Cursor → Except LoadFault Cursor
  | 0, c => .ok c
  | places + 1, c => do
    let at0 := c.offset
    let (v, c) ← field1 c
    require (v == 0) .badChannelEntry at0
    readZeros places c

/-- The member list of an entry: the range of every member, then repeats, then the places behind it (R26, R181). -/
def readMemberList (count : Nat) (c : Cursor) : Except LoadFault (List Group × Cursor) := do
  let at0 := c.offset
  let (members, c) ← readMembers count c
  requireDistinct [] members at0
  let c ← readZeros (4 - count) c
  return (members, c)

/-- A stop action and its level (R19, R26). -/
def readStopAction (c : Cursor) : Except LoadFault (StopAction × Cursor) := do
  let at0 := c.offset
  let (code, c) ← field1 c
  require (code ≤ 2) .badChannelEntry at0
  let at1 := c.offset
  let (level, c) ← field2 c
  match code with
  | 0 =>
    require (level == 0) .badChannelEntry at1
    return (.mute, c)
  | 1 =>
    require (level == 0) .badChannelEntry at1
    return (.hold, c)
  | _ =>
    let p ← requireSome (toPosition? level) .badChannelEntry at1
    return (.level p, c)

/-- One channel entry (R19, R26); `hosted` are the groups hosted by the entries before it. -/
def readChannelEntry (hosted : List Group) (c : Cursor) :
    Except LoadFault (ChannelEntry × List Group × Cursor) := do
  let at0 := c.offset
  let (role, c) ← field1 c
  require (role ≤ 2) .badChannelEntry at0
  let at1 := c.offset
  let (host, c) ← field1 c
  let group : Option Group ←
    (if role == 2 then do
      let g ← requireSome (toGroup? host) .badChannelEntry at1
      require (!hosted.contains g) .duplicateMaster at1
      return some g
    else do
      require (host == 0) .badChannelEntry at1
      return none)
  let at2 := c.offset
  let (count, c) ← field1 c
  require (count ≤ 4 && (role == 1 || count == 0)) .badChannelEntry at2
  let (members, c) ← readMemberList count c
  let at3 := c.offset
  let (fader, c) ← field1 c
  require (fader ≤ 2 && (role != 0 || fader == 0)) .badChannelEntry at3
  let at4 := c.offset
  let (policy, c) ← field1 c
  require (policy == 0 || (policy == 1 && fader == 1)) .badChannelEntry at4
  let at5 := c.offset
  let (soloSafe, c) ← field1 c
  require (soloSafe == 0 || (soloSafe == 1 && role == 1)) .badChannelEntry at5
  let at6 := c.offset
  let (preset, c) ← field2 c
  let preset ← requireSome (toPosition? preset) .badChannelEntry at6
  let at7 := c.offset
  let (presetMute, c) ← field1 c
  require (presetMute ≤ 1) .badChannelEntry at7
  let (stopA, c) ← readStopAction c
  let (stopB, c) ← readStopAction c
  let entry : ChannelEntry :=
    { role := match group with
        | some g => .master g
        | none => if role == 1 then .audio members (soloSafe == 1) else .unused
      fader := match fader with
        | 0 => .absent
        | 1 => .motor (if policy == 1 then .returns else .keep)
        | _ => .plain
      preset := preset
      presetMute := presetMute == 1
      stopA := stopA
      stopB := stopB }
  return (entry, group.toList ++ hosted, c)

/-- The channel table, entries in slot order (R26). -/
def readChannels : List Channel → List Group → Vector ChannelEntry 16 → Cursor →
    Except LoadFault (Vector ChannelEntry 16 × Cursor)
  | [], _, table, c => .ok (table, c)
  | ch :: rest, hosted, table, c => do
    let (entry, hosted, c) ← readChannelEntry hosted c
    readChannels rest hosted (put table ch entry) c

/-- An UNUSED entry, what the channel table is filled from. -/
def blankEntry : ChannelEntry where
  role := .unused
  fader := .absent
  preset := 0
  presetMute := false
  stopA := .mute
  stopB := .mute

/-- A move's channel: 1 to 16 and not UNUSED (R27). -/
def moveChannel? (table : Vector ChannelEntry 16) (n : Nat) : Option Channel :=
  (toChannel? n).filter (fun ch => table[ch].role != .unused)

/-- One move (R22, R27). Kind and curve share a byte. -/
def readMove (table : Vector ChannelEntry 16) (c : Cursor) : Except LoadFault (Move × Cursor) := do
  let at0 := c.offset
  let (ch, c) ← field1 c
  let ch ← requireSome (moveChannel? table ch) .moveChannel at0
  let at1 := c.offset
  let (code, c) ← field1 c
  let kind := code / 16
  require (kind ≤ 2) .badValue at1
  let curve ← requireSome (curve? (code % 16)) .badValue at1
  require (kind == 0 || code % 16 == 0) .badValue at1
  let (delay, c) ← field2 c
  let at2 := c.offset
  let (fade, c) ← field2 c
  require (kind == 0 || fade == 0) .badValue at2
  let at3 := c.offset
  let (target, c) ← field2 c
  let target ← requireSome (toPosition? target) .badValue at3
  require (kind == 0 || target == 0) .badValue at3
  let kind := match kind with
    | 0 => MoveKind.level fade curve target
    | 1 => .muteOn
    | _ => .muteOff
  return ({ channel := ch, delay := delay, kind := kind }, c)

/-- A record's moves, in record order. -/
def readMoves (table : Vector ChannelEntry 16) : Nat → Cursor → Except LoadFault (List Move × Cursor)
  | 0, c => .ok ([], c)
  | n + 1, c => do
    let (m, c) ← readMove table c
    let (ms, c) ← readMoves table n c
    return (m :: ms, c)

/-- One cue record with its moves (R21, R24, R27). `previous` is the cue number before it, 0 at the first;
`total` the running total of move counts. -/
def readCue (h : Header) (table : Vector ChannelEntry 16) (previous total : Nat) (c : Cursor) :
    Except LoadFault (CueRecord × Nat × Cursor) := do
  let at0 := c.offset
  let (number, c) ← field3 c
  require (isCueNumber number) .badValue at0
  require (previous < number) .cueOrder at0
  let at1 := c.offset
  let (count, c) ← field1 c
  require (count ≤ 64) .size at1
  require (total + count ≤ h.moveCount) .size at1
  let at2 := c.offset
  let (mark, c) ← field1 c
  require (mark ≤ 1) .badValue at2
  let at3 := c.offset
  let (target, c) ← field3 c
  require (if mark == 1 then isCueNumber target else target == 0) .badValue at3
  require (mark == 0 || target != number) .followTarget at3
  let at4 := c.offset
  let (delay, c) ← field2 c
  require (mark == 1 || delay == 0) .badValue at4
  let (moves, c) ← readMoves table count c
  let follow := if mark == 1 then some { target := target, delay := delay } else none
  return ({ number := number, follow := follow, moves := moves }, total + count, c)

/-- The cue table, records in table order (R27); the total of their move counts comes with it. -/
def readCues (h : Header) (table : Vector ChannelEntry 16) : Nat → Nat → Nat → Cursor →
    Except LoadFault (List CueRecord × Nat × Cursor)
  | 0, _, total, c => .ok ([], total, c)
  | n + 1, previous, total, c => do
    let (cue, total, c) ← readCue h table previous total c
    let (cues, total, c) ← readCues h table n cue.number total c
    return (cue :: cues, total, c)

/-- Validation of the loaded bytes (R23): the image, or the first fault in image order. -/
def validate (bytes : List Byte) : Except LoadFault ShowImage := do
  let (header, c) ← readHeader { rest := bytes, offset := 0 }
  let (table, c) ← readChannels channels [] (Vector.replicate 16 blankEntry) c
  let (cues, total, c) ← readCues header table header.cueCount 0 0 c
  require (total == header.moveCount) .size c.offset
  let crcAt := c.offset
  let (sum, c) ← field2 c
  require (sum == (crc (bytes.take crcAt)).toNat) .crcMismatch crcAt
  require c.rest.isEmpty .size c.offset
  return { header := header, channels := table, cues := cues }

/-! ## Lookups (R30) -/

/-- The record of cue `n`. -/
def recordOf (cues : List CueRecord) (n : CueNumber) : Option CueRecord :=
  cues.find? (fun r => r.number == n)

/-- The smallest cue number of the table above `n`; the table ascends (R21). -/
def nextCueAfter (cues : List CueRecord) (n : CueNumber) : Option CueNumber :=
  (cues.find? (fun r => n < r.number)).map (·.number)

/-- The smallest cue number of the table at or above `n`. -/
def cueAtOrAfter (cues : List CueRecord) (n : CueNumber) : Option CueNumber :=
  (cues.find? (fun r => n ≤ r.number)).map (·.number)

/-- The first cue of the show. -/
def firstCue (cues : List CueRecord) : Option CueNumber :=
  cues.head?.map (·.number)

/-- The moves of cue `n`: none when it has no record (R21). -/
def movesOf (cues : List CueRecord) (n : CueNumber) : List Move :=
  match recordOf cues n with
  | some r => r.moves
  | none => []

/-! ## The catch-up walk (R32) -/

/-- The tracked state the walk begins with: every channel's presets. -/
def presets (image : ShowImage) : Vector Tracked 16 :=
  mapTable (fun e => { level := e.preset, mute := e.presetMute }) image.channels

/-- One move of the walk: the last move on a channel decides; delays, fade times and curves are not used. -/
def walkMove (t : Vector Tracked 16) (m : Move) : Vector Tracked 16 :=
  match m.kind with
  | .level _ _ target => put t m.channel { t[m.channel] with level := target }
  | .muteOn => put t m.channel { t[m.channel] with mute := true }
  | .muteOff => put t m.channel { t[m.channel] with mute := false }

/-- The records the walk reads for a candidate: those at or below it, or none without a candidate. -/
def walkedCues (cues : List CueRecord) (candidate : Option CueNumber) : List CueRecord :=
  match candidate with
  | some c => cues.takeWhile (fun r => r.number ≤ c)
  | none => []

/-- The tracked state as of the candidate. -/
def catchUpWalk (image : ShowImage) (candidate : Option CueNumber) : Vector Tracked 16 :=
  (walkedCues image.cues candidate).foldl (fun t r => r.moves.foldl walkMove t) (presets image)

end Sys2Proof.Machine
end

