-- ==== Sys2Proof/Machine/Operands.lean ====
section
/-!
DEFINITION. What the blocks read of the show image while it is VALID (R17, R20), and the arguments of port
commands as the quantities they name (R172, R173, R175, R182).
-/

namespace Sys2Proof.Machine

/-! ## Settings and channel table -/

/-- The channel's entry while show memory is VALID. -/
def entryOf (s : State) (ch : Channel) : Option ChannelEntry :=
  s.sm.image.map (fun im => im.channels[ch])

/-- The channel's role; a station with no VALID image has no AUDIO or MASTER channel (R90). -/
def roleOf (s : State) (ch : Channel) : Role :=
  match entryOf s ch with
  | some e => e.role
  | none => .unused

/-- The channel's fader kind; while INVALID no wiper and no touch input is followed (R103, R104). -/
def faderOf (s : State) (ch : Channel) : Fader :=
  match entryOf s ch with
  | some e => e.fader
  | none => .absent

/-- The channel is AUDIO. -/
def isAudio (s : State) (ch : Channel) : Bool :=
  match roleOf s ch with
  | .audio _ _ => true
  | _ => false

/-- The groups an AUDIO channel is a member of. -/
def membersOf (s : State) (ch : Channel) : List Group :=
  match roleOf s ch with
  | .audio groups _ => groups
  | _ => []

/-- The channel is solo-safe. -/
def soloSafe (s : State) (ch : Channel) : Bool :=
  match roleOf s ch with
  | .audio _ safe => safe
  | _ => false

/-- The group a MASTER channel hosts. -/
def hostedGroup (s : State) (ch : Channel) : Option Group :=
  match roleOf s ch with
  | .master g => some g
  | _ => none

/-- The channel that hosts a group on this station (R90). -/
def hostOf (s : State) (g : Group) : Option Channel :=
  channels.find? (fun ch => hostedGroup s ch == some g)

/-- The channel's fader is a MOTOR. -/
def isMotor (s : State) (ch : Channel) : Bool :=
  match faderOf s ch with
  | .motor _ => true
  | _ => false

/-- The channel's fader is a MOTOR with touch policy KEEP. -/
def isKeep (s : State) (ch : Channel) : Bool :=
  faderOf s ch == .motor .keep

/-- The channel's fader is PLAIN. -/
def isPlain (s : State) (ch : Channel) : Bool :=
  faderOf s ch == .plain

/-- The wipers that are converted: those of MOTOR and PLAIN channels (R103). -/
def hasWiper (s : State) (ch : Channel) : Bool :=
  faderOf s ch != .absent

/-- A header setting, or a value that no block uses while INVALID (R17). -/
def setting {α : Type} (s : State) (invalid : α) (f : Header → α) : α :=
  match s.sm.image with
  | some im => f im.header
  | none => invalid

/-- The stop mode of a kind (R18). -/
def stopModeOf (s : State) (k : StopKind) : StopMode :=
  match k with
  | .a => setting s .latched (·.modeA)
  | .b => setting s .latched (·.modeB)

/-- The repeat guard window (R18, R43). -/
def guardWindow (s : State) : Micros :=
  setting s 0 (fun h => showTime h.repeatGuard)

/-- The touch release hold (R18). -/
def touchHold (s : State) : Micros :=
  setting s 0 (fun h => h.touchHold * Config.ms)

/-- The stall limit in output points (R18, R118). -/
def stallLimit (s : State) : Nat :=
  setting s 0 (fun h => 10 * h.stallLimit)

/-- The event threshold: 1 while INVALID (R18). -/
def eventThreshold (s : State) : Nat :=
  setting s 1 (·.eventThreshold)

/-- The event stale time: 0, off, while INVALID (R18). -/
def staleTime (s : State) : Micros :=
  setting s 0 (fun h => h.staleTime * Config.ms)

/-- The cue table while VALID. -/
def cueTable (s : State) : List CueRecord :=
  match s.sm.image with
  | some im => im.cues
  | none => []

/-! ## Arguments of port commands -/

/-- A channel argument (R173, R175). -/
def channelArgument (b : Byte) : Option Channel := toChannel? b.toNat

/-- A peer argument (R173). -/
def peerArgument (b : Byte) : Option Peer := toPeer? b.toNat

/-- A group argument (R173). -/
def groupArgument (b : Byte) : Option Group := toGroup? b.toNat

/-- A stop kind argument (R165, R182). -/
def kindArgument (b : Byte) : Option StopKind :=
  match b.toNat with
  | 0 => some .a
  | 1 => some .b
  | _ => none

/-- The count argument of READ EVENTS: 1 to 64 (R177). -/
def countArgument (b : Byte) : Option Nat :=
  if 1 ≤ b.toNat && b.toNat ≤ 64 then some b.toNat else none

/-- A cue argument: 1 to 99999 (R38). -/
def cueArgument (c : BitVec 24) : Option CueNumber :=
  if isCueNumber c.toNat then some c.toNat else none

end Sys2Proof.Machine
end

