-- ==== Sys2Proof/Machine/Flags.lean ====
section
/-!
DEFINITION. The conditions the blocks test, each computed from the state as it stands, and the flag bytes of
the port responses (R182).
-/

namespace Sys2Proof.Machine

/-! ## Identity and sending -/

/-- The follower flag (R142). -/
def isFollower (s : State) : Bool := s.sc.number == 0

/-- A follower or a TX-muted station (R54, R139). -/
def cannotSend (s : State) : Bool := isFollower s || s.sc.txMuted

/-- A station whose pending frames are abandoned as they become pending (R138, R139). -/
def cannotBid (s : State) : Bool := cannotSend s || s.bc.phase == .fault

/-- A station that can announce its stops (R160). -/
def canAnnounce (s : State) : Bool := !cannotBid s && s.sc.state == .run

/-- The peer is another station than this one (R148, R149). -/
def isOwn (s : State) (p : Peer) : Bool := peerNumber p == s.sc.number.val

/-! ## Solo (R86, R87) -/

/-- Station solo. -/
def stationSolo (s : State) : Bool := s.mr.solo.toList.any id

/-- Global solo. -/
def globalSolo (s : State) : Bool :=
  stationSolo s || s.sc.peers.toList.any (fun p => p.presence == .present && p.solo)

/-! ## Stops -/

/-- The stop line of a kind. -/
def lineOf (s : State) : StopKind → StopLine
  | .a => s.sp.lineA
  | .b => s.sp.lineB

/-- The local stop machine of a kind. -/
def machineOf (s : State) : StopKind → StopMachine
  | .a => s.sp.machineA
  | .b => s.sp.machineB

/-- The stop flag of a kind in a peer table entry. -/
def PeerEntry.stop (p : PeerEntry) : StopKind → Bool
  | .a => p.stopA
  | .b => p.stopB

/-- A machine that counts toward the effective stop and is reported held (9.2, R154). -/
def StopMachine.holds (m : StopMachine) : Bool :=
  m.state == .held || m.state == .releasing

/-- A kind is in force at this station (R168). -/
def kindInForce (s : State) (k : StopKind) : Bool :=
  (machineOf s k).holds
    || s.sc.peers.toList.any (fun p => p.presence != .absent && p.stop k)

/-- The derived stop (R168). -/
def derivedStop (s : State) : EffectiveStop :=
  if kindInForce s .a then .a else if kindInForce s .b then .b else .none

/-- A outranks B, and B outranks NONE (R168). -/
def stopRank : EffectiveStop → Nat
  | .none => 0
  | .b => 1
  | .a => 2

/-- A stop is in force. -/
def stopped (s : State) : Bool := s.sp.effective != .none

/-- The release condition of a machine in HELD (R162). -/
def releaseCondition (s : State) (k : StopKind) : Bool :=
  !(lineOf s k).asserted && (stopModeOf s k == .follow || (machineOf s k).ack)

/-! ## Channels and masters -/

/-- A channel held under KEEP (R73). -/
def heldUnderKeep (s : State) (ch : Channel) : Bool :=
  isKeep s ch && s.st.strips[ch].mode == .hand

/-- The position that acts for a channel: hand level in HAND, cue level in AUTO (R5, R90, R107). -/
def sourcePosition (s : State) (ch : Channel) : Position :=
  match s.st.strips[ch].mode with
  | .hand => s.st.strips[ch].hand
  | .auto => s.fe.levels[ch]

/-- A hosted master is dirty (R97). -/
def masterDirty (s : State) (ch : Channel) : Bool :=
  s.mr.masters[ch].lastSent != some (sourcePosition s ch, s.mr.mute[ch])

/-- A hosted master is eligible for a GROUP frame (R97). -/
def masterEligible (s : State) (ch : Channel) : Bool :=
  (hostedGroup s ch).isSome && !s.mr.masters[ch].demoted
    && ((masterDirty s ch && Config.groupSpacing ≤ s.mr.masters[ch].since)
      || Config.groupRefresh ≤ s.mr.masters[ch].since)

/-- The hosting channel of a group whose master is HOSTING here (R6, R88). -/
def hostingMaster (s : State) (g : Group) : Option Channel :=
  (hostOf s g).filter (fun ch => !s.mr.masters[ch].demoted)

/-- The master position of a member group (R6). -/
def masterPosition (s : State) (g : Group) : Position :=
  match hostingMaster s g with
  | some ch => sourcePosition s ch
  | none =>
    match s.mr.groups[g] with
    | .owned e => e.position
    | .unowned => 768

/-- The mute of a member group's master (R88). -/
def masterMute (s : State) (g : Group) : Bool :=
  match hostingMaster s g with
  | some ch => s.mr.mute[ch]
  | none =>
    match s.mr.groups[g] with
    | .owned e => e.mute
    | .unowned => false

/-- Mute resolution of an AUDIO channel (R88). -/
def resolvedMute (s : State) (ch : Channel) : Bool :=
  s.mr.mute[ch] || (membersOf s ch).any (masterMute s)
    || (globalSolo s && !s.mr.solo[ch] && !soloSafe s ch)

/-! ## Load port -/

/-- The condition under which ATTN is asserted (R178). -/
def attnCondition (s : State) : Bool :=
  eventThreshold s ≤ s.lp.queue.length || (!s.lp.queue.isEmpty && s.lp.stale == .expired)

/-- The timestamp (R156). -/
def timestamp (s : State) : Nat := s.sc.stamp / Config.ms

/-- Flags byte of READ STATUS (R182). The bits the layout does not name are 0 (DESIGN CHOICE, log 37). -/
def statusFlags (s : State) : Byte :=
  BitVec.ofBool (isFollower s) ++ BitVec.ofBool s.sc.txMuted ++ BitVec.ofBool (globalSolo s) ++ 0#2
    ++ BitVec.ofNat 3 (busPhaseCode s.bc.phase)

/-- Stops byte of READ STATUS (R182). The bits the layout does not name are 0 (DESIGN CHOICE, log 37). -/
def stopsByte (s : State) : Byte :=
  BitVec.ofNat 2 (stopCode s.sp.effective) ++ BitVec.ofNat 2 (machineCode s.sp.machineA.state)
    ++ BitVec.ofNat 2 (machineCode s.sp.machineB.state) ++ 0#2

/-- Flags byte of READ CHANNEL (R182). The bits the layout does not name are 0 (DESIGN CHOICE, log 37). -/
def channelFlags (s : State) (ch : Channel) : Byte :=
  BitVec.ofBool s.mr.mute[ch] ++ BitVec.ofBool s.mr.solo[ch] ++ BitVec.ofBool s.mr.headroom[ch] ++ 0#5

/-- Flags byte of READ PEER (R182). The bits the layout does not name are 0 (DESIGN CHOICE, log 37). -/
def peerFlags (p : PeerEntry) : Byte :=
  BitVec.ofBool p.solo ++ BitVec.ofBool p.stopA ++ BitVec.ofBool p.stopB ++ 0#5

end Sys2Proof.Machine
end

