-- ==== Sys2Proof/Machine/Ops.lean ====
section
/-!
DEFINITION. The shared operations of the blocks: writing one channel's, peer's or group's record, posting an
event, the effective stop, the local stop machines, the cue sequencer, the group masters, and the abandonment
of frames on a station that cannot bid.
-/

namespace Sys2Proof.Machine

/-! ## Writing one record -/

def setStrip (s : State) (ch : Channel) (x : Strip) : State :=
  { s with st := { s.st with strips := put s.st.strips ch x } }

def setLevel (s : State) (ch : Channel) (p : Position) : State :=
  { s with fe := { s.fe with levels := put s.fe.levels ch p } }

def setPool (s : State) (pool : List PoolRecord) : State :=
  { s with fe := { s.fe with pool := pool } }

def setMute (s : State) (ch : Channel) (on : Bool) : State :=
  { s with mr := { s.mr with mute := put s.mr.mute ch on } }

def setMaster (s : State) (ch : Channel) (m : Master) : State :=
  { s with mr := { s.mr with masters := put s.mr.masters ch m } }

def setGroup (s : State) (g : Group) (e : GroupEntry) : State :=
  { s with mr := { s.mr with groups := put s.mr.groups g e } }

def setPeer (s : State) (p : Peer) (e : PeerEntry) : State :=
  { s with sc := { s.sc with peers := put s.sc.peers p e } }

def setLine (s : State) (k : StopKind) (l : StopLine) : State :=
  match k with
  | .a => { s with sp := { s.sp with lineA := l } }
  | .b => { s with sp := { s.sp with lineB := l } }

def setMachine (s : State) (k : StopKind) (m : StopMachine) : State :=
  match k with
  | .a => { s with sp := { s.sp with machineA := m } }
  | .b => { s with sp := { s.sp with machineB := m } }

def setEffective (s : State) (e : EffectiveStop) : State :=
  { s with sp := { s.sp with effective := e } }

/-- Set or clear the stop flag of a kind in a peer table entry. -/
def PeerEntry.withStop (p : PeerEntry) (k : StopKind) (on : Bool) : PeerEntry :=
  match k with
  | .a => { p with stopA := on }
  | .b => { p with stopB := on }

/-! ## Event queue (R176, R178) -/

/-- The queue after a post: a full queue loses its oldest record and marks the one then oldest. -/
def appendRecord (queue : List EventRecord) (r : EventRecord) : List EventRecord :=
  if queue.length < Config.queueSize then queue ++ [r]
  else match queue.drop 1 ++ [r] with
    | [] => []
    | oldest :: rest => { oldest with gap := true } :: rest

/-- ATTN evaluated afresh (R178). -/
def evaluateAttn (s : State) : State :=
  { s with lp := { s.lp with attn := attnCondition s } }

/-- The stale timer loaded from the event stale time; 0 turns it off (R178). -/
def loadedStale (s : State) : StaleTimer :=
  if staleTime s = 0 then .off else .running (staleTime s)

/-- Post an event (R176): the record takes the gap flag when the queue is empty and the pending gap mark set. -/
def post (kind : EventKind) (first second : Nat) (s : State) : State :=
  let r : EventRecord :=
    { kind := kind, gap := s.lp.queue.isEmpty && s.lp.gapPending, stamp := timestamp s,
      first := first, second := second }
  evaluateAttn { s with lp := { s.lp with
    queue := appendRecord s.lp.queue r
    gapPending := s.lp.gapPending && !s.lp.queue.isEmpty
    stale := loadedStale s } }

/-- The own number with an origin kind, as an event argument (R55). -/
def ownOrigin (s : State) (kind : OriginKind) : Nat := originPair s.sc.number.val kind

/-! ## Station controller requests (R153) -/

/-- Set the STATE request flag; outside RUN nothing is set. -/
def requestState (s : State) : State :=
  if s.sc.state = .run then { s with sc := { s.sc with stateRequest := true } } else s

/-! ## Effective stop (R169) -/

/-- An event has raised the derived stop above the effective stop: take it. -/
def raiseStop (s : State) : State :=
  if stopRank s.sp.effective < stopRank (derivedStop s) then setEffective s (derivedStop s) else s

/-- A level point finds the derived stop below the effective stop: take it. -/
def lowerStop (s : State) : State :=
  if stopRank (derivedStop s) < stopRank s.sp.effective then setEffective s (derivedStop s) else s

/-! ## Local stop machines (R160 to R164) -/

/-- Entry to CLEAR: the acknowledgement mark clears, STOP CHANGE is posted, the station controller noticed. -/
def enterClear (k : StopKind) (s : State) : State :=
  requestState (post .stopChange (kindCode k) (machineCode .clear)
    (setMachine s k { state := .clear, ack := false }))

/-- A machine in HELD whose release condition is met releases (R162). -/
def testRelease (k : StopKind) (s : State) : State :=
  if (machineOf s k).state = .held && releaseCondition s k then
    if canAnnounce s then setMachine s k { state := .releasing, ack := false }
    else enterClear k s
  else s

/-- Entry to HELD (R164): the effective stop rises at it (R169, log 13) and the release condition is tested. -/
def enterHeld (k : StopKind) (s : State) : State :=
  testRelease k (raiseStop (requestState (post .stopChange (kindCode k) (machineCode .held)
    (setMachine s k { machineOf s k with state := .held }))))

/-- A line assertion taken by a CLEAR machine (R160): announce it, or hold at once. -/
def assertFromClear (k : StopKind) (s : State) : State :=
  if canAnnounce s then setMachine s k { machineOf s k with state := .announcing }
  else enterHeld k s

/-- Set the acknowledgement mark and, in HELD, test the release condition (R165). -/
def acknowledge (k : StopKind) (s : State) : State :=
  testRelease k (setMachine s k { machineOf s k with ack := true })

/-- The end of an orphan release frame, or its place on a station that cannot announce (R166, R167): the flag
is cleared when the peer is LOST. -/
def clearOrphanFlag (k : StopKind) (p : Peer) (s : State) : State :=
  if s.sc.peers[p].presence = .lost then setPeer s p (s.sc.peers[p].withStop k false) else s

/-- The end of an own STOP frame, completed or abandoned (R134, R161, R163, R167). -/
def stopFrameEnd (release : Bool) (k : StopKind) (target : Station) (s : State) : State :=
  if target = s.sc.number then
    match release, (machineOf s k).state with
    | false, .announcing => enterHeld k s
    | true, .releasing =>
      let s := enterClear k s
      if (lineOf s k).asserted then assertFromClear k s else s
    | _, _ => s
  else
    match s.sp.orphan with
    | some (kind, p) => clearOrphanFlag kind p { s with sp := { s.sp with orphan := none } }
    | none => s

/-! ## Requests (R36) -/

/-- What became of a request offered to the outgoing queue. -/
inductive Offered where
  | queued
  | duplicate
  | refused
  deriving DecidableEq, Repr

/-- Offer a request to the outgoing queue. -/
def offerRequest (kind : CueKind) (cue : CueNumber) (origin : OriginKind) (s : State) : State × Offered :=
  if s.cq.outgoing.any (fun r => r.kind == kind && r.cue == cue) then (s, .duplicate)
  else if Config.outgoingSize ≤ s.cq.outgoing.length then (s, .refused)
  else
    let r : Request := { kind := kind, cue := cue, origin := origin, sent := false }
    ({ s with cq := { s.cq with outgoing := s.cq.outgoing ++ [r] } }, .queued)

/-- A key or follow request: a refusal posts REQUEST REFUSED (R37, R53). -/
def requestFire (cue : CueNumber) (origin : OriginKind) (s : State) : State :=
  match offerRequest .fire cue origin s with
  | (s, .refused) => post .requestRefused cue (ownOrigin s origin) s
  | (s, _) => s

/-- Withdrawal on receipt (R41): WAITING entries of the frame's kind and cue leave the queue. -/
def withdraw (kind : CueKind) (cue : CueNumber) (s : State) : State :=
  { s with cq := { s.cq with
    outgoing := s.cq.outgoing.filter (fun r => !(r.kind == kind && r.cue == cue && !r.sent)) } }

/-! ## Expander and standby buffer (R34, R35, R48, R49) -/

/-- Hand the head of the incoming GO queue to the fade engine (R49). -/
def handOff (cue : CueNumber) (moves : List Move) (s : State) : State :=
  { s with
    cq := { s.cq with incoming := s.cq.incoming.tail, buffer := .empty }
    fe := { s.fe with commits := s.fe.commits ++ [{ cue := cue, moves := moves }] } }

/-- Mark the head of the incoming GO queue EXPANDING. -/
def markHead : List GoEntry → List GoEntry
  | [] => []
  | e :: rest => { e with expanding := true } :: rest

/-- The expander begins on the head entry of the queue, whose cue has moves to read (R48). -/
def beginExpansion (cue : CueNumber) (s : State) : State :=
  { s with cq := { s.cq with incoming := markHead s.cq.incoming, buffer := .expanding cue } }

/-- A prefetch of the standby starts; an empty cue is PREFETCHED at once (R34). -/
def startPrefetch (cue : CueNumber) (s : State) : State :=
  let buffer := if (movesOf (cueTable s) cue).isEmpty then StandbyBuffer.prefetched cue [] else .prefetching cue
  { s with cq := { s.cq with buffer := buffer } }

/-- With the buffer EMPTY in RUN the expander takes the heads of the queue, empty cues at once, and with the
queue empty it prefetches the standby (R34, R48). Each turn but the last takes an entry from the queue. -/
def serveExpander : Nat → State → State
  | 0, s => s
  | turns + 1, s =>
    if s.sc.state = .run && s.cq.buffer = .empty then
      match s.cq.incoming with
      | e :: _ =>
        if (movesOf (cueTable s) e.cue).isEmpty then serveExpander turns (handOff e.cue [] s)
        else beginExpansion e.cue s
      | [] =>
        match s.cq.standby with
        | some c => startPrefetch c s
        | none => s
    else s

/-- The idle expander looks for work. -/
def runExpander (s : State) : State :=
  serveExpander (s.cq.incoming.length + 1) s

/-- An accepted FIRE acts on the standby buffer, with its entry already in the queue (R35). -/
def bufferOnFire (c : CueNumber) (s : State) : State :=
  match s.cq.buffer with
  | .prefetching b =>
    if b = c then beginExpansion c s else { s with cq := { s.cq with buffer := .empty } }
  | .prefetched b moves =>
    if b = c then handOff c moves s else { s with cq := { s.cq with buffer := .empty } }
  | .empty => s
  | .expanding _ => s

/-- An accepted STANDBY discards a prefetch (R35). -/
def discardPrefetch (s : State) : State :=
  match s.cq.buffer with
  | .prefetching _ => { s with cq := { s.cq with buffer := .empty } }
  | .prefetched _ _ => { s with cq := { s.cq with buffer := .empty } }
  | .empty => s
  | .expanding _ => s

/-! ## Follows (R51 to R53) -/

/-- The follow timer an accepted FIRE leaves (R51). -/
def followArmed (c : CueNumber) (s : State) : Option FollowTimer :=
  match (recordOf (cueTable s) c).bind CueRecord.follow with
  | some f =>
    let left := if cannotSend s && f.delay == 0 then Config.shortFollow else showTime f.delay
    some { target := f.target, left := left }
  | none => none

/-- A timer armed with 0 expires at the acceptance that armed it, in RUN with no stop (R52). It stands on a
station that can send (R51), so its expiry makes a request (R53). -/
def expireAtOnce (s : State) : State :=
  match s.cq.follow with
  | some f =>
    if f.left = 0 && s.sc.state = .run && !stopped s && !cannotSend s then
      requestFire f.target .follow { s with cq := { s.cq with follow := none } }
    else s
  | none => s

/-! ## Acceptance of CUE frames (R42 to R46) -/

/-- A FIRE is accepted (R45, its six steps in order). The expander's next work follows from the new standby. -/
def acceptFire (c : CueNumber) (station : Nat) (origin : OriginKind) (s : State) : State :=
  let entry : GoEntry := { cue := c, expanding := false }
  let s := { s with cq := { s.cq with incoming := s.cq.incoming ++ [entry] } }
  let s := { s with cq := { s.cq with last := some c, since := 0 } }
  let s := bufferOnFire c s
  let s := { s with cq := { s.cq with standby := nextCueAfter (cueTable s) c } }
  let s := { s with cq := { s.cq with follow := followArmed c s } }
  let s := post .cueFired c (originPair station origin) s
  expireAtOnce (runExpander s)

/-- A FIRE of cue `c` repeats the last fired cue within the guard (R43). -/
def guardAbsorbs (c : CueNumber) (s : State) : Bool :=
  s.cq.last == some c && s.cq.since < guardWindow s

/-- A FIRE in CATCHUP or RUN (R43, R44). -/
def takeFire (c : CueNumber) (station : Nat) (origin : OriginKind) (s : State) : State :=
  if guardAbsorbs c s then post .cueAbsorbed c (originPair station origin) s
  else if stopped s then post .goRefused c (originPair station origin) s
  else if Config.incomingSize ≤ s.cq.incoming.length then post .goQueueFull c (originPair station origin) s
  else acceptFire c station origin s

/-- A STANDBY in CATCHUP or RUN (R46). -/
def takeStandby (c : CueNumber) (s : State) : State :=
  let s := { s with cq := { s.cq with standby := cueAtOrAfter (cueTable s) c } }
  runExpander (discardPrefetch s)

/-- A CUE frame reaches acceptance and is dispatched by station state (R42, R145). -/
def takeCue (kind : CueKind) (c : CueNumber) (station : Nat) (origin : OriginKind) (s : State) : State :=
  match s.sc.state, kind with
  | .listen, .fire =>
    { s with sc := { s.sc with candidate := some { cue := c, source := .fire, age := 0 } } }
  | .catchup, .fire => takeFire c station origin s
  | .run, .fire => takeFire c station origin s
  | .catchup, .standby => takeStandby c s
  | .run, .standby => takeStandby c s
  | _, _ => s

/-- The follow timer expires (R52, R53). -/
def expireFollow (target : CueNumber) (s : State) : State :=
  let s := { s with cq := { s.cq with follow := none } }
  if cannotSend s then takeFire target s.sc.number.val .follow s
  else requestFire target .follow s

/-- The end of an own CUE frame, completed or abandoned (R39, R40): the SENT request leaves the queue and is
taken as received from this station. -/
def cueFrameEnd (kind : CueKind) (origin : OriginKind) (c : CueNumber) (s : State) : State :=
  let s := { s with cq := { s.cq with outgoing := s.cq.outgoing.eraseP (·.sent) } }
  takeCue kind c s.sc.number.val origin s

/-! ## GROUP frames of hosted masters (R97 to R99) -/

/-- The channels in the order of R98: after the master last sent, wrapping. -/
def supplyOrder (last : Option Channel) : List Channel :=
  match last with
  | some ch => channels.drop (ch.val + 1) ++ channels.take (ch.val + 1)
  | none => channels

/-- The master the mix resolver supplies: the first eligible one in order, in RUN (R97, R98). -/
def supplyMaster (s : State) : Option Channel :=
  if s.sc.state = .run then (supplyOrder s.mr.lastGroup).find? (masterEligible s) else none

/-- The GROUP frame of a hosted master with its values as they stand (R98). -/
def groupPayload (s : State) (ch : Channel) : Option Payload :=
  (hostedGroup s ch).map (fun g => .group g s.mr.mute[ch] (sourcePosition s ch))

/-- The end of a master's GROUP frame (R99); `sent` is what the frame carried when it completed. -/
def masterFrameEnd (ch : Channel) (sent : Option (Position × Bool)) (s : State) : State :=
  let m := s.mr.masters[ch]
  let lastSent := match sent with
    | some v => some v
    | none => m.lastSent
  let s := setMaster s ch { m with lastSent := lastSent, since := 0 }
  { s with mr := { s.mr with lastGroup := some ch } }

/-- The end of an own GROUP frame. -/
def groupFrameEnd (completed : Bool) (g : Group) (mute : Bool) (position : Position) (s : State) : State :=
  match hostOf s g with
  | some ch => masterFrameEnd ch (if completed then some (position, mute) else none) s
  | none => s

/-- A LIVE entry becomes STALE, with GROUP STALE (R94). -/
def makeStale (g : Group) (s : State) : State :=
  match s.mr.groups[g] with
  | .owned e =>
    if e.stale then s
    else post .groupStale (groupNumber g) (peerNumber e.owner) (setGroup s g (.owned { e with stale := true }))
  | .unowned => s

/-- A DEMOTED master returns to HOSTING with its refresh due (R96). -/
def promote (ch : Channel) (s : State) : State :=
  if s.mr.masters[ch].demoted then
    setMaster s ch { demoted := false, lastSent := none, since := Config.groupRefresh }
  else s

/-- One group at the loss of a peer (R94, R96). -/
def groupOwnerLost (p : Peer) (s : State) (g : Group) : State :=
  match s.mr.groups[g] with
  | .owned e =>
    if e.owner = p then
      match hostOf s g with
      | some ch => promote ch (makeStale g s)
      | none => makeStale g s
    else s
  | .unowned => s

/-! ## The pending set of the bus controller (R131) and its choice (R135) -/

/-- The STOP frames this station has to send, in the order offered. -/
def pendingStops (s : State) : List Payload :=
  let own (k : StopKind) : List Payload :=
    match (machineOf s k).state with
    | .announcing => [.stop false k s.sc.number]
    | .releasing => [.stop true k s.sc.number]
    | _ => []
  let orphan : List Payload :=
    match s.sp.orphan with
    | some (k, p) => [.stop true k p.succ]
    | none => []
  own .a ++ own .b ++ orphan

/-- The frame in flight of a class. -/
def flightOf (s : State) : FrameClass → Option Flight
  | .stop => s.bc.stopFlight
  | .cue => s.bc.cueFlight
  | .group => s.bc.groupFlight
  | .state => s.bc.stateFlight

def setFlight (s : State) (c : FrameClass) (f : Option Flight) : State :=
  match c with
  | .stop => { s with bc := { s.bc with stopFlight := f } }
  | .cue => { s with bc := { s.bc with cueFlight := f } }
  | .group => { s with bc := { s.bc with groupFlight := f } }
  | .state => { s with bc := { s.bc with stateFlight := f } }

/-- The contents of a STATE frame as they stand (R154). -/
def statePayload (s : State) : Payload :=
  .state (stationSolo s) s.sp.machineA.holds s.sp.machineB.holds s.cq.last

/-- The frame a class offers that has not begun transmission. -/
def freshOffer (s : State) : FrameClass → Option Payload
  | .stop => (pendingStops s).head?
  | .cue => s.cq.outgoing.head?.map (fun r => .cue r.kind r.origin r.cue)
  | .group => (supplyMaster s).bind (groupPayload s)
  | .state => if s.sc.stateRequest then some (statePayload s) else none

/-- The frame a class offers: its frame in flight before any other (R131). -/
def offerOf (s : State) (c : FrameClass) : Option Payload :=
  match flightOf s c with
  | some f => some f.payload
  | none => freshOffer s c

/-- The class is yielded (R136). -/
def yielded (s : State) : FrameClass → Bool
  | .stop => false
  | .cue => false
  | .group => s.bc.yieldGroup
  | .state => s.bc.yieldState

/-- The frame the station bids: that of the first class with one pending and not yielded (R135, R139). -/
def chooseBid (s : State) : Option Payload :=
  if cannotBid s then none
  else [FrameClass.stop, .cue, .group, .state].findSome? (fun c => if yielded s c then none else offerOf s c)

/-! ## The end of frames -/

/-- The report of a completion or an abandonment to the frame's owner (R134). -/
def frameEnd (completed : Bool) (p : Payload) (s : State) : State :=
  match p with
  | .stop release k target => stopFrameEnd release k target s
  | .cue kind origin c => cueFrameEnd kind origin c s
  | .group g mute position => groupFrameEnd completed g mute position s
  | .state _ _ _ _ => s

/-- The class of the frame on the bus. -/
def classOnBus (s : State) : Option FrameClass :=
  s.bc.sending.map (fun f => payloadClass f.payload)

/-- Abandon one frame of a class that is not on the bus, if it has one (R138, R139). In the STOP and CUE
classes the frames behind one on the bus are abandoned too. -/
def abandonOne (s : State) (c : FrameClass) : Option State :=
  match flightOf s c with
  | some f =>
    if classOnBus s = some c then
      match c with
      | .stop => ((pendingStops s).filter (· != f.payload)).head?.map (fun p => frameEnd false p s)
      | .cue =>
        (s.cq.outgoing.find? (fun r => !r.sent)).map (fun r =>
          takeCue r.kind r.cue s.sc.number.val r.origin
            { s with cq := { s.cq with outgoing := s.cq.outgoing.eraseP (fun r => !r.sent) } })
      | .group => none
      | .state => none
    else some (frameEnd false f.payload (setFlight s c none))
  | none =>
    match c with
    | .stop => (pendingStops s).head?.map (fun p => frameEnd false p s)
    | .cue =>
      s.cq.outgoing.head?.map (fun r =>
        takeCue r.kind r.cue s.sc.number.val r.origin
          { s with cq := { s.cq with outgoing := s.cq.outgoing.tail } })
    | .group => (supplyMaster s).map (fun ch => masterFrameEnd ch none s)
    | .state =>
      if s.sc.stateRequest then some { s with sc := { s.sc with stateRequest := false } } else none

/-- Abandon pending frames in the order of R135's classes, `turns` of them at most (log 14). -/
def abandonPending : Nat → State → State
  | 0, s => s
  | turns + 1, s =>
    if cannotBid s then
      match [FrameClass.stop, .cue, .group, .state].findSome? (abandonOne s) with
      | some s => abandonPending turns s
      | none => s
    else s

/-- On a station that cannot bid, each frame is abandoned at the moment it becomes pending (R138, R139).
Elsewhere nothing happens. -/
def settle (s : State) : State :=
  abandonPending Config.abandonLimit s

end Sys2Proof.Machine
end

