-- ==== Sys2Proof/Machine/Bus.lean ====
section
/-!
DEFINITION. The show bus (07): bids, arbitration, frames received and sent, breaks and bus fault, with what
the station controller and the mix resolver do with a received frame (05, 08).
-/

namespace Sys2Proof.Machine

/-! ## Bidding and arbitration (R126, R127, R135) -/

/-- A bid point has passed with no start bit on the bus: the yield flags clear (R126, R136). -/
def clearYields (bc : BusController) : BusController :=
  { bc with yieldGroup := false, yieldState := false }

/-- Bid, or with nothing to bid read the bus as a receiver: the gap is at its bid point, and no flag changes, since
another station may start in this bit time (R126, R136). -/
def bidOrWait (s : State) : State :=
  match chooseBid s with
  | some p =>
    { s with bc := { s.bc with
      phase := .sending, gap := 0, sent := 0, sending := some { payload := p, won := false } } }
  | none => { s with bc := { s.bc with gap := Config.idleGap } }

/-- The bid point. In a gap that stands at a bid point already, that one has passed with no start bit (R126): a bit time
has passed (`tickBus`), or the two bid points stand side by side in the queue (DESIGN CHOICE, log 39). -/
def bidPoint (s : State) : State :=
  if s.bc.phase = .idle && !s.bc.lineHeld then
    bidOrWait (if Config.idleGap ≤ s.bc.gap then { s with bc := clearYields s.bc } else s)
  else s

/-- The first request of the queue becomes SENT (R39). -/
def markSent : List Request → List Request
  | [] => []
  | r :: rest => { r with sent := true } :: rest

/-- What the owner of a frame does at its first win (R39, R131, R153). -/
def winReport (p : Payload) (s : State) : State :=
  match p with
  | .cue _ _ _ => { s with cq := { s.cq with outgoing := markSent s.cq.outgoing } }
  | .state _ _ _ _ => { s with sc := { s.sc with stateRequest := false } }
  | .stop _ _ _ => s
  | .group _ _ _ => s

/-- The frame being sent wins arbitration (R127): it is in flight, and at its first win its owner is told
(log 12). -/
def winArbitration (s : State) : State :=
  match s.bc.sending with
  | some f =>
    if f.won then s
    else
      let s := { s with bc := { s.bc with sending := some { f with won := true } } }
      match flightOf s (payloadClass f.payload) with
      | some _ => s
      | none =>
        winReport f.payload (setFlight s (payloadClass f.payload)
          (some { payload := f.payload, attempts := 0, repeated := false }))
  | none => s

/-- A lost arbitration: the station receives the rest of the frame, and its own stays pending, uncounted (R127).
GROUP and STATE contents are supplied afresh at the next bid (R135), as they stand in no place but the bid. -/
def loseArbitration (s : State) : State :=
  match s.bc.sending with
  | some f =>
    if f.won then s else { s with bc := { s.bc with phase := .receiving, sending := none } }
  | none => s

/-- The groups of the frame this station is sending, after its start bit; none while it sends no frame. Its station
number field holds the station number (R142), and its repeat flag is that of the frame in flight, clear in a frame not
yet in flight (R127, R133). They are an output of the part, as the bytes of a response are. -/
def sentGroups (s : State) : List (BitVec 5) :=
  match s.bc.sending with
  | some f =>
    frameGroups s.sc.number ((flightOf s (payloadClass f.payload)).any (·.repeated)) f.payload
  | none => []

/-! ## The end of an own attempt (R132, R133) -/

/-- The error window of the own frame passes recessive: the frame is complete. -/
def frameComplete (s : State) : State :=
  match s.bc.sending with
  | some f =>
    let s := winArbitration s
    let s := { s with bc := { s.bc with
      phase := .idle, gap := Config.windowBits, run := 0, sending := none
      yieldGroup := s.bc.yieldGroup || payloadClass f.payload == .group
      yieldState := s.bc.yieldState || payloadClass f.payload == .state } }
    frameEnd true f.payload (setFlight s (payloadClass f.payload) none)
  | none => s

/-- The second argument of TX ABANDONED (R133, R183). -/
def abandonedArgument : Payload → Nat
  | .stop _ k target => kindCode k * 32 + target.val
  | .cue _ _ c => c
  | .group g _ _ => groupNumber g
  | .state _ _ _ _ => 0

/-- The signalling state after a failed attempt (R132, R137): after a mismatch the own break is driven; in the
error window another station drives the bus dominant. The dominant run read so far goes on being timed (R138). -/
def afterFailure (place : FailurePlace) (bc : BusController) : BusController :=
  match place with
  | .mismatch run => { bc with phase := .broken, sending := none, drive := Config.breakBits, run := run }
  | .errorWindow run => { bc with phase := .idle, sending := none, gap := 0, lineHeld := true, run := run }

/-- An attempt fails (R127, R132, R133). -/
def attemptFailed (place : FailurePlace) (s : State) : State :=
  match s.bc.sending with
  | some f =>
    let s := winArbitration s
    let s := { s with bc := afterFailure place s.bc }
    let c := payloadClass f.payload
    match flightOf s c with
    | some flight =>
      if flight.attempts + 1 < Config.attemptLimit then
        setFlight s c (some { flight with attempts := flight.attempts + 1, repeated := true })
      else
        frameEnd false flight.payload
          (post .txAbandoned c.code (abandonedArgument flight.payload) (setFlight s c none))
    | none => s
  | none => s

/-! ## Received frames -/

/-- A start bit, or an earlier dominant bit of the gap, which is timed with the run before it (R125). In FAULT any dominant
bit restarts the recessive count (R138). -/
def startBit (s : State) : State :=
  match s.bc.phase with
  | .idle =>
    if s.bc.lineHeld then s
    else if Config.windowBits ≤ s.bc.gap then { s with bc := { s.bc with phase := .receiving, run := 0 } }
    else { s with bc := { s.bc with lineHeld := true, run := s.bc.run + 1 } }
  | .fault => { s with bc := { s.bc with quiet := 0 } }
  | .receiving => s
  | .sending => s
  | .broken => s

/-- The copy record of a class emptied, or taking a payload (R129). -/
def CopyRecord.set (r : CopyRecord) (c : FrameClass) (p : Option Payload) : CopyRecord :=
  match c with
  | .stop => { r with stop := p }
  | .cue => { r with cue := p }
  | .group => { r with group := p }
  | .state => { r with state := p }

/-- The copy record of a class. -/
def CopyRecord.get (r : CopyRecord) : FrameClass → Option Payload
  | .stop => r.stop
  | .cue => r.cue
  | .group => r.group
  | .state => r.state

def setCopy (s : State) (p : Peer) (c : FrameClass) (x : Option Payload) : State :=
  { s with bc := { s.bc with copies := put s.bc.copies p (s.bc.copies[p].set c x) } }

/-- The bus controller reads a frame: in RECEIVING, or where the bit before would have been its start bit (R125), so
that a frame may be given with or without its START_BIT (log 16). -/
def readsFrame (s : State) : Bool :=
  s.bc.phase == .receiving || (s.bc.phase == .idle && !s.bc.lineHeld && Config.windowBits ≤ s.bc.gap)

/-- With sound guard bits and the repeat flag clear an arbitration byte empties the copy record of the sender and class
it names (R129). -/
def emptyNamedCopy (first second : BitVec 5) (s : State) : State :=
  let byte : Byte := nibbleOf first ++ nibbleOf second
  match guardSound first && guardSound second, byte.getLsbD 0, toPeer? (byte.toNat / 2 % 32) with
  | true, false, some p => setCopy s p (classRead [first]) none
  | _, _, _ => s

/-- A receiver has read an arbitration byte to its last bit. The copy record is R129's; the win of a STATE frame clears
the GROUP yield flag (R136), for which the class bits stand as they are read and no guard bit counts (log 17). -/
def arbitrationByteRead (first second : BitVec 5) (s : State) : State :=
  if readsFrame s then
    let s := emptyNamedCopy first second s
    if classRead [first] = .state then { s with bc := { s.bc with yieldGroup := false } } else s
  else s

/-- A presence notice (R149). -/
def presenceNotice (p : Peer) (s : State) : State :=
  if isOwn s p then s
  else
    let e := s.sc.peers[p]
    let heard := setPeer s p { e with presence := .present, heard := 0 }
    if e.presence = .present then heard
    else post .peerJoined (peerNumber p) (presenceCode e.presence) heard

/-- A duplicate notice for a frame that carries the own number (R155); pending frames are then abandoned (R139). -/
def duplicateNotice (c : FrameClass) (s : State) : State :=
  if s.sc.txMuted then s
  else
    settle (post .duplicateStation c.code s.sc.number.val { s with sc := { s.sc with txMuted := true } })

/-- A STOP frame from a peer (R152). -/
def applyStop (release : Bool) (k : StopKind) (target : Station) (p : Peer) (s : State) : State :=
  if isOwn s p then s
  else if release then
    match toPeer? target.val with
    | some t =>
      if t = p || (!isOwn s t && s.sc.peers[t].presence = .lost) then
        setPeer s t (s.sc.peers[t].withStop k false)
      else s
    | none => s
  else raiseStop (setPeer s p (s.sc.peers[p].withStop k true))

/-- The listen candidate hears a STATE frame (R145). The age of a candidate it sets counts up from 0, which R145 does not
say of a STATE frame; nothing reads the age while the source is STATE (DEDUCED, log 40). -/
def candidateFromState (last : Option CueNumber) (c : Option Candidate) : Option Candidate :=
  match last with
  | none => c
  | some cue =>
    if c.any (fun x => x.cue == cue) then c
    else some { cue := cue, source := .state, age := 0 }

/-- A STATE frame from a peer (R151). -/
def applyState (solo a b : Bool) (last : Option CueNumber) (p : Peer) (s : State) : State :=
  if isOwn s p then s
  else
    let s := setPeer s p { s.sc.peers[p] with solo := solo, stopA := a, stopB := b, last := last }
    let s :=
      if s.sc.state = .listen then
        { s with sc := { s.sc with candidate := candidateFromState last s.sc.candidate } }
      else s
    raiseStop s

/-- The mix resolver takes GROUP frames in these states (R91). -/
def groupsTaken (s : State) : Bool :=
  s.sc.state = .listen || s.sc.state = .catchup || s.sc.state = .run

/-- The entry an accepted GROUP frame writes (R92, R93). -/
def acceptedEntry (p : Peer) (mute : Bool) (position : Position) : GroupEntry :=
  .owned { stale := false, owner := p, position := position, mute := mute, age := 0 }

/-- The entry accepts a frame of station `p` (R93). -/
def entryAccepts (s : State) (g : Group) (p : Peer) : Bool :=
  match s.mr.groups[g] with
  | .unowned => true
  | .owned e => s.sc.peers[e.owner].presence != .present || p.val ≤ e.owner.val

/-- A GROUP frame from a peer (R91 to R93). -/
def applyGroup (g : Group) (mute : Bool) (position : Position) (p : Peer) (s : State) : State :=
  if isOwn s p || !groupsTaken s then s
  else
    match hostingMaster s g with
    | some ch =>
      if peerNumber p < s.sc.number.val then
        post .groupConflict (groupNumber g) (peerNumber p)
          (setGroup (setMaster s ch { s.mr.masters[ch] with demoted := true }) g (acceptedEntry p mute position))
      else s
    | none => if entryAccepts s g p then setGroup s g (acceptedEntry p mute position) else s

/-- An accepted frame goes to the owner of its class (R130); a CUE frame withdraws equal requests first (R41). -/
def handFrame (payload : Payload) (p : Peer) (s : State) : State :=
  match payload with
  | .stop release k target => applyStop release k target p s
  | .cue kind origin c => takeCue kind c (peerNumber p) origin (withdraw kind c s)
  | .group g mute position => applyGroup g mute position p s
  | .state solo a b last => applyState solo a b last p s

/-- A valid frame (R129, R130): the notices, then a copy is discarded and a new frame recorded and handed on. -/
def takeFrame (p : Peer) (repeated : Bool) (payload : Payload) (s : State) : State :=
  let c := payloadClass payload
  let s := presenceNotice p s
  let s := if isOwn s p then duplicateNotice c s else s
  if repeated && s.bc.copies[p].get c == some payload then s
  else handFrame payload p (setCopy s p c (some payload))

/-- The last bit of a frame leaves the bus controller IDLE at the start of a gap, with the dominant run that ends
at that bit (R137, R138). -/
def frameOver (run : Nat) (s : State) : State :=
  { s with bc := { s.bc with phase := .idle, gap := 0, run := run, lineHeld := false } }

/-- A rejected frame, at its last bit: FRAME ERROR, and the error flag is driven (R128). -/
def rejectFrame (fault : FrameFault) (station : Nat) (s : State) : State :=
  let s := post .frameError (frameFaultCode fault) station s
  { s with bc := { s.bc with phase := .broken, drive := Config.breakBits } }

/-- A frame's last bit (R128). -/
def frameReceived (groups : List (BitVec 5)) (s : State) : State :=
  if readsFrame s then
    let reading := readFrame groups
    let s := frameOver (lastRun groups) s
    match reading.result with
    | .error fault => rejectFrame fault reading.station s
    | .ok (p, repeated, payload) => takeFrame p repeated payload s
  else s

/-! ## Breaks and bus fault (R137, R138) -/

/-- A dominant run of 16 bit times driven by another station (R137). A frame being received is discarded. In
FAULT it restarts the recessive count. A sender has met a mismatch before, and takes no break here. -/
def busBreak (s : State) : State :=
  match s.bc.phase with
  | .idle => { s with bc := { s.bc with phase := .broken, lineHeld := true, run := max s.bc.run Config.breakBits } }
  | .receiving =>
    { s with bc := { s.bc with phase := .broken, lineHeld := true, run := Config.breakBits } }
  | .broken => { s with bc := { s.bc with lineHeld := true } }
  | .fault => { s with bc := { s.bc with lineHeld := true, quiet := 0 } }
  | .sending => s

/-- The bus returns recessive after a break or a dominant run (R125, R137). -/
def busBreakEnd (s : State) : State :=
  match s.bc.phase with
  | .idle =>
    if s.bc.lineHeld then { s with bc := { s.bc with gap := 0, run := 0, lineHeld := false } } else s
  | .broken =>
    { s with bc := { s.bc with phase := .idle, gap := 0, run := 0, lineHeld := false, drive := 0 } }
  | .fault => { s with bc := { s.bc with lineHeld := false } }
  | .receiving => s
  | .sending => s

/-- A flight with its attempt count at 0. -/
def Flight.fresh (f : Flight) : Flight := { f with attempts := 0 }

/-- Unbroken dominant for 2 ms in a break: FAULT (R138). Every pending frame is then abandoned by `settle`. -/
def busFault (s : State) : State :=
  if s.bc.phase = .broken then
    post .busFault 0 0 { s with bc := { s.bc with
      phase := .fault, drive := 0, quiet := 0, faultTime := 0, sending := none
      stopFlight := s.bc.stopFlight.map Flight.fresh
      cueFlight := s.bc.cueFlight.map Flight.fresh
      groupFlight := s.bc.groupFlight.map Flight.fresh
      stateFlight := s.bc.stateFlight.map Flight.fresh
      yieldGroup := false, yieldState := false } }
  else s

/-- Unbroken recessive for 2 ms in FAULT: the bus is idle again (R138). -/
def busRestored (s : State) : State :=
  if s.bc.phase = .fault then
    post .busRestored (min 65535 (s.bc.faultTime / Config.ms)) 0
      { s with bc := { s.bc with phase := .idle, gap := Config.idleGap, run := 0, lineHeld := false, quiet := 0 } }
  else s

/-! ## The commands -/

/-- BID_POINT. -/
def execBidPoint (s : State) : Host.Outcome State Fault Refusal :=
  .next (bidPoint s)

/-- ARBITRATION_WON. -/
def execArbitrationWon (s : State) : Host.Outcome State Fault Refusal :=
  .next (winArbitration s)

/-- ARBITRATION_LOST. -/
def execArbitrationLost (s : State) : Host.Outcome State Fault Refusal :=
  .next (loseArbitration s)

/-- ARBITRATION_BYTE_READ. -/
def execArbitrationByteRead (first second : BitVec 5) (s : State) : Host.Outcome State Fault Refusal :=
  .next (arbitrationByteRead first second s)

/-- FRAME_RECEIVED. -/
def execFrameReceived (groups : List (BitVec 5)) (s : State) : Host.Outcome State Fault Refusal :=
  .next (settle (frameReceived groups s))

/-- FRAME_COMPLETE. -/
def execFrameComplete (s : State) : Host.Outcome State Fault Refusal :=
  .next (settle (frameComplete s))

/-- ATTEMPT_FAILED. -/
def execAttemptFailed (place : FailurePlace) (s : State) : Host.Outcome State Fault Refusal :=
  .next (settle (attemptFailed place s))

/-- BREAK. -/
def execBusBreak (s : State) : Host.Outcome State Fault Refusal :=
  .next (busBreak s)

/-- BREAK_END. -/
def execBusBreakEnd (s : State) : Host.Outcome State Fault Refusal :=
  .next (busBreakEnd s)

/-- BUS_FAULT. -/
def execBusFault (s : State) : Host.Outcome State Fault Refusal :=
  .next (settle (busFault s))

/-- BUS_RESTORED. -/
def execBusRestored (s : State) : Host.Outcome State Fault Refusal :=
  .next (settle (busRestored s))

/-- START_BIT. -/
def execStartBit (s : State) : Host.Outcome State Fault Refusal :=
  .next (startBit s)

end Sys2Proof.Machine
end

