-- ==== Sys2Proof/Machine/Cues.lean ====
section
/-!
DEFINITION. The cue sequencer's own events (03): PREFETCH_COMPLETE, EXPANSION_COMPLETE, FOLLOW_EXPIRY.
-/

namespace Sys2Proof.Machine

/-- The expander has read all of the standby's moves (R34). -/
def prefetchComplete (s : State) : State :=
  match s.cq.buffer with
  | .prefetching c => { s with cq := { s.cq with buffer := .prefetched c (movesOf (cueTable s) c) } }
  | .empty => s
  | .prefetched _ _ => s
  | .expanding _ => s

/-- The expander has read all of the head entry's moves: hand-off, then the next work (R49). -/
def expansionComplete (s : State) : State :=
  match s.cq.buffer with
  | .expanding c =>
    if s.sc.state = .run then runExpander (handOff c (movesOf (cueTable s) c) s) else s
  | .empty => s
  | .prefetching _ => s
  | .prefetched _ _ => s

/-- The follow timer reaches 0. It counts in RUN with no stop in force alone (R52). -/
def followExpiry (s : State) : State :=
  match s.cq.follow with
  | some f => if s.sc.state = .run && !stopped s then expireFollow f.target s else s
  | none => s

/-- PREFETCH_COMPLETE. -/
def execPrefetchComplete (s : State) : Host.Outcome State Fault Refusal :=
  .next (prefetchComplete s)

/-- EXPANSION_COMPLETE. -/
def execExpansionComplete (s : State) : Host.Outcome State Fault Refusal :=
  .next (expansionComplete s)

/-- FOLLOW_EXPIRY. -/
def execFollowExpiry (s : State) : Host.Outcome State Fault Refusal :=
  .next (settle (followExpiry s))

end Sys2Proof.Machine
end

