-- ==== Sys2Proof/Machine/FadeEngine.lean ====
section
/-!
DEFINITION. The fade engine (04): starting a move, the three steps of the level point, and the commands
LEVEL_POINT's sub-steps DELAY_COUNT_EXPIRY and FADE_COMPLETE.
-/

namespace Sys2Proof.Machine

/-! ## Pool records -/

/-- The record is a LEVEL record, WAITING or RUNNING. -/
def PoolRecord.isLevel (r : PoolRecord) : Bool :=
  match r.state with
  | .waitingLevel _ _ _ _ => true
  | .running _ _ _ _ _ => true
  | .waitingMute _ _ => false

/-- The record is RUNNING. -/
def PoolRecord.isRunning (r : PoolRecord) : Bool :=
  match r.state with
  | .running _ _ _ _ _ => true
  | .waitingLevel _ _ _ _ => false
  | .waitingMute _ _ => false

/-- The record is WAITING with its delay count at 0: it starts at this count-down step (R63). -/
def PoolRecord.isDue (r : PoolRecord) : Bool :=
  match r.state with
  | .waitingLevel 0 _ _ _ => true
  | .waitingMute 0 _ => true
  | _ => false

/-- The pool without the RUNNING record of a channel: takeover (R65). -/
def takeOver (ch : Channel) (pool : List PoolRecord) : List PoolRecord :=
  pool.filter (fun r => !(r.isRunning && r.channel == ch))

/-! ## Notices between fade engine and strip controller -/

/-- LEVEL-start notice (R76): on a PLAIN channel the park value becomes the measured position, and a channel in
HAND returns to AUTO with an empty crossing memory (R111, R113). -/
def levelStartNotice (ch : Channel) (s : State) : State :=
  if isPlain s ch then
    let x := s.st.strips[ch]
    match x.mode with
    | .hand => setStrip s ch { x with mode := .auto, park := x.measured, crossing := none }
    | .auto => setStrip s ch { x with park := x.measured }
  else s

/-- Touch notice: every LEVEL record of the channel leaves the pool (R72). -/
def touchNotice (ch : Channel) (s : State) : State :=
  setPool s (s.fe.pool.filter (fun r => !(r.isLevel && r.channel == ch)))

/-- Release notice: the cue level becomes the hand level (R74). -/
def releaseNotice (ch : Channel) (hand : Position) (s : State) : State :=
  setLevel s ch hand

/-! ## Starting a move (R65, R66) -/

/-- A LEVEL move of duration 0, or a LEVEL snap: takeover, the cue level set at once, and the notice. -/
def setLevelAtOnce (ch : Channel) (target : Position) (s : State) : State :=
  levelStartNotice ch (setLevel (setPool s (takeOver ch s.fe.pool)) ch target)

/-- The RUNNING record of a LEVEL move that starts now: it starts from the cue level as it stands. -/
def runningRecord (s : State) (ch : Channel) (origin : CueNumber) (target : Position) (duration : Nat)
    (curve : Curve) : PoolRecord where
  channel := ch
  origin := origin
  state := .running s.fe.levels[ch] target duration 0 curve

/-- A WAITING record starts in its place `before`, `after` of the pool (R63, R65, R66). -/
def startWaiting (before : List PoolRecord) (r : PoolRecord) (after : List PoolRecord) (s : State) : State :=
  match r.state with
  | .waitingMute _ on => setMute (setPool s (before ++ after)) r.channel on
  | .waitingLevel _ target duration curve =>
    if duration = 0 then setLevelAtOnce r.channel target (setPool s (before ++ after))
    else
      let started := runningRecord s r.channel r.origin target duration curve
      levelStartNotice r.channel
        (setPool s (takeOver r.channel before ++ started :: takeOver r.channel after))
  | .running _ _ _ _ _ => s

/-! ## Advance (R62) -/

/-- A record after the advance step; a completed one leaves the pool. -/
def advanceRecord (r : PoolRecord) : Option PoolRecord :=
  match r.state with
  | .running start target duration elapsed curve =>
    if elapsed + 1 < duration then
      some { r with state := .running start target duration (elapsed + 1) curve }
    else none
  | .waitingLevel _ _ _ _ => some r
  | .waitingMute _ _ => some r

/-- The cue level a record's advance writes. -/
def advanceLevel (levels : Vector Position 16) (r : PoolRecord) : Vector Position 16 :=
  match r.state with
  | .running start target duration elapsed curve =>
    put levels r.channel (fadeLevel start target curve (elapsed + 1) duration)
  | .waitingLevel _ _ _ _ => levels
  | .waitingMute _ _ => levels

/-- The advance step. -/
def advance (s : State) : State :=
  { s with fe := { s.fe with
    levels := s.fe.pool.foldl advanceLevel s.fe.levels
    pool := s.fe.pool.filterMap advanceRecord } }

/-! ## Count down (R63) -/

/-- A record with its delay count one lower. -/
def countRecord (r : PoolRecord) : PoolRecord :=
  match r.state with
  | .waitingLevel delay target duration curve => { r with state := .waitingLevel (delay - 1) target duration curve }
  | .waitingMute delay on => { r with state := .waitingMute (delay - 1) on }
  | .running _ _ _ _ _ => r

/-- The first due record of the pool with what stands before and after it. -/
def splitDue : List PoolRecord → Option (List PoolRecord × PoolRecord × List PoolRecord)
  | [] => none
  | r :: rest =>
    if r.isDue then some ([], r, rest)
    else (splitDue rest).map (fun (before, d, after) => (r :: before, d, after))

/-- Start the due records one after another in pool order, at most `n` of them. -/
def startDue : Nat → State → State
  | 0, s => s
  | n + 1, s =>
    match splitDue s.fe.pool with
    | some (before, r, after) => startDue n (startWaiting before r after s)
    | none => s

/-- The count-down step. -/
def countDown (s : State) : State :=
  startDue s.fe.pool.length (setPool s (s.fe.pool.map countRecord))

/-! ## Commit (R59, R64, R71, R73) -/

/-- A record is free in a pool. -/
def hasRoom (pool : List PoolRecord) : Bool := pool.length < Config.poolSize

/-- A move snapped for want of a record (R71). -/
def snap (origin : CueNumber) (m : Move) (s : State) : State :=
  let s := match m.kind with
    | .level _ _ target => setLevelAtOnce m.channel target s
    | .muteOn => setMute s m.channel true
    | .muteOff => setMute s m.channel false
  post .poolFull origin (channelNumber m.channel) s

/-- The WAITING record of a delayed move (R64). -/
def waitingRecord (origin : CueNumber) (m : Move) : PoolRecord where
  channel := m.channel
  origin := origin
  state := match m.kind with
    | .level fade curve target => .waitingLevel (levelPoints m.delay) target (levelPoints fade) curve
    | .muteOn => .waitingMute (levelPoints m.delay) true
    | .muteOff => .waitingMute (levelPoints m.delay) false

/-- A move with delay 0 starts at the commit (R64 to R66); an undelayed fade needs a record, which a takeover on
its channel frees (R59). -/
def startMove (origin : CueNumber) (m : Move) (s : State) : State :=
  match m.kind with
  | .muteOn => setMute s m.channel true
  | .muteOff => setMute s m.channel false
  | .level fade curve target =>
    if fade = 0 then setLevelAtOnce m.channel target s
    else
      let freed := takeOver m.channel s.fe.pool
      if hasRoom freed then
        levelStartNotice m.channel
          (setPool s (freed ++ [runningRecord s m.channel origin target (levelPoints fade) curve]))
      else snap origin m s

/-- The move is a LEVEL move. -/
def Move.isLevel (m : Move) : Bool :=
  match m.kind with
  | .level _ _ _ => true
  | .muteOn => false
  | .muteOff => false

/-- One move of a commit: discarded on a held channel, started, placed WAITING, or snapped (R64). -/
def commitMove (origin : CueNumber) (s : State) (m : Move) : State :=
  if m.isLevel && heldUnderKeep s m.channel then post .moveHeldOff origin (channelNumber m.channel) s
  else if m.delay = 0 then startMove origin m s
  else if hasRoom s.fe.pool then setPool s (s.fe.pool ++ [waitingRecord origin m])
  else snap origin m s

/-- One entry of the commit list, moves in record order. -/
def commitCue (s : State) (e : ExpandedCue) : State :=
  e.moves.foldl (commitMove e.cue) s

/-- The commit step: every entry, oldest first. -/
def commit (s : State) : State :=
  s.fe.commits.foldl commitCue { s with fe := { s.fe with commits := [] } }

/-- The fade engine works at a level point in RUN with no stop in force (R61, R77). -/
def fadeEngineWorks (s : State) : Bool :=
  s.sc.state == .run && !stopped s

/-- The three steps of a level point. -/
def fadeSteps (s : State) : State :=
  commit (countDown (advance s))

/-! ## Sub-steps as commands of their own (log 21) -/

/-- The record at a place of the pool with what stands before and after it. -/
def splitAt? (pool : List PoolRecord) (i : Nat) : Option (List PoolRecord × PoolRecord × List PoolRecord) :=
  (pool[i]?).map (fun r => (pool.take i, r, pool.drop (i + 1)))

/-- The delay count of the WAITING record at a place runs out, and it starts (R63). -/
def delayCountExpiry (slot : Fin 64) (s : State) : State :=
  if fadeEngineWorks s then
    match splitAt? s.fe.pool slot.val with
    | some (before, r, after) => startWaiting before r after s
    | none => s
  else s

/-- The fade of the RUNNING record at a place completes (R70). -/
def fadeComplete (slot : Fin 64) (s : State) : State :=
  if fadeEngineWorks s then
    match splitAt? s.fe.pool slot.val with
    | some (before, r, after) =>
      match r.state with
      | .running _ target _ _ _ => setLevel (setPool s (before ++ after)) r.channel target
      | .waitingLevel _ _ _ _ => s
      | .waitingMute _ _ => s
    | none => s
  else s

/-- DELAY_COUNT_EXPIRY. -/
def execDelayCountExpiry (slot : Fin 64) (s : State) : Host.Outcome State Fault Refusal :=
  .next (settle (delayCountExpiry slot s))

/-- FADE_COMPLETE. -/
def execFadeComplete (slot : Fin 64) (s : State) : Host.Outcome State Fault Refusal :=
  .next (settle (fadeComplete slot s))

end Sys2Proof.Machine
end

