-- ==== Sys2Proof/Machine/Strip.lean ====
section
/-!
DEFINITION. The fader strip (06): wiper conversions, touch, keys, the servo, and the commands that carry them.
-/

namespace Sys2Proof.Machine

/-! ## Conversions (R103, R109, R111, R112) -/

/-- The pickup test of a PLAIN channel in AUTO: `m` the new measured position, `c` the cue level (R112). -/
def pickupMeets (x : Strip) (m c : Position) : Bool :=
  let d : Int := (m.val : Int) - c.val
  !within 3 m x.park
    && (within 2 m c
      || match x.crossing with
        | some (previous, difference) => m != previous && oppositeSigns difference d
        | none => false)

/-- Hand level tracking (R109): a change of 2 or more, or an end of travel. -/
def trackHand (m hand : Position) : Position :=
  if !within 1 m hand || m = 0 || m = 1023 then m else hand

/-- The strip after a conversion in RUN: pickup or tracking, then the crossing memory of a PLAIN channel. -/
def convertedStrip (s : State) (ch : Channel) (m : Position) : Strip :=
  let x := { s.st.strips[ch] with measured := m }
  let c := s.fe.levels[ch]
  let x := match x.mode with
    | .auto => if isPlain s ch && pickupMeets x m c then { x with mode := .hand, hand := m } else x
    | .hand => { x with hand := trackHand m x.hand }
  if isPlain s ch then { x with crossing := some (m, (m.val : Int) - c.val) } else x

/-- A completed conversion. Channels without a wiper in use are not converted (R103); outside RUN a conversion
changes no mode (R107). -/
def conversion (ch : Channel) (m : Position) (s : State) : State :=
  if hasWiper s ch then
    if s.sc.state = .run then setStrip s ch (convertedStrip s ch m)
    else setStrip s ch { s.st.strips[ch] with measured := m }
  else s

/-! ## Touch (R104, R108, R110) -/

/-- A motor that is not STALLED goes to OFF, with its timers cleared (R108, step 1). -/
def motorReleased (x : Strip) : Strip :=
  match x.motor with
  | .stalled => x
  | _ => { x with motor := .off, rest := 0, stall := 0 }

/-- A STALLED motor goes to OFF with its stall timer cleared (R110, R119). -/
def stallCleared (x : Strip) : Strip :=
  match x.motor with
  | .stalled => { x with motor := .off, stall := 0 }
  | _ => x

/-- What a TOUCHED arrival does (R108): motor, and in RUN for a channel in AUTO mode, hand level and notice. -/
def touchedAct (ch : Channel) (s : State) : State :=
  let x := motorReleased s.st.strips[ch]
  if s.sc.state = .run && x.mode = .auto then
    let s := setStrip s ch { x with mode := .hand, hand := x.measured }
    if isKeep s ch then touchNotice ch s else s
  else setStrip s ch x

/-- What a FREE arrival does (R110): the stall clears; in RUN a channel in HAND returns to AUTO. -/
def freeAct (ch : Channel) (s : State) : State :=
  let x := stallCleared s.st.strips[ch]
  if s.sc.state = .run && x.mode = .hand then
    let s := setStrip s ch { x with mode := .auto }
    if isKeep s ch then releaseNotice ch x.hand s else s
  else setStrip s ch x

def setTouch (s : State) (ch : Channel) (t : Touch) : State :=
  setStrip s ch { s.st.strips[ch] with touch := t }

def setTouchInput (s : State) (ch : Channel) (on : Bool) : State :=
  setStrip s ch { s.st.strips[ch] with touchInput := on }

/-- The touch input becomes asserted (R104). The pin is followed on MOTOR channels while VALID. -/
def touchAsserted (ch : Channel) (s : State) : State :=
  let s := setTouchInput s ch true
  if isMotor s ch then
    match s.st.strips[ch].touch with
    | .free => setTouch s ch (.pending 0)
    | .hold _ => setTouch s ch .touched
    | .pending _ => s
    | .touched => s
  else s

/-- The touch input becomes absent (R104); with hold 0 the FREE arrival comes at once. -/
def touchAbsent (ch : Channel) (s : State) : State :=
  let s := setTouchInput s ch false
  if isMotor s ch then
    match s.st.strips[ch].touch with
    | .pending _ => setTouch s ch .free
    | .touched =>
      if touchHold s = 0 then freeAct ch (setTouch s ch .free)
      else setTouch s ch (.hold (touchHold s))
    | .free => s
    | .hold _ => s
  else s

/-- The assert timer expires: TOUCHED, with a TOUCHED arrival. -/
def touchedArrival (ch : Channel) (s : State) : State :=
  match s.st.strips[ch].touch with
  | .pending _ => if isMotor s ch then touchedAct ch (setTouch s ch .touched) else s
  | .free => s
  | .touched => s
  | .hold _ => s

/-- The release timer expires: FREE, with a FREE arrival. -/
def freeArrival (ch : Channel) (s : State) : State :=
  match s.st.strips[ch].touch with
  | .hold _ => if isMotor s ch then freeAct ch (setTouch s ch .free) else s
  | .free => s
  | .touched => s
  | .pending _ => s

/-! ## Keys (R105, R106) -/

/-- A key after a scan that read it `pressed`. -/
def scanKey (k : Key) (pressed : Bool) : Key :=
  if pressed = k.down then { k with count := 0 }
  else if k.count + 1 < Config.keyScans then { k with count := k.count + 1 }
  else { down := pressed, count := 0 }

/-- The scan accepts a press of the key. -/
def pressAccepted (k : Key) (pressed : Bool) : Bool :=
  !k.down && (scanKey k pressed).down

/-- An accepted mute key press (R83); UNUSED channels ignore it (R82). -/
def muteKeyPress (ch : Channel) (s : State) : State :=
  match roleOf s ch with
  | .unused => s
  | _ => setMute s ch (!s.mr.mute[ch])

/-- An accepted solo key press on an AUDIO channel (R85); a change of station solo asks for a STATE frame (R86). -/
def soloKeyPress (ch : Channel) (s : State) : State :=
  if isAudio s ch then
    let t := { s with mr := { s.mr with solo := put s.mr.solo ch (!s.mr.solo[ch]) } }
    if stationSolo t = stationSolo s then t else requestState t
  else s

/-- An accepted GO key press (R37). -/
def goKeyPress (s : State) : State :=
  if cannotSend s then s
  else if stopped s then post .goRefused (cueCode s.cq.standby) (ownOrigin s .key) s
  else match s.cq.standby with
    | none => post .endOfList (cueCode s.cq.last) (ownOrigin s .key) s
    | some c => requestFire c .key s

/-- The 33 keys after a scan. -/
def scanKeys (mute solo : BitVec 16) (go : Bool) (st : StripController) : StripController :=
  { st with
    muteKeys := tabulate (fun ch => scanKey st.muteKeys[ch] (mute.getLsbD ch.val))
    soloKeys := tabulate (fun ch => scanKey st.soloKeys[ch] (solo.getLsbD ch.val))
    goKey := scanKey st.goKey go }

/-- A key scan. Presses accepted in RUN are delivered: mute keys, solo keys, then GO (log 5). -/
def keyScan (mute solo : BitVec 16) (go : Bool) (s : State) : State :=
  let scanned := { s with st := scanKeys mute solo go s.st }
  if s.sc.state = .run then
    let mutes := channels.filter (fun ch => pressAccepted s.st.muteKeys[ch] (mute.getLsbD ch.val))
    let solos := channels.filter (fun ch => pressAccepted s.st.soloKeys[ch] (solo.getLsbD ch.val))
    let t := mutes.foldl (fun t ch => muteKeyPress ch t) scanned
    let t := solos.foldl (fun t ch => soloKeyPress ch t) t
    if pressAccepted s.st.goKey go then goKeyPress t else t
  else scanned

/-! ## The motor bridges (R115) -/

/-- What a motor bridge carries: the duty on its up output and on its down output, 0 for no drive, and whether both motor
terminals are held to the lower side of the bridge. A bridge that is neither driven nor held is released. -/
structure Bridge where
  up : Nat
  down : Nat
  heldLow : Bool
  deriving DecidableEq, Repr

/-- What each motor state puts on the bridge (R115). -/
def bridgeOf : Motor → Bridge
  | .off => { up := 0, down := 0, heldLow := false }
  | .brake => { up := 0, down := 0, heldLow := true }
  | .driveUp duty => { up := duty, down := 0, heldLow := false }
  | .driveDown duty => { up := 0, down := duty, heldLow := false }
  | .rest => { up := 0, down := 0, heldLow := false }
  | .stalled => { up := 0, down := 0, heldLow := false }

/-- The bridge of a channel, an output of the part; that of a channel without a motor carries no drive, as in OFF
(R115). -/
def bridgeOutput (s : State) (ch : Channel) : Bridge :=
  bridgeOf (if isMotor s ch then s.st.strips[ch].motor else .off)

/-! ## Servo (R116 to R118) -/

/-- Where the servo sends a motor taken as `motor` (R116); the second part is the rest count of an entry to REST. -/
def servoDecision (h : Header) (motor : Motor) (e : Int) : Motor × Nat :=
  if e.natAbs ≤ h.deadband then (.brake, 0)
  else if 0 < e then
    match motor with
    | .driveDown _ => if h.reversalRest = 0 then (.driveUp (driveDuty h e.natAbs), 0) else (.rest, h.reversalRest)
    | _ => (.driveUp (driveDuty h e.natAbs), 0)
  else
    match motor with
    | .driveUp _ => if h.reversalRest = 0 then (.driveDown (driveDuty h e.natAbs), 0) else (.rest, h.reversalRest)
    | _ => (.driveDown (driveDuty h e.natAbs), 0)

/-- The motor drives or rests: its stall timer counts (R118). -/
def motorBusy : Motor → Bool
  | .driveUp _ => true
  | .driveDown _ => true
  | .rest => true
  | .off => false
  | .brake => false
  | .stalled => false

/-- The stall timer counts at an output point, and at the limit the motor stalls with MOTOR STALL (R118). -/
def countStall (ch : Channel) (x : Strip) (s : State) : State :=
  if motorBusy x.motor then
    if x.stall + 1 < stallLimit s then setStrip s ch { x with stall := x.stall + 1 }
    else post .motorStall (channelNumber ch) x.measured.val
      (setStrip s ch { x with motor := .stalled, rest := 0, stall := stallLimit s })
  else setStrip s ch { x with stall := 0 }

/-- The servo acts on a motor taken as `motor` (R116), and its stall timer counts. -/
def servoAct (h : Header) (ch : Channel) (motor : Motor) (s : State) : State :=
  let x := s.st.strips[ch]
  let e : Int := (s.fe.levels[ch].val : Int) - x.measured.val
  let (next, rest) := servoDecision h motor e
  countStall ch { x with motor := next, rest := rest } s

/-- The servo of one channel at an output point in RUN: MOTOR channels in AUTO, not STALLED; a REST counts down
and at its end the servo acts with the motor taken as not driving (R116, R117). -/
def servoChannel (h : Header) (s : State) (ch : Channel) : State :=
  let x := s.st.strips[ch]
  if isMotor s ch && x.mode = .auto then
    match x.motor with
    | .stalled => s
    | .rest =>
      if x.rest ≤ 1 then servoAct h ch .off s
      else countStall ch { x with rest := x.rest - 1 } s
    | motor => servoAct h ch motor s
  else s

/-- The servo at an output point; it acts in RUN alone (R115). -/
def servo (s : State) : State :=
  match s.sm.image with
  | some im => if s.sc.state = .run then channels.foldl (servoChannel im.header) s else s
  | none => s

/-- The rest of a motor ends, and the servo acts on it at that output point (R117, log 21). -/
def restEnd (ch : Channel) (s : State) : State :=
  match s.sm.image, s.st.strips[ch].motor with
  | some im, .rest => if s.sc.state = .run && isMotor s ch then servoAct im.header ch .off s else s
  | _, _ => s

/-- A motor's stall timer reaches the stall limit (R118, log 21). -/
def motorStall (ch : Channel) (s : State) : State :=
  let x := s.st.strips[ch]
  if s.sc.state = .run && isMotor s ch && motorBusy x.motor then
    post .motorStall (channelNumber ch) x.measured.val
      (setStrip s ch { x with motor := .stalled, rest := 0, stall := stallLimit s })
  else s

/-! ## The commands -/

/-- CONVERSION_COMPLETE. -/
def execConversionComplete (ch : Channel) (value : Position) (s : State) : Host.Outcome State Fault Refusal :=
  .next (settle (conversion ch value s))

/-- TOUCH_INPUT_ASSERTED. -/
def execTouchInputAsserted (ch : Channel) (s : State) : Host.Outcome State Fault Refusal :=
  .next (touchAsserted ch s)

/-- TOUCH_INPUT_ABSENT. -/
def execTouchInputAbsent (ch : Channel) (s : State) : Host.Outcome State Fault Refusal :=
  .next (settle (touchAbsent ch s))

/-- TOUCHED_ARRIVAL. -/
def execTouchedArrival (ch : Channel) (s : State) : Host.Outcome State Fault Refusal :=
  .next (settle (touchedArrival ch s))

/-- FREE_ARRIVAL. -/
def execFreeArrival (ch : Channel) (s : State) : Host.Outcome State Fault Refusal :=
  .next (settle (freeArrival ch s))

/-- KEY_SCAN. -/
def execKeyScan (mute solo : BitVec 16) (go : Bool) (s : State) : Host.Outcome State Fault Refusal :=
  .next (settle (keyScan mute solo go s))

/-- REST_END. -/
def execRestEnd (ch : Channel) (s : State) : Host.Outcome State Fault Refusal :=
  .next (restEnd ch s)

/-- MOTOR_STALL. -/
def execMotorStall (ch : Channel) (s : State) : Host.Outcome State Fault Refusal :=
  .next (motorStall ch s)

end Sys2Proof.Machine
end

