-- ==== Sys2Proof/Machine/Mix.lean ====
section
/-!
DEFINITION. The output point (01): gain law, aim, slew, capture of the gain link words, servo; the strobe; and
the timed events of the group table and the hosted masters (05).
-/

namespace Sys2Proof.Machine

/-! ## Gain law (R5 to R8) -/

/-- The sum of an AUDIO channel; none when its source position or a master position is 0 (R5 to R7). -/
def channelSum (s : State) (ch : Channel) : Option Int :=
  let source := sourcePosition s ch
  let masters := (membersOf s ch).map (masterPosition s)
  if source = 0 || masters.contains 0 then none
  else some (taper source + (masters.map taper).sum)

/-- The resolved code of an AUDIO channel (R5 to R7). -/
def channelCode (s : State) (ch : Channel) : GainCode :=
  match channelSum s ch with
  | some sum => resolvedCode sum
  | none => 0

def setHeadroom (s : State) (ch : Channel) (on : Bool) : State :=
  { s with mr := { s.mr with headroom := put s.mr.headroom ch on } }

/-- The HEADROOM flag follows the sum; HEADROOM is posted when it is set (R8). -/
def followHeadroom (ch : Channel) (s : State) : State :=
  match channelSum s ch with
  | some sum =>
    if 100 < sum then
      if s.mr.headroom[ch] then s
      else post .headroom (channelNumber ch) sum.toNat (setHeadroom s ch true)
    else setHeadroom s ch false
  | none => setHeadroom s ch false

/-! ## Aim and slew (R9 to R12) -/

/-- The stop action of a channel for a kind. -/
def stopActionOf (s : State) (ch : Channel) (k : StopKind) : StopAction :=
  match entryOf s ch, k with
  | some e, .a => e.stopA
  | some e, .b => e.stopB
  | none, _ => .hold

/-- The aim with no stop in force (R9). -/
def freeAim (s : State) (ch : Channel) : GainCode :=
  if resolvedMute s ch then 0 else channelCode s ch

/-- The aim under a stop (R10, R11). -/
def stoppedAim (s : State) (ch : Channel) (k : StopKind) : GainCode :=
  match stopActionOf s ch k with
  | .mute => 0
  | .hold => freeAim s ch
  | .level p => stopLevelCode p

/-- The aim of an AUDIO channel. -/
def aimOf (s : State) (ch : Channel) : GainCode :=
  match s.sp.effective with
  | .none => freeAim s ch
  | .a => stoppedAim s ch .a
  | .b => stoppedAim s ch .b

/-- One AUDIO channel at an output point in RUN. -/
def mixChannel (step : Nat) (s : State) (ch : Channel) : State :=
  if isAudio s ch then
    let s := followHeadroom ch s
    { s with mr := { s.mr with applied := put s.mr.applied ch (slew step s.mr.applied[ch] (aimOf s ch)) } }
  else s

/-- The gain law over all channels; it is evaluated in RUN alone (R4). -/
def gainLaw (s : State) : State :=
  if s.sc.state = .run then channels.foldl (mixChannel (setting s 0 (·.slewStep))) s else s

/-- The word of a slot (R13). -/
def slotCode (s : State) (ch : Channel) : GainCode :=
  if s.sc.state = .run && isAudio s ch then s.mr.applied[ch] else 0

/-- Capture of the sixteen words, and the start of the burst (R13). -/
def captureLink (s : State) : State :=
  { s with mr := { s.mr with link := tabulate (slotCode s), bursting := true } }

/-- The data bits the gain link sends of the burst in progress: the words of the slots, slot 1 first, each of 16 bits,
most significant bit first (R13, R179); none while no burst is in progress. They are an output of the part; the latch
strobe follows them. -/
def burstBits (s : State) : List Bool :=
  if s.mr.bursting then
    channels.flatMap (fun ch => (List.range 16).map (linkWord s.mr.link[ch]).getMsbD)
  else []

/-- The output point: gain law and capture, then the servo. -/
def outputPoint (s : State) : State :=
  servo (captureLink (gainLaw s))

/-- The latch strobe: the attenuators take the words of the burst (R14). The link buffer keeps them (DESIGN CHOICE,
log 33). -/
def strobe (s : State) : State :=
  if s.mr.bursting then
    { s with mr := { s.mr with attenuators := some s.mr.link, bursting := false } }
  else s

/-! ## Timed events of groups -/

/-- A LIVE entry reaches its age limit and becomes STALE (R94); its age stands at the limit. -/
def groupAgeLimit (g : Group) (s : State) : State :=
  match s.mr.groups[g] with
  | .owned e =>
    if e.stale then s else makeStale g (setGroup s g (.owned { e with age := Config.ageLimit }))
  | .unowned => s

/-- The limit that a time since send reaches where GROUP_SEND_DUE names it: 8 ms while dirty, else 250 ms (R97). A time
that stands at 8 ms has reached that one, and the master may have turned clean in that bit time since: the time stands
(log 3). -/
def sendLimit (dirty : Bool) (since : Nat) : Nat :=
  if dirty || since == Config.groupSpacing then Config.groupSpacing else Config.groupRefresh

/-- A hosted master's time since send reaches 8 ms while dirty, or 250 ms (R97). -/
def groupSendDue (ch : Channel) (s : State) : State :=
  let m := s.mr.masters[ch]
  if (hostedGroup s ch).isSome && !m.demoted then
    setMaster s ch { m with since := max m.since (sendLimit (masterDirty s ch) m.since) }
  else s

/-! ## The commands -/

/-- OUTPUT_POINT. -/
def execOutputPoint (s : State) : Host.Outcome State Fault Refusal :=
  .next (outputPoint s)

/-- GAIN_LINK_STROBE. -/
def execGainLinkStrobe (s : State) : Host.Outcome State Fault Refusal :=
  .next (strobe s)

/-- GROUP_AGE_LIMIT. -/
def execGroupAgeLimit (g : Group) (s : State) : Host.Outcome State Fault Refusal :=
  .next (groupAgeLimit g s)

/-- GROUP_SEND_DUE. -/
def execGroupSendDue (ch : Channel) (s : State) : Host.Outcome State Fault Refusal :=
  .next (settle (groupSendDue ch s))

end Sys2Proof.Machine
end

