-- ==== Sys2Proof/Machine/Memory.lean ====
section
/-!
DEFINITION. Show memory's bytes (R17) as a list of (offset, byte) in canonical form: offsets strictly rising
and below 65,536, no listed byte equal to 0, which is what an unlisted offset reads as (R17: LOAD BEGIN
clears every byte to 0; before the first LOAD BEGIN see log 8).
-/

namespace Sys2Proof.Machine

/-- What an unlisted offset reads as (R17, log 8). -/
def unlistedByte : Byte := 0

/-- The byte at offset `a`. -/
def readByte : List Host.Cell → Nat → Byte
  | [], _ => unlistedByte
  | (k, b) :: rest, a => if k = a then b else readByte rest a

/-- The listed bytes but for offset `a`. -/
def dropByte : List Host.Cell → Nat → List Host.Cell
  | [], _ => []
  | (k, b) :: rest, a => if k = a then rest else (k, b) :: dropByte rest a

/-- List byte `b` at offset `a`, keeping offsets rising. -/
def insertByte : List Host.Cell → Nat → Byte → List Host.Cell
  | [], a, b => [(a, b)]
  | (k, c) :: rest, a, b =>
    if a < k then (a, b) :: (k, c) :: rest
    else if k = a then (a, b) :: rest
    else (k, c) :: insertByte rest a b

/-- Write one byte; an offset at or above 65,536 does not exist and is not written (R174). -/
def writeByte (m : List Host.Cell) (a : Nat) (b : Byte) : List Host.Cell :=
  if a < Config.memorySize then
    if b = unlistedByte then dropByte m a else insertByte m a b
  else m

/-- Write bytes one per offset from `a` on (R174). -/
def writeBytes (m : List Host.Cell) (a : Nat) : List Byte → List Host.Cell
  | [] => m
  | b :: rest => writeBytes (writeByte m a b) (a + 1) rest

/-- The canonical form: every listed offset is above `low`'s, below 65,536, and its byte is not 0. -/
def Memory.wfFrom : Nat → List Host.Cell → Bool
  | _, [] => true
  | low, (k, b) :: rest => low ≤ k && k < Config.memorySize && b != unlistedByte && Memory.wfFrom (k + 1) rest

/-- Show memory is in canonical form. -/
def Memory.wf (m : List Host.Cell) : Bool :=
  Memory.wfFrom 0 m

/-- The `n` bytes from offset `a` on, in one pass over a memory in canonical form. -/
def bytesFrom : List Host.Cell → Nat → Nat → List Byte
  | _, _, 0 => []
  | [], a, n + 1 => unlistedByte :: bytesFrom [] (a + 1) n
  | (k, b) :: rest, a, n + 1 =>
    if k = a then b :: bytesFrom rest (a + 1) n
    else unlistedByte :: bytesFrom ((k, b) :: rest) (a + 1) n

end Sys2Proof.Machine
end

