-- ==== Sys2Proof/Machine/Reset.lean ====
section
/-!
DEFINITION. COLD_RESET and RESTART: the reset values of every block (R16, R56, R81, R102, R122, R141, R157,
R170, R174, R176, R178). The levels of the input pins are the outside's and are not changed by a reset (log 6).
-/

namespace Sys2Proof.Machine

/-- A strip after a cold reset. -/
def coldStrip (x : Strip) : Strip := Strip.afterReset 0 x.touchInput

/-- A strip after a warm reset: the measured position is kept (R103, R122). -/
def warmStrip (x : Strip) : Strip := Strip.afterReset x.measured x.touchInput

/-- Cold reset with the straps as read at its end. The bytes of show memory are marked INVALID, not cleared
(R17); the attenuators hold the last strobed burst (R15). -/
def coldReset (straps : Station) (s : State) : State where
  period := PeriodTimer.afterReset
  bc := BusController.afterReset s.bc.lineHeld
  sc := StationController.afterReset straps
  cq := CueSequencer.afterReset
  fe := FadeEngine.afterReset
  mr := MixResolver.afterReset s.mr.attenuators
  st := StripController.afterReset (mapTable coldStrip s.st.strips)
  sp := StopController.afterReset s.sp.lineA.raw s.sp.lineB.raw
  lp := LoadPort.afterReset
  sm := { s.sm with image := none }
  pending := s.pending

/-- The station controller after a warm reset: number kept, LISTEN with a full timer (R144, R157). -/
def warmStation (sc : StationController) : StationController :=
  { StationController.afterReset sc.number with state := .listen, listen := some Config.listenTime }

/-- The mix resolver after a warm reset: a burst in progress keeps its words until its strobe (R15, R16). With no burst
in progress the link buffer keeps the words last captured (DESIGN CHOICE, log 33). -/
def warmMix (mr : MixResolver) : MixResolver :=
  { MixResolver.afterReset mr.attenuators with link := mr.link, bursting := mr.bursting }

/-- A warm reset (R157): every block's warm values, then RESTART posted with the timestamp at 0. The period
timer, show memory, the port and the event queue are kept (R3, R17, R174 to R176). -/
def warmReset (s : State) : State :=
  post .restart (stateCode s.sc.state) 0
    { s with
      bc := BusController.afterReset s.bc.lineHeld
      sc := warmStation s.sc
      cq := CueSequencer.afterReset
      fe := FadeEngine.afterReset
      mr := warmMix s.mr
      st := StripController.afterReset (mapTable warmStrip s.st.strips)
      sp := StopController.afterReset s.sp.lineA.raw s.sp.lineB.raw }

/-- COLD_RESET. -/
def execColdReset (straps : Station) (s : State) : Host.Outcome State Fault Refusal :=
  .next (coldReset straps s)

end Sys2Proof.Machine
end

