-- ==== Sys2Proof/Machine/StopLines.lean ====
section
/-!
DEFINITION. The stop lines and their machines (09): STOP_LINE_INPUT_CHANGE, LINE_ASSERTION, LINE_RELEASE.
-/

namespace Sys2Proof.Machine

/-- The debounce timer runs while the raw input stands opposite to the debounced state (R159). -/
def debounceTimer (raw asserted : Bool) (timer : Option Micros) : Option Micros :=
  if raw = asserted then none else some (timer.getD 0)

/-- A change on a raw stop line input starts or stops the debounce timer (R159). -/
def stopLineInputChange (k : StopKind) (asserted : Bool) (s : State) : State :=
  let l := lineOf s k
  setLine s k { l with raw := asserted, timer := debounceTimer asserted l.asserted l.timer }

/-- The frame is on the bus in its arbitration byte, not yet won. -/
def inArbitration (s : State) (p : Payload) : Bool :=
  s.bc.sending == some { payload := p, won := false }

/-- An owner withdraws a STOP frame that has not won arbitration (R131, R163). A bid for it that is in its
arbitration byte is given up as at a lost arbitration (log 15). -/
def withdrawStop (p : Payload) (s : State) : State :=
  if inArbitration s p then { s with bc := { s.bc with phase := .receiving, sending := none } } else s

/-- The RELEASE frame of a machine has won arbitration: it is in flight (R131). -/
def releaseInFlight (s : State) (k : StopKind) : Bool :=
  s.bc.stopFlight.any (fun f => f.payload == .stop true k s.sc.number)

/-- A line assertion reaches the machine of its kind (R160 to R163). -/
def takeAssertion (k : StopKind) (s : State) : State :=
  match (machineOf s k).state with
  | .clear => assertFromClear k s
  | .announcing => s
  | .held => s
  | .releasing =>
    if releaseInFlight s k then s
    else enterHeld k (withdrawStop (.stop true k s.sc.number) s)

/-- The debounce timer of a released line runs out with its input asserted: the line is ASSERTED (R159). The
machines take it while show memory is VALID. -/
def lineAssertion (k : StopKind) (s : State) : State :=
  let l := lineOf s k
  if l.raw && !l.asserted then
    let s := setLine s k { l with asserted := true, timer := none }
    if s.sm.image.isSome then takeAssertion k s else s
  else s

/-- The debounce timer of an asserted line runs out with its input released: the line is RELEASED, and a HELD
machine whose release condition is then met releases (R159, R162). -/
def lineRelease (k : StopKind) (s : State) : State :=
  let l := lineOf s k
  if !l.raw && l.asserted then
    let s := setLine s k { l with asserted := false, timer := none }
    if s.sm.image.isSome then testRelease k s else s
  else s

/-- STOP_LINE_INPUT_CHANGE. -/
def execStopLineInputChange (k : StopKind) (asserted : Bool) (s : State) : Host.Outcome State Fault Refusal :=
  .next (stopLineInputChange k asserted s)

/-- LINE_ASSERTION. -/
def execLineAssertion (k : StopKind) (s : State) : Host.Outcome State Fault Refusal :=
  .next (settle (lineAssertion k s))

/-- LINE_RELEASE. -/
def execLineRelease (k : StopKind) (s : State) : Host.Outcome State Fault Refusal :=
  .next (settle (lineRelease k s))

end Sys2Proof.Machine
end

