-- ==== Sys2Proof/Machine/Port.lean ====
section
/-!
DEFINITION. The load port (10): transactions, the state rows of R172, the reads and their responses (R182), the
load commands, the commands that act, and the event stale timer.
-/

namespace Sys2Proof.Machine

/-! ## Transactions (R171) -/

/-- The command is answered: the result byte, and response data after OK (R182). -/
def answer (result : PortResult) (data : List Byte) (s : State) : State :=
  { s with lp := { s.lp with port := .answered result data 0 } }

/-- An answer without response data. -/
def answerOnly (result : PortResult) (s : State) : State := answer result [] s

/-- A command is taken in a transaction that has taken none: bytes clocked before chip select goes low reach nothing,
and those after the last argument are ignored. -/
def taken (s own : State) : State :=
  if s.lp.port = .reading then own else s

/-- Chip select goes low: a transaction begins. A transaction before it ended with its response clocked out (log 19). -/
def chipSelectLow (s : State) : State :=
  { s with lp := { s.lp with port := .reading } }

/-- Response bytes that must be clocked out for all `records` records of a READ EVENTS to have gone: the
result byte, the count, and 8 bytes each (R177, R182). -/
def recordsEnd (records : Nat) : Nat := 2 + 8 * records

/-- The oldest record takes the gap flag. -/
def markOldest : List EventRecord → List EventRecord
  | [] => []
  | r :: rest => { r with gap := true } :: rest

/-- Records of a READ EVENTS were lost (R177). -/
def recordsLost (s : State) : State :=
  if s.lp.queue.isEmpty then { s with lp := { s.lp with gapPending := true } }
  else { s with lp := { s.lp with queue := markOldest s.lp.queue } }

/-- Chip select goes high with `clocked` response bytes out: the transaction ends, and records of a READ EVENTS
not fully clocked out are lost (R171, R177). -/
def chipSelectHigh (clocked : Nat) (s : State) : State :=
  let ended := { s with lp := { s.lp with port := .idle } }
  match s.lp.port with
  | .answered .ok _ (k + 1) => if clocked < recordsEnd (k + 1) then recordsLost ended else ended
  | .answered _ _ _ => ended
  | .idle => ended
  | .reading => ended

/-- The bytes the part returns in a transaction, after the command's own: the result byte and the response data
(R171, R182). -/
def responseBytes : Port → List Byte
  | .answered result data _ => byte1 (resultCode result) :: data
  | .idle => []
  | .reading => []

/-- How many bytes the command of a transaction takes, its code among them, where `clocked` are the bytes clocked in
since chip select went low; none while the command is not yet taken (R171). -/
def commandSize (clocked : List Byte) : Option Nat :=
  (List.range (clocked.length + 1)).find? (fun n => (readCommand (clocked.take n)).isSome)

/-- What the data output carries in one byte of a transaction, the byte at `place` counted from 0, where the bytes
`clocked` have been clocked in: 0 in the command and argument bytes, then the response, and 0 in any byte after it
(R171, idle bytes). -/
def dataOutput (clocked : List Byte) (port : Port) (place : Nat) : Byte :=
  match commandSize clocked with
  | some n => if place < n then 0 else (responseBytes port).getD (place - n) 0
  | none => 0

/-! ## The state rows of R172 -/

/-- The groups of commands R172's rows tell apart. -/
inductive PortRow where
  | readAny
  | readChannel
  | loadBegin
  | load
  | cue
  | act
  deriving DecidableEq, Repr

/-- The result a state row gives, or none where the command goes on to its own rule. -/
def stateRow (row : PortRow) (state : StationState) : Option PortResult :=
  match row, state with
  | .readAny, _ => none
  | .loadBegin, .load => none
  | .loadBegin, .loadFault => none
  | .load, .load => none
  | .cue, .run => none
  | .readChannel, .listen => none
  | .readChannel, .catchup => none
  | .readChannel, .run => none
  | .act, .listen => none
  | .act, .catchup => none
  | .act, .run => none
  | _, .validating => some .busy
  | _, _ => some .wrongState

/-- A command that is taken answers by the state row, or goes on. -/
def byStateRow (row : PortRow) (s : State) (own : State) : State :=
  taken s (match stateRow row s.sc.state with
    | some result => answerOnly result s
    | none => own)

/-! ## Reads (R173, R177, R182) -/

/-- READ STATUS, 16 bytes. With no load fault to report the reason byte is 0 by R182, and the three offset bytes are 0 too
(DESIGN CHOICE, log 41). -/
def statusBytes (s : State) : List Byte :=
  [byte1 s.sc.number.val, byte1 (stateCode s.sc.state), statusFlags s, stopsByte s]
    ++ bytes3 (cueCode s.cq.standby) ++ bytes3 (cueCode s.cq.last)
    ++ [byte1 (s.cq.incoming.length * 16 + s.cq.outgoing.length), byte1 s.lp.queue.length]
    ++ match s.lp.lastFault with
      | some (reason, offset) => byte1 (loadFaultCode reason) :: bytes3 offset
      | none => [0, 0, 0, 0]

/-- The count of LEVEL records of a channel (R80). -/
def levelRecords (s : State) (ch : Channel) : Nat :=
  s.fe.pool.countP (fun r => r.isLevel && r.channel == ch)

/-- READ CHANNEL, 13 bytes. -/
def channelBytes (s : State) (ch : Channel) : List Byte :=
  let x := s.st.strips[ch]
  [byte1 (roleCode (roleOf s ch)), byte1 (modeCode x.mode)]
    ++ bytes2 s.fe.levels[ch].val ++ bytes2 x.hand.val ++ bytes2 x.measured.val ++ bytes2 s.mr.applied[ch].val
    ++ [channelFlags s ch, byte1 (motorCode x.motor), byte1 (levelRecords s ch)]

/-- READ PEER, 7 bytes. -/
def peerBytes (e : PeerEntry) : List Byte :=
  [byte1 (presenceCode e.presence), peerFlags e] ++ bytes3 (cueCode e.last) ++ bytes2 (e.heard / Config.ms)

/-- The group table entry part of READ GROUP, 8 bytes; an UNOWNED entry reads 768, no, 0 (R91). The mute byte is 1 when
muted (DESIGN CHOICE, log 38). -/
def groupEntryBytes (e : GroupEntry) : List Byte :=
  match e with
  | .unowned => [0, 0] ++ bytes2 768 ++ [0] ++ bytes2 0
  | .owned o =>
    [if o.stale then 2 else 1, byte1 (peerNumber o.owner)] ++ bytes2 o.position.val ++ [boolByte o.mute]
      ++ bytes2 (o.age / Config.ms)

/-- The hosted-master part of READ GROUP, 12 bytes with its mark (R182). The two mute bytes are 1 when muted (DESIGN
CHOICE, log 38). -/
def hostedBytes (s : State) (host : Option Channel) : List Byte :=
  match host with
  | none => List.replicate 12 0
  | some ch =>
    let m := s.mr.masters[ch]
    [1, byte1 (channelNumber ch), boolByte m.demoted] ++ bytes2 (sourcePosition s ch).val ++ [boolByte s.mr.mute[ch]]
      ++ (match m.lastSent with
        | some (p, mute) => 1 :: bytes2 p.val ++ [boolByte mute]
        | none => [0, 0, 0, 0])
      ++ bytes2 (m.since / Config.ms)

/-- READ GROUP, 19 bytes. -/
def groupBytesOf (s : State) (g : Group) : List Byte :=
  groupEntryBytes s.mr.groups[g] ++ hostedBytes s (hostOf s g)

def readStatus (s : State) : State :=
  byStateRow .readAny s (answer .ok (statusBytes s) s)

def readChannel (arg : Byte) (s : State) : State :=
  byStateRow .readChannel s
    (match channelArgument arg with
    | some ch => answer .ok (channelBytes s ch) s
    | none => answerOnly .badArgument s)

def readPeer (arg : Byte) (s : State) : State :=
  byStateRow .readAny s
    (match peerArgument arg with
    | some p => answer .ok (peerBytes s.sc.peers[p]) s
    | none => answerOnly .badArgument s)

def readGroup (arg : Byte) (s : State) : State :=
  byStateRow .readAny s
    (match groupArgument arg with
    | some g => answer .ok (groupBytesOf s g) s
    | none => answerOnly .badArgument s)

/-- `k` records leave the head of the queue into the response, and the stale timer reloads (R177, R178). -/
def takeEvents (n : Nat) (s : State) : State :=
  let taken := s.lp.queue.take n
  let data := byte1 taken.length :: taken.flatMap recordBytes
  evaluateAttn { s with lp := { s.lp with
    queue := s.lp.queue.drop n
    stale := loadedStale s
    port := .answered .ok data taken.length } }

def readEvents (arg : Byte) (s : State) : State :=
  byStateRow .readAny s
    (match countArgument arg with
    | some n => takeEvents n s
    | none => answerOnly .badArgument s)

/-! ## Loading (R17, R174) -/

/-- LOAD BEGIN: show memory cleared and INVALID, the load afresh. -/
def loadBegin (s : State) : State :=
  byStateRow .loadBegin s
    (answerOnly .ok { s with
      sm := { bytes := [], image := none }
      lp := { s.lp with offset := 0, overflowed := false }
      sc := { s.sc with state := .load } })

/-- Store the data bytes that fall below 65,536, from the write offset on; a byte that does not fit is dropped,
sets the overflowed mark and answers FULL. -/
def storeData (data : List Byte) (s : State) : State :=
  if s.lp.overflowed then answerOnly .full s
  else
    let stored := data.take (Config.memorySize - s.lp.offset)
    let lost := stored.length < data.length
    answerOnly (if lost then .full else .ok) { s with
      sm := { s.sm with bytes := writeBytes s.sm.bytes s.lp.offset stored }
      lp := { s.lp with offset := s.lp.offset + stored.length, overflowed := lost } }

/-- LOAD DATA. Cut short before its last data byte it is not taken, and bytes after the last are ignored
(R171, R174). -/
def loadData (length : Byte) (data : List Byte) (s : State) : State :=
  if length ≠ 0 && data.length < length.toNat then s
  else
    byStateRow .load s
      (if length = 0 then answerOnly .badArgument s else storeData (data.take length.toNat) s)

/-- LOAD END: validation starts (R23). -/
def loadEnd (s : State) : State :=
  byStateRow .load s (answerOnly .ok { s with sc := { s.sc with state := .validating } })

/-! ## Cue commands (R38) -/

/-- Offer a port request, answered by what became of it. -/
def portRequest (kind : CueKind) (c : CueNumber) (s : State) : State :=
  match offerRequest kind c .port s with
  | (s, .queued) => answerOnly .ok s
  | (s, .duplicate) => answerOnly .ok s
  | (s, .refused) => answerOnly .full s

def portGo (s : State) : State :=
  byStateRow .cue s
    (if cannotSend s then answerOnly .wrongState s
    else if stopped s then answerOnly .stopped s
    else match s.cq.standby with
      | none => answerOnly .ok (post .endOfList (cueCode s.cq.last) (ownOrigin s .port) s)
      | some c => portRequest .fire c s)

def portFire (arg : BitVec 24) (s : State) : State :=
  byStateRow .cue s
    (if cannotSend s then answerOnly .wrongState s
    else match cueArgument arg with
      | none => answerOnly .badArgument s
      | some c => if stopped s then answerOnly .stopped s else portRequest .fire c s)

def portStandby (arg : BitVec 24) (s : State) : State :=
  byStateRow .cue s
    (if cannotSend s then answerOnly .wrongState s
    else match cueArgument arg with
      | none => answerOnly .badArgument s
      | some c => portRequest .standby c s)

/-! ## STOP RELEASE (R165, R166) -/

/-- Acknowledgement of the own stop of a kind (R165). -/
def portAcknowledge (k : StopKind) (s : State) : State :=
  if stopModeOf s k = .follow then answerOnly .wrongState s
  else match (machineOf s k).state with
    | .clear => answerOnly .wrongState s
    | .releasing => answerOnly .wrongState s
    | .announcing => answerOnly .ok (acknowledge k s)
    | .held => answerOnly .ok (acknowledge k s)

/-- Orphan release of a peer's stop of a kind (R166). -/
def portOrphan (k : StopKind) (p : Peer) (s : State) : State :=
  if !(s.sc.peers[p].presence == .lost && s.sc.peers[p].stop k) then answerOnly .badArgument s
  else match s.sp.orphan with
    | some slot => if slot = (k, p) then answerOnly .ok s else answerOnly .full s
    | none =>
      if canAnnounce s then answerOnly .ok { s with sp := { s.sp with orphan := some (k, p) } }
      else answerOnly .ok (clearOrphanFlag k p s)

def portStopRelease (kind target : Byte) (s : State) : State :=
  byStateRow .act s
    (match kindArgument kind with
    | none => answerOnly .badArgument s
    | some k =>
      if target.toNat = s.sc.number.val then portAcknowledge k s
      else match toPeer? target.toNat with
        | some p => portOrphan k p s
        | none => answerOnly .badArgument s)

/-! ## CLEAR MOTOR, RESTART, unknown codes (R171, R175) -/

def portClearMotor (arg : Byte) (s : State) : State :=
  byStateRow .act s
    (match (channelArgument arg).filter (isMotor s) with
    | some ch => answerOnly .ok (setStrip s ch (stallCleared s.st.strips[ch]))
    | none => answerOnly .badArgument s)

def portRestart (s : State) : State :=
  byStateRow .act s (answerOnly .ok (warmReset s))

/-- A code that names no command (R171). -/
def unknownCommand (s : State) : State := taken s (answerOnly .unknownCommand s)

/-! ## The event stale timer (R178) -/

/-- The stale timer reaches 0 and expires. -/
def staleExpiry (s : State) : State :=
  match s.lp.stale with
  | .running _ => evaluateAttn { s with lp := { s.lp with stale := .expired } }
  | .off => s
  | .expired => s

/-! ## The commands -/

/-- CHIP_SELECT_LOW. -/
def execChipSelectLow (s : State) : Host.Outcome State Fault Refusal :=
  .next (chipSelectLow s)

/-- CHIP_SELECT_HIGH. -/
def execChipSelectHigh (clocked : Nat) (s : State) : Host.Outcome State Fault Refusal :=
  .next (chipSelectHigh clocked s)

/-- READ_STATUS. -/
def execReadStatus (s : State) : Host.Outcome State Fault Refusal :=
  .next (readStatus s)

/-- READ_EVENTS. -/
def execReadEvents (n : Byte) (s : State) : Host.Outcome State Fault Refusal :=
  .next (readEvents n s)

/-- READ_CHANNEL. -/
def execReadChannel (ch : Byte) (s : State) : Host.Outcome State Fault Refusal :=
  .next (readChannel ch s)

/-- READ_PEER. -/
def execReadPeer (p : Byte) (s : State) : Host.Outcome State Fault Refusal :=
  .next (readPeer p s)

/-- READ_GROUP. -/
def execReadGroup (g : Byte) (s : State) : Host.Outcome State Fault Refusal :=
  .next (readGroup g s)

/-- LOAD_BEGIN. -/
def execLoadBegin (s : State) : Host.Outcome State Fault Refusal :=
  .next (loadBegin s)

/-- LOAD_DATA. -/
def execLoadData (length : Byte) (data : List Byte) (s : State) : Host.Outcome State Fault Refusal :=
  .next (loadData length data s)

/-- LOAD_END. -/
def execLoadEnd (s : State) : Host.Outcome State Fault Refusal :=
  .next (loadEnd s)

/-- GO. -/
def execGo (s : State) : Host.Outcome State Fault Refusal :=
  .next (settle (portGo s))

/-- FIRE. -/
def execFire (cue : BitVec 24) (s : State) : Host.Outcome State Fault Refusal :=
  .next (settle (portFire cue s))

/-- STANDBY. -/
def execStandby (cue : BitVec 24) (s : State) : Host.Outcome State Fault Refusal :=
  .next (settle (portStandby cue s))

/-- STOP_RELEASE. -/
def execStopRelease (kind target : Byte) (s : State) : Host.Outcome State Fault Refusal :=
  .next (settle (portStopRelease kind target s))

/-- CLEAR_MOTOR. -/
def execClearMotor (ch : Byte) (s : State) : Host.Outcome State Fault Refusal :=
  .next (portClearMotor ch s)

/-- RESTART. -/
def execRestart (s : State) : Host.Outcome State Fault Refusal :=
  .next (portRestart s)

/-- UNKNOWN_COMMAND; the code itself has no effect. -/
def execUnknownCommand (_code : Byte) (s : State) : Host.Outcome State Fault Refusal :=
  .next (unknownCommand s)

/-- STALE_TIMER_EXPIRY. -/
def execStaleTimerExpiry (s : State) : Host.Outcome State Fault Refusal :=
  .next (staleExpiry s)

end Sys2Proof.Machine
end

