-- ==== Sys2Proof/Machine/Station.lean ====
section
/-!
DEFINITION. The station controller's events (08), the end of validation (02), and the level point (04), at
which the station may enter RUN.
-/

namespace Sys2Proof.Machine

/-! ## The end of validation (R29) -/

/-- The loaded bytes of show memory (R17, R23). -/
def loadedBytes (s : State) : List Byte :=
  bytesFrom s.sm.bytes 0 s.lp.offset

/-- A line whose debounced state is ASSERTED is taken by its machine at the success of validation (R159). -/
def takeHeldLine (k : StopKind) (s : State) : State :=
  if (lineOf s k).asserted && (machineOf s k).state == .clear then assertFromClear k s else s

/-- Entry to LISTEN (R144). -/
def enterListen (s : State) : State :=
  { s with sc := { s.sc with state := .listen, listen := some Config.listenTime, candidate := none } }

/-- Validation succeeds (R18, R29, R90): VALID, the load port's settings with the stale timer loaded and ATTN
afresh (R178), the hosted masters in HOSTING (R102), LISTEN, and the stop lines held through the load (R159).
The last load fault stays as it was (DESIGN CHOICE, log 34), and the line of kind A is taken before that of kind B
(DESIGN CHOICE, log 5). -/
def validationSucceeds (image : ShowImage) (s : State) : State :=
  let s := { s with sm := { s.sm with image := some image } }
  let s := { s with mr := { s.mr with masters := Vector.replicate 16 Master.afterReset } }
  let s := evaluateAttn { s with lp := { s.lp with stale := loadedStale s } }
  takeHeldLine .b (takeHeldLine .a (enterListen s))

/-- Validation ends in a fault (R29). -/
def validationFails (reason : LoadFaultReason) (offset : Nat) (s : State) : State :=
  post .loadFault (loadFaultCode reason) offset
    { s with
      lp := { s.lp with lastFault := some (reason, offset) }
      sc := { s.sc with state := .loadFault } }

/-- The end of validation. -/
def validationEnd (s : State) : State :=
  if s.sc.state = .validating then
    match validate (loadedBytes s) with
    | .ok image => validationSucceeds image s
    | .error (reason, offset) => validationFails reason offset s
  else s

/-! ## From LISTEN to RUN (R50, R146, R147) -/

/-- The cue sequencer takes the candidate at the start of CATCHUP (R33, R50). With no candidate the time since
acceptance is left as it stands (log 27). -/
def cueSequencerCatchup (table : List CueRecord) (candidate : Option Candidate) (cq : CueSequencer) : CueSequencer :=
  match candidate with
  | none => { cq with standby := firstCue table, last := none, follow := none }
  | some c =>
    { cq with
      standby := nextCueAfter table c.cue
      last := some c.cue
      since := match c.source with
        | .fire => c.age
        | .state => Config.sinceLimit
      follow := none }

/-- The listen timer expires: CATCHUP, and the walk begins at the presets (R32, R146). -/
def listenExpiry (s : State) : State :=
  if s.sc.state = .listen then
    { s with
      cq := cueSequencerCatchup (cueTable s) s.sc.candidate s.cq
      sc := { s.sc with
        state := .catchup
        listen := none
        tracked := s.sm.image.map presets
        walkEnded := false } }
  else s

/-- The walk has read its last move (R32, R147). -/
def walkEnd (s : State) : State :=
  if s.sc.state = .catchup && !s.sc.walkEnded then
    { s with sc := { s.sc with
      tracked := s.sm.image.map (fun im => catchUpWalk im (s.sc.candidate.map (·.cue)))
      walkEnded := true } }
  else s

/-- The fade engine installs the tracked levels and the mix resolver the tracked mutes (R79, R100). -/
def installTracked (t : Vector Tracked 16) (s : State) : State :=
  { s with
    fe := { s.fe with levels := mapTable (·.level) t }
    mr := { s.mr with mute := mapTable (·.mute) t } }

/-- A HOSTING master is made eligible (R100). -/
def readyMaster (m : Master) : Master :=
  if m.demoted then m else { m with since := Config.groupRefresh, lastSent := none }

/-- The mix resolver at RUN entry: solos clear, HOSTING masters eligible (R100). -/
def mixAtRunEntry (s : State) : State :=
  { s with mr := { s.mr with
    solo := Vector.replicate 16 false
    masters := mapTable readyMaster s.mr.masters } }

/-- The strip controller at RUN entry for one channel (R111, R114). -/
def stripAtRunEntry (s : State) (ch : Channel) : State :=
  let x := { s.st.strips[ch] with mode := .auto }
  let x := if isPlain s ch then { x with park := x.measured, crossing := none } else x
  let s := setStrip s ch x
  if isMotor s ch then
    match x.touch with
    | .touched => touchedAct ch s
    | .hold _ => touchedAct ch s
    | .free => s
    | .pending _ => s
  else s

/-- The number of PRESENT peers. -/
def presentPeers (s : State) : Nat :=
  s.sc.peers.toList.countP (fun p => p.presence == .present)

/-- RUN entry (R147): the blocks act, the expander starts (R50), CATCHUP DONE is posted, and a follow armed
with 0 in CATCHUP expires (R52). R52 and R147 give that expiry no place among the rest of the entry; it is taken last,
after the start of the expander and the post of CATCHUP DONE (DESIGN CHOICE, log 42). With a stop in force at the entry that follow holds at 0, and it expires at the first
bit time after the stop returns to NONE (DESIGN CHOICE, log 35). -/
def enterRun (s : State) : State :=
  let t := s.sc.tracked.getD (Vector.replicate 16 { level := 0, mute := false })
  let s := { s with sc := { s.sc with
    state := .run, stateRequest := true, refresh := some 0, tracked := none, walkEnded := false } }
  let s := mixAtRunEntry (installTracked t s)
  let s := channels.foldl stripAtRunEntry s
  let s := runExpander s
  let s := post .catchupDone (cueCode (s.sc.candidate.map (·.cue))) (presentPeers s) s
  match s.cq.follow with
  | some f => if f.left = 0 && !stopped s then expireFollow f.target s else s
  | none => s

/-- The station waits in CATCHUP for the level point after the end of the walk (R147). -/
def runDue (s : State) : Bool :=
  s.sc.state == .catchup && s.sc.walkEnded

/-- RUN_ENTRY: the level point at which the station enters RUN; a downward change of the effective stop takes
effect at it as at every level point (R169). -/
def runEntry (s : State) : State :=
  if runDue s then enterRun (lowerStop s) else s

/-- LEVEL_POINT (R61, R169): a downward change of the effective stop first, then the fade engine's three steps in
RUN with no stop in force. The first level point after the walk is the RUN entry (R143, R147, log 11). -/
def levelPoint (s : State) : State :=
  let s := lowerStop s
  if runDue s then enterRun s
  else if fadeEngineWorks s then fadeSteps s
  else s

/-! ## Peers and STATE frames (R150, R153) -/

/-- The kinds held by a peer that goes LOST (R150, R183). -/
def kindsHeld (p : PeerEntry) : Nat :=
  (if p.stopA then 1 else 0) + (if p.stopB then 2 else 0)

/-- A PRESENT peer's time since heard reaches 400 ms: it is LOST (R94, R96, R150). -/
def peerLost (p : Peer) (s : State) : State :=
  let e := s.sc.peers[p]
  if e.presence = .present then
    let s := setPeer s p { e with presence := .lost, solo := false, heard := max e.heard Config.lostTime }
    let s := post .peerLost (peerNumber p) (cueCode e.last) s
    let s := if kindsHeld e = 0 then s else post .orphanStop (peerNumber p) (kindsHeld e) s
    groupNumbers.foldl (groupOwnerLost p) s
  else s

/-- The refresh timer expires: the STATE request flag is set and the timer restarts (R153). -/
def stateRefresh (s : State) : State :=
  if s.sc.state = .run then
    { s with sc := { s.sc with stateRequest := true, refresh := some 0 } }
  else s

/-! ## The commands -/

/-- VALIDATION_END. -/
def execValidationEnd (s : State) : Host.Outcome State Fault Refusal :=
  .next (validationEnd s)

/-- LISTEN_TIMER_EXPIRY. -/
def execListenTimerExpiry (s : State) : Host.Outcome State Fault Refusal :=
  .next (listenExpiry s)

/-- CATCHUP_WALK_END. -/
def execCatchupWalkEnd (s : State) : Host.Outcome State Fault Refusal :=
  .next (walkEnd s)

/-- RUN_ENTRY. -/
def execRunEntry (s : State) : Host.Outcome State Fault Refusal :=
  .next (settle (runEntry s))

/-- LEVEL_POINT. -/
def execLevelPoint (s : State) : Host.Outcome State Fault Refusal :=
  .next (settle (levelPoint s))

/-- PEER_LOST. -/
def execPeerLost (p : Peer) (s : State) : Host.Outcome State Fault Refusal :=
  .next (settle (peerLost p s))

/-- STATE_REFRESH. -/
def execStateRefresh (s : State) : Host.Outcome State Fault Refusal :=
  .next (settle (stateRefresh s))

end Sys2Proof.Machine
end

