-- ==== Sys2Proof/Machine/Dispatch.lean ====
section
/-! DEFINITION. The command's effect: one arm per constructor of Instr, each one call of its meaning. -/

namespace Sys2Proof.Machine

def exec (i : Instr) (s : State) : Host.Outcome State Fault Refusal :=
  match i with
  | .coldReset straps => Sys2Proof.Machine.execColdReset straps s
  | .levelPoint => Sys2Proof.Machine.execLevelPoint s
  | .outputPoint => Sys2Proof.Machine.execOutputPoint s
  | .gainLinkStrobe => Sys2Proof.Machine.execGainLinkStrobe s
  | .conversionComplete ch value => Sys2Proof.Machine.execConversionComplete ch value s
  | .touchInputAsserted ch => Sys2Proof.Machine.execTouchInputAsserted ch s
  | .touchInputAbsent ch => Sys2Proof.Machine.execTouchInputAbsent ch s
  | .touchedArrival ch => Sys2Proof.Machine.execTouchedArrival ch s
  | .freeArrival ch => Sys2Proof.Machine.execFreeArrival ch s
  | .keyScan mute solo go => Sys2Proof.Machine.execKeyScan mute solo go s
  | .stopLineInputChange kind asserted => Sys2Proof.Machine.execStopLineInputChange kind asserted s
  | .lineAssertion kind => Sys2Proof.Machine.execLineAssertion kind s
  | .lineRelease kind => Sys2Proof.Machine.execLineRelease kind s
  | .bidPoint => Sys2Proof.Machine.execBidPoint s
  | .arbitrationWon => Sys2Proof.Machine.execArbitrationWon s
  | .arbitrationLost => Sys2Proof.Machine.execArbitrationLost s
  | .arbitrationByteRead first second => Sys2Proof.Machine.execArbitrationByteRead first second s
  | .frameReceived groups => Sys2Proof.Machine.execFrameReceived groups s
  | .frameComplete => Sys2Proof.Machine.execFrameComplete s
  | .attemptFailed place => Sys2Proof.Machine.execAttemptFailed place s
  | .busBreak => Sys2Proof.Machine.execBusBreak s
  | .busBreakEnd => Sys2Proof.Machine.execBusBreakEnd s
  | .busFault => Sys2Proof.Machine.execBusFault s
  | .busRestored => Sys2Proof.Machine.execBusRestored s
  | .readStatus => Sys2Proof.Machine.execReadStatus s
  | .readEvents n => Sys2Proof.Machine.execReadEvents n s
  | .readChannel ch => Sys2Proof.Machine.execReadChannel ch s
  | .readPeer p => Sys2Proof.Machine.execReadPeer p s
  | .readGroup g => Sys2Proof.Machine.execReadGroup g s
  | .loadBegin => Sys2Proof.Machine.execLoadBegin s
  | .loadData length data => Sys2Proof.Machine.execLoadData length data s
  | .loadEnd => Sys2Proof.Machine.execLoadEnd s
  | .go => Sys2Proof.Machine.execGo s
  | .fire cue => Sys2Proof.Machine.execFire cue s
  | .standby cue => Sys2Proof.Machine.execStandby cue s
  | .stopRelease kind target => Sys2Proof.Machine.execStopRelease kind target s
  | .clearMotor ch => Sys2Proof.Machine.execClearMotor ch s
  | .restart => Sys2Proof.Machine.execRestart s
  | .unknownCommand code => Sys2Proof.Machine.execUnknownCommand code s
  | .chipSelectHigh clocked => Sys2Proof.Machine.execChipSelectHigh clocked s
  | .validationEnd => Sys2Proof.Machine.execValidationEnd s
  | .listenTimerExpiry => Sys2Proof.Machine.execListenTimerExpiry s
  | .catchupWalkEnd => Sys2Proof.Machine.execCatchupWalkEnd s
  | .runEntry => Sys2Proof.Machine.execRunEntry s
  | .prefetchComplete => Sys2Proof.Machine.execPrefetchComplete s
  | .expansionComplete => Sys2Proof.Machine.execExpansionComplete s
  | .followExpiry => Sys2Proof.Machine.execFollowExpiry s
  | .delayCountExpiry slot => Sys2Proof.Machine.execDelayCountExpiry slot s
  | .fadeComplete slot => Sys2Proof.Machine.execFadeComplete slot s
  | .restEnd ch => Sys2Proof.Machine.execRestEnd ch s
  | .motorStall ch => Sys2Proof.Machine.execMotorStall ch s
  | .groupAgeLimit g => Sys2Proof.Machine.execGroupAgeLimit g s
  | .groupSendDue ch => Sys2Proof.Machine.execGroupSendDue ch s
  | .peerLost p => Sys2Proof.Machine.execPeerLost p s
  | .stateRefresh => Sys2Proof.Machine.execStateRefresh s
  | .staleTimerExpiry => Sys2Proof.Machine.execStaleTimerExpiry s
  | .startBit => Sys2Proof.Machine.execStartBit s
  | .chipSelectLow => Sys2Proof.Machine.execChipSelectLow s

end Sys2Proof.Machine
end

