-- ==== Sys2Proof/Machine/Tick.lean ====
section
/-!
DEFINITION. One bit time of the station's own crystal (0.5, R3), which passes when no command waits (log 1).
Every timer takes one microsecond more, and the events that have come due join the queue, in a fixed order
(log 5). The events of the outside, and the ends of work the manual gives no time for, are not raised here
(log 25).
-/

namespace Sys2Proof.Machine

/-- A timer that counts up and stops at a limit. -/
def countUp (limit t : Micros) : Micros :=
  if t < limit then t + 1 else t

/-- A timer that counts down to 0. -/
def countTimer (t : Option Micros) : Option Micros :=
  t.map (· - 1)

/-! ## The timers, block by block -/

/-- R3. -/
def tickPeriod (p : PeriodTimer) : PeriodTimer where
  phase := (p.phase + 1) % Config.period
  begun := p.begun || (p.phase + 1) % Config.period == 0

/-- Gap count, dominant run, own frame, own drive and the counts of FAULT (R125, R132, R137, R138). A recessive bit
time at the bid point or after it passes with no start bit (R126, R136). After the last bit of the own frame, which
the bits of its class give (R124), each recessive bit time of the error window raises the gap count. -/
def tickBus (bc : BusController) : BusController :=
  match bc.phase with
  | .idle =>
    if bc.lineHeld then { bc with run := countUp Config.breakBits bc.run }
    else
      let passed := if Config.bidGap ≤ bc.gap then clearYields bc else bc
      { passed with gap := countUp Config.idleGap bc.gap, run := 0 }
  | .receiving => bc
  | .sending =>
    match bc.sending with
    | some f =>
      if f.won && frameBits (payloadClass f.payload) ≤ bc.sent then
        { bc with gap := countUp Config.windowBits bc.gap, run := 0 }
      else { bc with sent := countUp (frameBits (payloadClass f.payload)) bc.sent }
    | none => bc
  | .broken => { bc with drive := bc.drive - 1, run := countUp Config.faultBits bc.run }
  | .fault =>
    { bc with
      faultTime := bc.faultTime + 1
      quiet := if bc.lineHeld then 0 else countUp Config.faultBits bc.quiet }

/-- The time since heard of a PRESENT or LOST entry (R148). -/
def tickPeer (p : PeerEntry) : PeerEntry :=
  if p.presence = .absent then p else { p with heard := countUp Config.heardLimit p.heard }

/-- R144, R145, R148, R153, R156. -/
def tickStation (sc : StationController) : StationController :=
  { sc with
    listen := countTimer sc.listen
    candidate :=
      if sc.state = .listen then sc.candidate.map (fun c => { c with age := countUp Config.sinceLimit c.age })
      else sc.candidate
    peers := mapTable tickPeer sc.peers
    refresh := sc.refresh.map (countUp Config.refreshTime)
    stamp := (sc.stamp + 1) % Config.stampWrap }

/-- The follow timer counts in RUN with no stop in force (R52). -/
def followCounts (s : State) : Bool :=
  s.sc.state == .run && !stopped s

/-- R43, R52. -/
def tickCues (counts : Bool) (cq : CueSequencer) : CueSequencer :=
  { cq with
    since := countUp Config.sinceLimit cq.since
    follow := if counts then cq.follow.map (fun f => { f with left := f.left - 1 }) else cq.follow }

/-- The age of an owned entry (R91). -/
def tickGroup (e : GroupEntry) : GroupEntry :=
  match e with
  | .owned o => .owned { o with age := countUp Config.ageLimit o.age }
  | .unowned => .unowned

/-- The time since send (R97). It counts on in a DEMOTED master, which is not eligible (DESIGN CHOICE, log 36). -/
def tickMaster (m : Master) : Master :=
  { m with since := countUp Config.groupRefresh m.since }

/-- R91, R94, R97; ages count in LISTEN, CATCHUP and RUN. -/
def tickMix (counts : Bool) (mr : MixResolver) : MixResolver :=
  { mr with
    groups := if counts then mapTable tickGroup mr.groups else mr.groups
    masters := mapTable tickMaster mr.masters }

/-- The assert and release timers (R104). -/
def tickTouch (t : Touch) : Touch :=
  match t with
  | .free => .free
  | .pending held => .pending (held + 1)
  | .touched => .touched
  | .hold left => .hold (left - 1)

def tickStrip (x : Strip) : Strip :=
  { x with touch := tickTouch x.touch }

/-- The debounce timer runs while the raw input stands opposite to the debounced state (R159). -/
def tickLine (l : StopLine) : StopLine :=
  { l with timer := if l.raw = l.asserted then none else some (l.timer.getD 0 + 1) }

/-- The stale timer (R178). -/
def tickStale (t : StaleTimer) : StaleTimer :=
  match t with
  | .running left => .running (left - 1)
  | .off => .off
  | .expired => .expired

/-- The mix resolver takes GROUP frames and ages its entries in these states (R91, R94). -/
def agesCount (s : State) : Bool :=
  s.sc.state == .listen || s.sc.state == .catchup || s.sc.state == .run

/-- Every timer of the part takes one microsecond more. -/
def tickTimers (s : State) : State :=
  { s with
    period := tickPeriod s.period
    bc := tickBus s.bc
    sc := tickStation s.sc
    cq := tickCues (followCounts s) s.cq
    mr := tickMix (agesCount s) s.mr
    st := { s.st with strips := mapTable tickStrip s.st.strips }
    sp := { s.sp with lineA := tickLine s.sp.lineA, lineB := tickLine s.sp.lineB }
    lp := { s.lp with stale := tickStale s.lp.stale } }

/-! ## The events that have come due -/

/-- An event that is raised when its condition holds. -/
def raised (due : Bool) (c : Instr) : List Instr :=
  if due then [c] else []

/-- A stop line whose debounce timer has run 2 ms (R159); the line of kind A comes first (DESIGN CHOICE, log 5). -/
def dueLine (k : StopKind) (l : StopLine) : List Instr :=
  raised (Config.lineDebounce ≤ l.timer.getD 0) (if l.raw then .lineAssertion k else .lineRelease k)

/-- The touch timers of a channel, and a touch input that stands asserted on a MOTOR channel taken as FREE
(R104, log 24). -/
def dueTouch (s : State) (ch : Channel) : List Instr :=
  let x := s.st.strips[ch]
  match x.touch with
  | .free => raised (x.touchInput && isMotor s ch) (.touchInputAsserted ch)
  | .pending held => raised (Config.touchAssert ≤ held) (.touchedArrival ch)
  | .touched => []
  | .hold left => raised (left == 0) (.freeArrival ch)

/-- A PRESENT peer unheard for 400 ms (R150). -/
def duePeer (s : State) (p : Peer) : List Instr :=
  let e := s.sc.peers[p]
  raised (e.presence == .present && Config.lostTime ≤ e.heard) (.peerLost p)

/-- A LIVE entry at its age limit (R94). -/
def dueAge (s : State) (g : Group) : List Instr :=
  match s.mr.groups[g] with
  | .owned e => raised (!e.stale && Config.ageLimit ≤ e.age) (.groupAgeLimit g)
  | .unowned => []

/-- A hosted master whose time since send has just reached 8 ms while dirty, or just 250 ms (R97); `before` is
the state a microsecond earlier. -/
def dueSend (before s : State) (ch : Channel) : List Instr :=
  let m := s.mr.masters[ch]
  let just := before.mr.masters[ch].since != m.since
  raised (s.sc.state == .run && (hostedGroup s ch).isSome && !m.demoted && just
    && ((m.since == Config.groupSpacing && masterDirty s ch) || m.since == Config.groupRefresh)) (.groupSendDue ch)

/-- The follow timer at 0 in RUN with no stop in force (R52). -/
def dueFollow (s : State) : List Instr :=
  raised (followCounts s && s.cq.follow.any (fun f => f.left == 0)) .followExpiry

/-- The bus (R126, R132, R137, R138): a bid point after the twentieth recessive bit time of a gap, or on an idle bus
with a frame to bid; the own frame complete when its error window has passed. -/
def dueBus (s : State) : List Instr :=
  match s.bc.phase with
  | .idle =>
    if s.bc.lineHeld then raised (Config.breakBits ≤ s.bc.run) .busBreak
    else raised (s.bc.gap == Config.bidGap || (Config.idleGap ≤ s.bc.gap && (chooseBid s).isSome)) .bidPoint
  | .receiving => []
  | .sending => raised (s.bc.sending.any (·.won) && s.bc.gap == Config.windowBits) .frameComplete
  | .broken =>
    if s.bc.drive = 0 && !s.bc.lineHeld then [.busBreakEnd]
    else raised (Config.faultBits ≤ s.bc.run) .busFault
  | .fault => raised (Config.faultBits ≤ s.bc.quiet) .busRestored

/-- The level point, which is the RUN entry when that is due, and the output point 500 µs after it (R3, R147).
No output point comes before the first level point (log 28). -/
def duePeriod (s : State) : List Instr :=
  raised (s.period.phase == 0) (if runDue s then .runEntry else .levelPoint)
    ++ raised (s.period.phase == Config.outputPhase && s.period.begun) .outputPoint

/-- Every event that has come due, in the model's order (log 5). The stale timer's expiry is taken first: the other
events may post and load the timer afresh, and it expires on reaching 0 alone (R178). -/
def dueEvents (before s : State) : List Instr :=
  raised (s.lp.stale == .running 0) .staleTimerExpiry
    ++ dueLine .a s.sp.lineA ++ dueLine .b s.sp.lineB
    ++ channels.flatMap (dueTouch s)
    ++ peerNumbers.flatMap (duePeer s)
    ++ groupNumbers.flatMap (dueAge s)
    ++ raised (s.sc.state == .listen && s.sc.listen == some 0) .listenTimerExpiry
    ++ dueFollow s
    ++ raised (s.sc.state == .run && Config.refreshTime ≤ s.sc.refresh.getD 0) .stateRefresh
    ++ channels.flatMap (dueSend before s)
    ++ dueBus s
    ++ duePeriod s

/-- One bit time: the timers count, a station that cannot bid goes on with its abandonments (log 14), and the events
that have come due join the queue. -/
def tick (s : State) : State :=
  let t := settle (tickTimers s)
  { t with pending := t.pending ++ dueEvents s t }

end Sys2Proof.Machine
end

