-- ==== Sys2Proof/Safety.lean ====
section
/-!
DEFINITION. What a safe run of the part is: the conditions on a state that the rules promise at every moment, each
under the rule that promises it. Statements about every step take them as premise and conclusion. Beside them
stands what a scan of the keys makes of a state, which the statements about KEY_SCAN share.
-/

namespace Sys2Proof.Machine

/-- Show memory is in canonical form and its loaded length is at most 65,536 (R17, R174). -/
def MemoryInOrder (s : State) : Prop :=
  Memory.wf s.sm.bytes = true ∧ s.lp.offset ≤ Config.memorySize

/-- The queues and the pool hold no more than their rules allow (R36, R47, R58, R176). -/
def QueuesBounded (s : State) : Prop :=
  s.cq.outgoing.length ≤ 4 ∧ s.cq.incoming.length ≤ 4 ∧ s.fe.pool.length ≤ 64 ∧ s.lp.queue.length ≤ 64

/-- The outgoing request queue never holds two requests of equal kind and cue (R36). -/
def RequestsDistinct (s : State) : Prop :=
  s.cq.outgoing.Pairwise (fun x y => ¬(x.kind = y.kind ∧ x.cue = y.cue))

/-- A VALID image is what validation made of the loaded bytes, and show memory is VALID exactly in LISTEN, CATCHUP
and RUN (R17, R29, R143). -/
def ImageInForce (s : State) : Prop :=
  (s.sm.image.isSome = true ↔ s.sc.state = .listen ∨ s.sc.state = .catchup ∨ s.sc.state = .run)
    ∧ ∀ image, s.sm.image = some image → validate (loadedBytes s) = .ok image

/-- An ABSENT entry of the peer table holds no flag (R148). -/
def AbsentPeersClear (s : State) : Prop :=
  ∀ p : Peer, s.sc.peers[p].presence = .absent →
    s.sc.peers[p].solo = false ∧ s.sc.peers[p].stopA = false ∧ s.sc.peers[p].stopB = false

/-- The effective stop stands at or above the derived stop (R169). -/
def StopCovered (s : State) : Prop :=
  stopRank (derivedStop s) ≤ stopRank s.sp.effective

/-- ATTN is asserted exactly under the condition of R178. -/
def AttnTrue (s : State) : Prop :=
  s.lp.attn = attnCondition s

/-- A full station's own entry of the peer table is not written (R148). -/
def OwnEntryUntouched (s : State) : Prop :=
  ∀ p : Peer, peerNumber p = s.sc.number.val → s.sc.peers[p] = PeerEntry.afterReset

/-- The station has nothing on the bus, in flight or waiting for it. -/
def Silent (s : State) : Prop :=
  s.bc.sending = none ∧ s.bc.stopFlight = none ∧ s.bc.cueFlight = none ∧ s.bc.groupFlight = none
    ∧ s.bc.stateFlight = none

/-- A follower never sends (R139, R142). -/
def FollowerSilent (s : State) : Prop :=
  s.sc.number = 0 → Silent s

/-- Outside RUN the station sends nothing and has nothing to send (R97, R131, R144, R153, R160). -/
def SilentOutsideRun (s : State) : Prop :=
  s.sc.state ≠ .run →
    Silent s ∧ s.cq.outgoing = [] ∧ s.sp.orphan = none ∧ s.sc.stateRequest = false
      ∧ ∀ k, (machineOf s k).state = .clear ∨ (machineOf s k).state = .held

/-- What a scan of the 33 keys makes of a state `s` before a GO press acts. A key changes at the third scan in succession
that reads it the other way, and a press is accepted as it goes down (R105). In RUN an accepted mute press toggles the
flag of a channel that is not UNUSED and an accepted solo press that of an AUDIO channel (R82, R83, R85, R106); a solo
press that changes station solo asks for a STATE frame and no other press does (R86), the presses of one scan acting in
channel order (log 5). -/
def KeysScanned (mute solo : BitVec 16) (go : Bool) (s t : State) : Prop :=
  let scanned (k : Key) (pressed : Bool) : Key :=
    if pressed = k.down then { down := k.down, count := 0 }
    else if k.count < 2 then { down := k.down, count := k.count + 1 }
    else { down := pressed, count := 0 }
  let accepted (k : Key) (pressed : Bool) := s.sc.state = .run ∧ k.down = false ∧ pressed = true ∧ 2 ≤ k.count
  let soloed (n : Nat) : State :=
    { t with mr := { t.mr with solo := tabulate (fun ch => if ch.val < n then t.mr.solo[ch] else s.mr.solo[ch]) } }
  t = { s with
      st := { s.st with muteKeys := t.st.muteKeys, soloKeys := t.st.soloKeys, goKey := scanned s.st.goKey go }
      mr := { s.mr with mute := t.mr.mute, solo := t.mr.solo }
      sc := { s.sc with stateRequest := t.sc.stateRequest } }
    ∧ (∀ ch : Channel,
        t.st.muteKeys[ch] = scanned s.st.muteKeys[ch] (mute.getLsbD ch.val)
          ∧ t.st.soloKeys[ch] = scanned s.st.soloKeys[ch] (solo.getLsbD ch.val)
          ∧ (accepted s.st.muteKeys[ch] (mute.getLsbD ch.val) ∧ roleOf s ch ≠ .unused →
              t.mr.mute[ch] = !s.mr.mute[ch])
          ∧ (¬(accepted s.st.muteKeys[ch] (mute.getLsbD ch.val) ∧ roleOf s ch ≠ .unused) →
              t.mr.mute[ch] = s.mr.mute[ch])
          ∧ (accepted s.st.soloKeys[ch] (solo.getLsbD ch.val) ∧ isAudio s ch = true →
              t.mr.solo[ch] = !s.mr.solo[ch])
          ∧ (¬(accepted s.st.soloKeys[ch] (solo.getLsbD ch.val) ∧ isAudio s ch = true) →
              t.mr.solo[ch] = s.mr.solo[ch]))
    ∧ (t.sc.stateRequest = true ↔
        s.sc.stateRequest = true ∨ ∃ n : Nat, stationSolo (soloed n) ≠ stationSolo (soloed (n + 1)))

/-- A motor that carries drive (R115). -/
def Motor.driven : Motor → Bool
  | .driveUp _ => true
  | .driveDown _ => true
  | .off => false
  | .brake => false
  | .rest => false
  | .stalled => false

/-- Outside RUN the mix is silent and the strip and fade engine are at rest (R4, R60, R77, R85, R107, R120). -/
def QuietOutsideRun (s : State) : Prop :=
  s.sc.state ≠ .run →
    s.fe.pool = [] ∧ s.fe.commits = [] ∧ s.cq.buffer = .empty
      ∧ ∀ ch : Channel, s.mr.applied[ch] = 0 ∧ s.mr.headroom[ch] = false ∧ s.mr.solo[ch] = false
        ∧ s.st.strips[ch].mode = .auto ∧ s.st.strips[ch].motor = .off

/-- The strips obey their fader kinds, and the hand has the channel of a touched motor (R104, R107, R114, R115,
R120). -/
def HandsHaveMotors (s : State) : Prop :=
  ∀ ch : Channel,
    (isMotor s ch = false → s.st.strips[ch].motor = .off ∧ s.st.strips[ch].touch = .free)
      ∧ (s.st.strips[ch].mode = .hand →
          (isMotor s ch = true ∨ isPlain s ch = true)
            ∧ (s.st.strips[ch].motor = .off ∨ s.st.strips[ch].motor = .stalled))
      ∧ (s.sc.state = .run → isMotor s ch = true →
          (s.st.strips[ch].touch = .touched ∨ ∃ left, s.st.strips[ch].touch = .hold left) →
          s.st.strips[ch].mode = .hand)

/-- No motor is driven while its touch is TOUCHED, and none while the station state is not RUN (R115). -/
def NoDriveAgainstHand (s : State) : Prop :=
  ∀ ch : Channel, s.st.strips[ch].motor.driven = true →
    s.sc.state = .run ∧ s.st.strips[ch].touch ≠ .touched

/-- No channel has more than one RUNNING LEVEL record (R58). -/
def OneRunningRecord (s : State) : Prop :=
  s.fe.pool.Pairwise (fun x y => ¬(x.isRunning = true ∧ y.isRunning = true ∧ x.channel = y.channel))

/-- A channel held under KEEP has no LEVEL record in the pool (R73). -/
def HeldChannelsFree (s : State) : Prop :=
  ∀ r ∈ s.fe.pool, r.isLevel = true → heldUnderKeep s r.channel = false

/-- While a LEVEL record is RUNNING, its channel's cue level is its fade level at its elapsed count, which stands
below its duration (R62, R69). -/
def LevelsOnTheirFades (s : State) : Prop :=
  ∀ r ∈ s.fe.pool, ∀ start target duration elapsed curve,
    r.state = .running start target duration elapsed curve →
      elapsed < duration ∧ s.fe.levels[r.channel] = fadeLevel start target curve elapsed duration

end Sys2Proof.Machine
end

