-- ==== Sys2Proof/WellFormed.lean ====
section
/-!
DEFINITION. Which terms of Instr are commands the outside can give. Most operands are well formed by
their type; the checks below are the ones a type does not make. exec is total: what an ill-formed
term does is said at its meaning (log 16, log 19).
-/

namespace Sys2Proof

/-- Groups of a frame whose first group is `first` (R124): two per byte, and 4, 6, 5 or 6 bytes by the class bits. -/
def frameGroupCount (first : BitVec 5) : Nat :=
  match (first.toNat / 8) with
  | 0 => 8
  | 2 => 10
  | _ => 12

/-- A received frame holds exactly the groups its class bits call for (R128). -/
def frameLengthOk (groups : List (BitVec 5)) : Bool :=
  match groups with
  | [] => false
  | g :: _ => groups.length == frameGroupCount g

/-- Bits read after a dominant run of `run` bit times hold a run of 16 (R137). -/
def holdsBreak : Nat → List Bool → Bool
  | run, [] => 16 ≤ run
  | run, bit :: rest => 16 ≤ run || holdsBreak (if bit then 0 else run + 1) rest

/-- No break came before the frame's last bit: it would have ended the frame, and the bus controller would have met
BREAK (R137). The start bit is the run's first. -/
def frameUnbroken (groups : List (BitVec 5)) : Bool :=
  !holdsBreak 1 (groupBits groups)

/-- A LOAD DATA that is taken carries as many data bytes as its length byte says (R174). -/
def loadDataOk (length : Byte) (data : List Byte) : Bool :=
  data.length == length.toNat

/-- UNKNOWN COMMAND answers a code that names no command (R171). -/
def unknownCodeOk (code : Byte) : Bool :=
  readCommand [code] == some (.unknownCommand code)

/-- The dominant run at a failed attempt (R123, R132): at a mismatch at most the start bit, four 0 data bits and the
bit read in error; in the error window at least the bit read, at most with the guard bit before it. -/
def failureRunOk (place : FailurePlace) : Bool :=
  match place with
  | .mismatch run => run ≤ 6
  | .errorWindow run => 1 ≤ run && run ≤ 2

/-- The well-formed commands. -/
def WellFormed (i : Instr) : Bool :=
  match i with
  | .frameReceived groups => frameLengthOk groups && frameUnbroken groups
  | .loadData length data => loadDataOk length data
  | .unknownCommand code => unknownCodeOk code
  | .chipSelectHigh _ => true
  | .coldReset _ => true
  | .levelPoint => true
  | .outputPoint => true
  | .gainLinkStrobe => true
  | .conversionComplete _ _ => true
  | .touchInputAsserted _ => true
  | .touchInputAbsent _ => true
  | .touchedArrival _ => true
  | .freeArrival _ => true
  | .keyScan _ _ _ => true
  | .stopLineInputChange _ _ => true
  | .lineAssertion _ => true
  | .lineRelease _ => true
  | .bidPoint => true
  | .arbitrationWon => true
  | .arbitrationLost => true
  | .arbitrationByteRead _ _ => true
  | .frameComplete => true
  | .attemptFailed place => failureRunOk place
  | .busBreak => true
  | .busBreakEnd => true
  | .busFault => true
  | .busRestored => true
  | .readStatus => true
  | .readEvents _ => true
  | .readChannel _ => true
  | .readPeer _ => true
  | .readGroup _ => true
  | .loadBegin => true
  | .loadEnd => true
  | .go => true
  | .fire _ => true
  | .standby _ => true
  | .stopRelease _ _ => true
  | .clearMotor _ => true
  | .restart => true
  | .validationEnd => true
  | .listenTimerExpiry => true
  | .catchupWalkEnd => true
  | .runEntry => true
  | .prefetchComplete => true
  | .expansionComplete => true
  | .followExpiry => true
  | .delayCountExpiry _ => true
  | .fadeComplete _ => true
  | .restEnd _ => true
  | .motorStall _ => true
  | .groupAgeLimit _ => true
  | .groupSendDue _ => true
  | .peerLost _ => true
  | .stateRefresh => true
  | .staleTimerExpiry => true
  | .startBit => true
  | .chipSelectLow => true

end Sys2Proof
end

