-- ==== Sys2Proof/Certificates/Slice0/Obligations.lean ====
section
/-!
DEFINITION. The statements for the provers. Each docstring names the rules of spec/ the statement rests on; the
conclusions give the next state as the rules do, with everything not named unchanged.
-/

section

open Sys2Proof Sys2Proof.Machine

/-! ## The queue of commands and the resets -/

/-- A step with a command in front runs that command on the state with the rest of the queue, and answers a next
state: no command faults and none is refused (log 30). The queue and its order are the model's (log 5, log 29). -/
def Obligations.StepRunsFrontCommand : Prop :=
  ∀ (c : Instr) (rest : List Instr) (s : State), s.pending = c :: rest →
    step s = exec c { s with pending := rest } ∧ ∃ t, step s = .next t

/-- With no command waiting a step is one bit time of the crystal (the model's choice, log 1, log 2, log 36; the bus counts
of one bit time: log 18): every
timer counts one microsecond, up to its limit or down to 0, each where its rule lets it count, and the events that the
new counts bring due join the queue, each exactly at its limit (a bid point that passes: log 39; a touch input found asserted: log 24; a follow at 0 after a
stop: log 35). No other command
joins it (log 25), and those due together stand in the order of log 5. A station that cannot bid goes on with its abandonments (log 14). Nothing else of
the part changes. -/
def Obligations.IdleStepPassesOneBitTime : Prop :=
  ∀ s : State, s.pending = [] →
    let up (limit n : Nat) := if n < limit then n + 1 else n
    let passes := s.bc.phase = .idle ∧ s.bc.lineHeld = false ∧ 20 ≤ s.bc.gap
    let line (l : StopLine) : StopLine :=
      { l with timer := if l.raw = l.asserted then none else some (l.timer.getD 0 + 1) }
    let ages := s.sc.state = .listen ∨ s.sc.state = .catchup ∨ s.sc.state = .run
    ∃ (bc : BusController) (u t : State), step s = .next t ∧ t = { settle u with pending := t.pending }
      ∧ u = { s with
          period := { phase := (s.period.phase + 1) % 1000
                      begun := s.period.begun || (s.period.phase + 1) % 1000 == 0 }
          bc := bc
          sc := { s.sc with
            listen := s.sc.listen.map (· - 1)
            candidate := if s.sc.state = .listen
              then s.sc.candidate.map (fun c => { c with age := up 2000000 c.age }) else s.sc.candidate
            peers := mapTable (fun p =>
              { p with heard := if p.presence = .absent then p.heard else up 65535000 p.heard }) s.sc.peers
            refresh := s.sc.refresh.map (up 100000)
            stamp := (s.sc.stamp + 1) % 65536000 }
          cq := { s.cq with
            since := up 2000000 s.cq.since
            follow := if s.sc.state = .run ∧ s.sp.effective = .none
              then s.cq.follow.map (fun f => { f with left := f.left - 1 }) else s.cq.follow }
          mr := { s.mr with
            groups := if ages then mapTable (fun e => match e with
                | .owned o => .owned { o with age := up 1000000 o.age }
                | .unowned => .unowned) s.mr.groups
              else s.mr.groups
            masters := mapTable (fun m => { m with since := up 250000 m.since }) s.mr.masters }
          st := { s.st with strips := mapTable (fun x => { x with touch := match x.touch with
            | .free => .free
            | .pending held => .pending (held + 1)
            | .touched => .touched
            | .hold left => .hold (left - 1) }) s.st.strips }
          sp := { s.sp with lineA := line s.sp.lineA, lineB := line s.sp.lineB }
          lp := { s.lp with stale := match s.lp.stale with
            | .off => .off
            | .running left => .running (left - 1)
            | .expired => .expired } }
      ∧ (s.bc.phase = .idle → s.bc.lineHeld = true → bc = { s.bc with run := up 16 s.bc.run })
      ∧ (s.bc.phase = .idle → s.bc.lineHeld = false → bc = { s.bc with
          gap := up 21 s.bc.gap, run := 0
          yieldGroup := s.bc.yieldGroup && !decide passes, yieldState := s.bc.yieldState && !decide passes })
      ∧ (s.bc.phase = .receiving → bc = s.bc)
      ∧ (∀ f, s.bc.phase = .sending → s.bc.sending = some f →
          let bits := match f.payload with
            | .stop _ _ _ => 41
            | .cue _ _ _ => 61
            | .group _ _ _ => 51
            | .state _ _ _ _ => 61
          (f.won = true → bits ≤ s.bc.sent → bc = { s.bc with gap := up 16 s.bc.gap, run := 0 })
            ∧ (f.won = false ∨ s.bc.sent < bits → bc = { s.bc with sent := up bits s.bc.sent }))
      ∧ (s.bc.phase = .broken → bc = { s.bc with drive := s.bc.drive - 1, run := up 2000 s.bc.run })
      ∧ (s.bc.phase = .fault → bc = { s.bc with
          faultTime := s.bc.faultTime + 1, quiet := if s.bc.lineHeld = true then 0 else up 2000 s.bc.quiet })
      ∧ t.pending.Sublist
          ([.staleTimerExpiry, .lineAssertion .a, .lineRelease .a, .lineAssertion .b, .lineRelease .b]
            ++ channels.flatMap (fun ch => [.touchInputAsserted ch, .touchedArrival ch, .freeArrival ch])
            ++ peerNumbers.map Instr.peerLost ++ groupNumbers.map Instr.groupAgeLimit
            ++ [.listenTimerExpiry, .followExpiry, .stateRefresh] ++ channels.map Instr.groupSendDue
            ++ [.bidPoint, .busBreak, .frameComplete, .busBreakEnd, .busFault, .busRestored, .levelPoint, .runEntry,
              .outputPoint])
      ∧ (Instr.staleTimerExpiry ∈ t.pending ↔ t.lp.stale = .running 0)
      ∧ (∀ k,
          (Instr.lineAssertion k ∈ t.pending
              ↔ (lineOf t k).raw = true ∧ ∃ n, (lineOf t k).timer = some n ∧ 2000 ≤ n)
            ∧ (Instr.lineRelease k ∈ t.pending
              ↔ (lineOf t k).raw = false ∧ ∃ n, (lineOf t k).timer = some n ∧ 2000 ≤ n))
      ∧ (∀ ch : Channel,
          (Instr.touchInputAsserted ch ∈ t.pending ↔ t.st.strips[ch].touch = .free
              ∧ t.st.strips[ch].touchInput = true ∧ isMotor t ch = true)
            ∧ (Instr.touchedArrival ch ∈ t.pending ↔ ∃ n, t.st.strips[ch].touch = .pending n ∧ 2000 ≤ n)
            ∧ (Instr.freeArrival ch ∈ t.pending ↔ t.st.strips[ch].touch = .hold 0)
            ∧ (Instr.groupSendDue ch ∈ t.pending ↔ t.sc.state = .run ∧ (∃ g, hostedGroup t ch = some g)
              ∧ t.mr.masters[ch].demoted = false ∧ t.mr.masters[ch].since ≠ s.mr.masters[ch].since
              ∧ ((t.mr.masters[ch].since = 8000
                  ∧ t.mr.masters[ch].lastSent ≠ some (sourcePosition t ch, t.mr.mute[ch]))
                ∨ t.mr.masters[ch].since = 250000)))
      ∧ (∀ p : Peer, Instr.peerLost p ∈ t.pending
          ↔ t.sc.peers[p].presence = .present ∧ 400000 ≤ t.sc.peers[p].heard)
      ∧ (∀ g : Group, Instr.groupAgeLimit g ∈ t.pending
          ↔ ∃ e, t.mr.groups[g] = .owned e ∧ e.stale = false ∧ 1000000 ≤ e.age)
      ∧ (Instr.listenTimerExpiry ∈ t.pending ↔ t.sc.state = .listen ∧ t.sc.listen = some 0)
      ∧ (Instr.followExpiry ∈ t.pending
          ↔ t.sc.state = .run ∧ t.sp.effective = .none ∧ ∃ f, t.cq.follow = some f ∧ f.left = 0)
      ∧ (Instr.stateRefresh ∈ t.pending ↔ t.sc.state = .run ∧ ∃ n, t.sc.refresh = some n ∧ 100000 ≤ n)
      ∧ (Instr.bidPoint ∈ t.pending ↔ t.bc.phase = .idle ∧ t.bc.lineHeld = false
          ∧ (t.bc.gap = 20 ∨ (21 ≤ t.bc.gap ∧ chooseBid t ≠ none)))
      ∧ (Instr.busBreak ∈ t.pending ↔ t.bc.phase = .idle ∧ t.bc.lineHeld = true ∧ 16 ≤ t.bc.run)
      ∧ (Instr.frameComplete ∈ t.pending
          ↔ t.bc.phase = .sending ∧ t.bc.gap = 16 ∧ ∃ p, t.bc.sending = some { payload := p, won := true })
      ∧ (Instr.busBreakEnd ∈ t.pending ↔ t.bc.phase = .broken ∧ t.bc.drive = 0 ∧ t.bc.lineHeld = false)
      ∧ (Instr.busFault ∈ t.pending
          ↔ t.bc.phase = .broken ∧ (t.bc.drive ≠ 0 ∨ t.bc.lineHeld = true) ∧ 2000 ≤ t.bc.run)
      ∧ (Instr.busRestored ∈ t.pending ↔ t.bc.phase = .fault ∧ 2000 ≤ t.bc.quiet)
      ∧ (Instr.levelPoint ∈ t.pending ↔ t.period.phase = 0 ∧ runDue t = false)
      ∧ (Instr.runEntry ∈ t.pending ↔ t.period.phase = 0 ∧ runDue t = true)
      ∧ (Instr.outputPoint ∈ t.pending ↔ t.period.phase = 500 ∧ t.period.begun = true)

/-- What a cold reset leaves in every block. The pins keep the levels the outside gives them (log 6), the bytes of
show memory are marked INVALID and not cleared (log 8), and the attenuators hold what the last strobe gave. The counts
that have a meaning in bus FAULT or while sending alone are 0 (log 31). -/
def Obligations.ColdResetValues : Prop :=
  ∀ (straps : Station) (s : State), exec (.coldReset straps) s = .next
    { period := { phase := 0, begun := false }
      bc := { phase := .idle, gap := 0, run := 0, lineHeld := s.bc.lineHeld, drive := 0, quiet := 0, faultTime := 0
              sending := none, sent := 0, stopFlight := none, cueFlight := none, groupFlight := none
              stateFlight := none, yieldGroup := false, yieldState := false
              copies := Vector.replicate 31 { stop := none, cue := none, group := none, state := none } }
      sc := { number := straps, txMuted := false, state := .load, listen := none, candidate := none
              peers := Vector.replicate 31
                { presence := .absent, solo := false, stopA := false, stopB := false, last := none, heard := 0 }
              stateRequest := false, refresh := none, stamp := 0, tracked := none, walkEnded := false }
      cq := { standby := none, last := none, since := 2000000, buffer := .empty, incoming := [], outgoing := []
              follow := none }
      fe := { levels := Vector.replicate 16 0, pool := [], commits := [] }
      mr := { mute := Vector.replicate 16 false, solo := Vector.replicate 16 false
              headroom := Vector.replicate 16 false, applied := Vector.replicate 16 0
              groups := Vector.replicate 32 .unowned
              masters := Vector.replicate 16 { demoted := false, lastSent := none, since := 250000 }
              lastGroup := none, link := Vector.replicate 16 0, bursting := false
              attenuators := s.mr.attenuators }
      st := { strips := mapTable (fun x =>
                { measured := 0, touchInput := x.touchInput, touch := .free, mode := .auto, hand := 0, park := 0
                  crossing := none, motor := .off, rest := 0, stall := 0 }) s.st.strips
              muteKeys := Vector.replicate 16 { down := false, count := 0 }
              soloKeys := Vector.replicate 16 { down := false, count := 0 }
              goKey := { down := false, count := 0 } }
      sp := { lineA := { raw := s.sp.lineA.raw, asserted := false, timer := none }
              lineB := { raw := s.sp.lineB.raw, asserted := false, timer := none }
              machineA := { state := .clear, ack := false }, machineB := { state := .clear, ack := false }
              orphan := none, effective := .none }
      lp := { port := .idle, offset := 0, overflowed := false, lastFault := none, queue := [], gapPending := false
              stale := .off, attn := false }
      sm := { s.sm with image := none }
      pending := s.pending }

/-- A RESTART taken in LISTEN, CATCHUP or RUN: the answer OK, the warm reset values of every block, and RESTART posted
with the state left, at timestamp 0. Kept are the period timer, the station number, show memory, the measured
positions, the event queue, the link buffer with the words of a burst in progress (with none in progress log 33), and
the pins (log 6). The counts that have a meaning in bus FAULT or while sending alone are 0 (log 31). -/
def Obligations.RestartValues : Prop :=
  ∀ s : State, s.lp.port = .reading → s.sc.state = .listen ∨ s.sc.state = .catchup ∨ s.sc.state = .run →
    ∃ t, exec .restart s = .next t
      ∧ t.period = s.period ∧ t.sm = s.sm ∧ t.pending = s.pending
      ∧ t.bc = { phase := .idle, gap := 0, run := 0, lineHeld := s.bc.lineHeld, drive := 0, quiet := 0
                 faultTime := 0, sending := none, sent := 0, stopFlight := none, cueFlight := none
                 groupFlight := none, stateFlight := none, yieldGroup := false, yieldState := false
                 copies := Vector.replicate 31 { stop := none, cue := none, group := none, state := none } }
      ∧ t.sc = { number := s.sc.number, txMuted := false, state := .listen, listen := some 600000, candidate := none
                 peers := Vector.replicate 31
                   { presence := .absent, solo := false, stopA := false, stopB := false, last := none, heard := 0 }
                 stateRequest := false, refresh := none, stamp := 0, tracked := none, walkEnded := false }
      ∧ t.cq = { standby := none, last := none, since := 2000000, buffer := .empty, incoming := [], outgoing := []
                 follow := none }
      ∧ t.fe = { levels := Vector.replicate 16 0, pool := [], commits := [] }
      ∧ t.mr = { mute := Vector.replicate 16 false, solo := Vector.replicate 16 false
                 headroom := Vector.replicate 16 false, applied := Vector.replicate 16 0
                 groups := Vector.replicate 32 .unowned
                 masters := Vector.replicate 16 { demoted := false, lastSent := none, since := 250000 }
                 lastGroup := none, link := s.mr.link, bursting := s.mr.bursting
                 attenuators := s.mr.attenuators }
      ∧ t.st = { strips := mapTable (fun x =>
                   { measured := x.measured, touchInput := x.touchInput, touch := .free, mode := .auto, hand := 0
                     park := 0, crossing := none, motor := .off, rest := 0, stall := 0 }) s.st.strips
                 muteKeys := Vector.replicate 16 { down := false, count := 0 }
                 soloKeys := Vector.replicate 16 { down := false, count := 0 }
                 goKey := { down := false, count := 0 } }
      ∧ t.sp = { lineA := { raw := s.sp.lineA.raw, asserted := false, timer := none }
                 lineB := { raw := s.sp.lineB.raw, asserted := false, timer := none }
                 machineA := { state := .clear, ack := false }, machineB := { state := .clear, ack := false }
                 orphan := none, effective := .none }
      ∧ t.lp = { s.lp with
          port := .answered .ok [] 0
          queue := appendRecord s.lp.queue
            { kind := .restart, gap := s.lp.queue.isEmpty && s.lp.gapPending, stamp := 0
              first := stateCode s.sc.state, second := 0 }
          gapPending := s.lp.gapPending && !s.lp.queue.isEmpty
          stale := if staleTime s = 0 then .off else .running (staleTime s)
          attn := t.lp.attn }
      ∧ t.lp.attn = attnCondition t


/-! ## Positions, tapers and gain (chapter 1) -/

/-- R2: the taper in its five segments, the two segments agreeing at each shared breakpoint, non-decreasing over 1 to
1023 and within -800 to +100. Position 0 has no value and is off. -/
def Obligations.TaperFollowsItsSegments : Prop :=
  (∀ p : Position, 1 ≤ p.val → p.val ≤ 128 → taper p = -800 + ((p.val : Int) - 1) * 300 / 127)
    ∧ (∀ p : Position, 128 ≤ p.val → p.val ≤ 256 → taper p = -500 + ((p.val : Int) - 128) * 200 / 128)
    ∧ (∀ p : Position, 256 ≤ p.val → p.val ≤ 512 → taper p = -300 + ((p.val : Int) - 256) * 200 / 256)
    ∧ (∀ p : Position, 512 ≤ p.val → p.val ≤ 768 → taper p = -100 + ((p.val : Int) - 512) * 100 / 256)
    ∧ (∀ p : Position, 768 ≤ p.val → taper p = 0 + ((p.val : Int) - 768) * 100 / 255)
    ∧ (∀ p q : Position, 1 ≤ p.val → p ≤ q → taper p ≤ taper q)
    ∧ (∀ p : Position, 1 ≤ p.val → -800 ≤ taper p ∧ taper p ≤ 100)
    ∧ (∀ (s : State) (ch : Channel), sourcePosition s ch = 0 → channelSum s ch = none ∧ channelCode s ch = 0)
    ∧ stopLevelCode 0 = 0

/-- R5 to R7: a source or master position of 0 gives code 0 and no sum; otherwise the sum is the channel taper plus
the tapers of the master positions, and the code follows it. The master position is the hosting channel's position
while its master is HOSTING, else the owned entry's, else 768. -/
def Obligations.CodeFollowsPositionsAndMasters : Prop :=
  ∀ (s : State) (ch : Channel),
    (s.st.strips[ch].mode = .hand → sourcePosition s ch = s.st.strips[ch].hand)
      ∧ (s.st.strips[ch].mode = .auto → sourcePosition s ch = s.fe.levels[ch])
      ∧ (sourcePosition s ch = 0 ∨ (∃ g ∈ membersOf s ch, masterPosition s g = 0) →
          channelSum s ch = none ∧ channelCode s ch = 0)
      ∧ (sourcePosition s ch ≠ 0 → (∀ g ∈ membersOf s ch, masterPosition s g ≠ 0) →
          channelSum s ch = some (taper (sourcePosition s ch)
            + ((membersOf s ch).map (fun g => taper (masterPosition s g))).sum))
      ∧ (∀ sum, channelSum s ch = some sum →
          (sum ≤ -900 → channelCode s ch = 0)
            ∧ (-900 < sum → sum ≤ 100 → ((channelCode s ch).val : Int) = sum + 900)
            ∧ (100 < sum → (channelCode s ch).val = 1000))
      ∧ (∀ g : Group,
          (∀ host, hostOf s g = some host → s.mr.masters[host].demoted = false →
            masterPosition s g = sourcePosition s host)
          ∧ ((hostOf s g = none ∨ ∃ host, hostOf s g = some host ∧ s.mr.masters[host].demoted = true) →
            (∀ e, s.mr.groups[g] = .owned e → masterPosition s g = e.position)
              ∧ (s.mr.groups[g] = .unowned → masterPosition s g = 768)))

/-- R9, R10, R86 to R88: with no stop the aim of a channel is 0 when it is muted and its resolved code when not; under
stop A or B it is 0, that same aim, or the stop level code, as the channel's action for the kind says. A channel is
muted by its own flag, by the mute of a member group's master, or by a solo in force here or at a PRESENT peer that
neither its solo flag nor solo-safe excepts; an UNOWNED group does not mute. -/
def Obligations.AimFollowsMutesAndStops : Prop :=
  ∀ (s : State) (ch : Channel) (e : ChannelEntry), entryOf s ch = some e →
    (globalSolo s = true ↔ (∃ c : Channel, s.mr.solo[c] = true)
          ∨ ∃ p : Peer, s.sc.peers[p].presence = .present ∧ s.sc.peers[p].solo = true)
      ∧ (∀ members safe, e.role = .audio members safe →
          (resolvedMute s ch = true ↔ s.mr.mute[ch] = true ∨ (∃ g ∈ members, masterMute s g = true)
            ∨ (globalSolo s = true ∧ s.mr.solo[ch] = false ∧ safe = false)))
      ∧ (∀ g : Group,
          (∀ host, hostOf s g = some host → s.mr.masters[host].demoted = false →
            masterMute s g = s.mr.mute[host])
          ∧ ((hostOf s g = none ∨ ∃ host, hostOf s g = some host ∧ s.mr.masters[host].demoted = true) →
            (∀ o, s.mr.groups[g] = .owned o → masterMute s g = o.mute)
              ∧ (s.mr.groups[g] = .unowned → masterMute s g = false)))
      ∧ (s.sp.effective = .none → aimOf s ch = if resolvedMute s ch then 0 else channelCode s ch)
      ∧ (∀ action, (s.sp.effective = .a ∧ e.stopA = action) ∨ (s.sp.effective = .b ∧ e.stopB = action) →
          (action = .mute → aimOf s ch = 0)
            ∧ (action = .hold → aimOf s ch = if resolvedMute s ch then 0 else channelCode s ch)
            ∧ (∀ p, action = .level p → aimOf s ch = stopLevelCode p))

/-- R11: the stop level code of level 0 is 0 and of any other level the taper plus 900, within 100 to 1000; it is the
aim under the action LEVEL whatever the channel's position, mode, mutes and masters, and the HEADROOM flag is set by
the sum alone, the same under a stop as without. -/
def Obligations.StopLevelCodeStandsAlone : Prop :=
  stopLevelCode 0 = 0
    ∧ (∀ p : Position, p ≠ 0 → ((stopLevelCode p).val : Int) = taper p + 900 ∧ 100 ≤ (stopLevelCode p).val)
    ∧ stopLevelCode 512 = 800 ∧ stopLevelCode 768 = 900 ∧ stopLevelCode 1 = 100
    ∧ (∀ (s : State) (ch : Channel) (e : ChannelEntry) (p : Position), entryOf s ch = some e →
        (s.sp.effective = .a → e.stopA = .level p → aimOf s ch = stopLevelCode p)
          ∧ (s.sp.effective = .b → e.stopB = .level p → aimOf s ch = stopLevelCode p)
          ∧ (s.sp.effective = .none → aimOf s ch = if resolvedMute s ch then 0 else channelCode s ch))
    ∧ (∀ (s : State) (ch : Channel) (stop : EffectiveStop),
        channelSum { s with sp := { s.sp with effective := stop } } ch = channelSum s ch)
    ∧ (∀ (s t : State) (ch : Channel), s.sc.state = .run → isAudio s ch = true → exec .outputPoint s = .next t →
        (t.mr.headroom[ch] = true ↔ ∃ sum, channelSum s ch = some sum ∧ 100 < sum))

/-- R4, R7, R8, R12, R13, R118 at an OUTPUT_POINT in RUN: the applied code of each AUDIO channel becomes its aim when
no further away than the slew step, and moves one step toward it otherwise; its HEADROOM flag is set exactly when a
sum is formed above +100; the burst captures the applied codes, 0 for the other slots. HEADROOM is posted with channel
and sum for each channel whose flag becomes set, then MOTOR STALL for each motor that stalls, each in channel order
(log 5). Beyond these the point changes motors alone. Outside RUN it starts a burst of sixteen zero words and changes
nothing else. -/
def Obligations.OutputPointMovesAppliedCodes : Prop :=
  (∀ s : State, s.sc.state = .run →
      ∃ t, exec .outputPoint s = .next t
        ∧ (∀ ch : Channel, isAudio s ch = true →
            ((s.mr.applied[ch].val ≤ (aimOf s ch).val + setting s 0 (·.slewStep)
                ∧ (aimOf s ch).val ≤ s.mr.applied[ch].val + setting s 0 (·.slewStep)) →
              t.mr.applied[ch] = aimOf s ch)
            ∧ (s.mr.applied[ch].val + setting s 0 (·.slewStep) < (aimOf s ch).val →
              t.mr.applied[ch].val = s.mr.applied[ch].val + setting s 0 (·.slewStep))
            ∧ ((aimOf s ch).val + setting s 0 (·.slewStep) < s.mr.applied[ch].val →
              t.mr.applied[ch].val + setting s 0 (·.slewStep) = s.mr.applied[ch].val)
            ∧ (t.mr.headroom[ch] = true ↔ ∃ sum, channelSum s ch = some sum ∧ 100 < sum)
            ∧ t.mr.link[ch] = t.mr.applied[ch])
        ∧ (∀ ch : Channel, isAudio s ch = false →
            t.mr.applied[ch] = s.mr.applied[ch] ∧ t.mr.headroom[ch] = s.mr.headroom[ch] ∧ t.mr.link[ch] = 0)
        ∧ t = { s with
            mr := { s.mr with
              applied := t.mr.applied, headroom := t.mr.headroom, link := t.mr.link, bursting := true }
            st := { s.st with strips := t.st.strips }
            lp := { s.lp with
              queue := t.lp.queue, gapPending := t.lp.gapPending, stale := t.lp.stale, attn := t.lp.attn } }
        ∧ t.lp = (channels.foldl (fun u ch =>
            if t.st.strips[ch].motor = .stalled ∧ s.st.strips[ch].motor ≠ .stalled
            then post .motorStall (ch.val + 1) s.st.strips[ch].measured.val u else u)
          (channels.foldl (fun u ch => match channelSum s ch with
            | some sum => if isAudio s ch = true ∧ s.mr.headroom[ch] = false ∧ 100 < sum
              then post .headroom (ch.val + 1) sum.toNat u else u
            | none => u) s)).lp)
    ∧ (∀ s : State, s.sc.state ≠ .run →
      exec .outputPoint s = .next
        { s with mr := { s.mr with link := Vector.replicate 16 0, bursting := true } })

/-- R115: the bridge of a MOTOR channel carries the duty on its up output in DRIVE UP and on its down output in DRIVE DOWN,
holds both terminals low in BRAKE, and is released in OFF, REST and STALLED; that of any other channel is as in OFF
(`bridgeOutput`, an output of the part). No bridge carries drive on both outputs.
R116 to R118 at an OUTPUT_POINT in RUN, for each channel. A motor that is no MOTOR channel's in AUTO, or is
STALLED, is left alone; one at rest with more than one point to go counts down; any other brakes within the deadband,
is driven toward the cue level, or rests for the reversal rest where the direction turns. The stall timer counts in
DRIVE and REST, and at the stall limit the motor is STALLED, its rest count 0 (log 31), with MOTOR STALL; the other
motors post nothing, and a HEADROOM of the same point is posted before (log 5). The duty lies within 2 to 255 under a
header that R18 admits. -/
def Obligations.ServoActsOnEachMotor : Prop :=
  (∀ (s : State) (ch : Channel),
      let bridge (up down : Nat) (heldLow : Bool) : Prop :=
        bridgeOutput s ch = { up := up, down := down, heldLow := heldLow }
      (isMotor s ch = false → bridge 0 0 false)
        ∧ (isMotor s ch = true →
            (∀ duty, s.st.strips[ch].motor = .driveUp duty → bridge duty 0 false)
              ∧ (∀ duty, s.st.strips[ch].motor = .driveDown duty → bridge 0 duty false)
              ∧ (s.st.strips[ch].motor = .brake → bridge 0 0 true)
              ∧ (s.st.strips[ch].motor = .off ∨ s.st.strips[ch].motor = .rest ∨ s.st.strips[ch].motor = .stalled →
                  bridge 0 0 false))
        ∧ ((bridgeOutput s ch).up = 0 ∨ (bridgeOutput s ch).down = 0))
  ∧ ∀ (s : State) (im : ShowImage), s.sc.state = .run → s.sm.image = some im →
    ∃ t, exec .outputPoint s = .next t
      ∧ ((∀ (ch : Channel) sum, isAudio s ch = true → channelSum s ch = some sum → 100 < sum →
            s.mr.headroom[ch] = true) →
          t.lp = ((channels.filter (fun ch =>
            decide (t.st.strips[ch].motor = .stalled ∧ s.st.strips[ch].motor ≠ .stalled))).foldl
              (fun u ch => post .motorStall (ch.val + 1) s.st.strips[ch].measured.val u) s).lp)
      ∧ ∀ ch : Channel,
      let x := s.st.strips[ch]
      let e : Int := (s.fe.levels[ch].val : Int) - x.measured.val
      let r := im.header.reversalRest
      let duty := min 255 (max im.header.minDuty (im.header.kp * e.natAbs))
      let busy : Motor → Nat → Strip := fun motor rest =>
        if x.stall + 1 < 10 * im.header.stallLimit then
          { x with motor := motor, rest := rest, stall := x.stall + 1 }
        else { x with motor := .stalled, rest := 0, stall := 10 * im.header.stallLimit }
      let acts : Prop := isMotor s ch = true ∧ x.mode = .auto ∧ x.motor ≠ .stalled
        ∧ (x.motor = .rest → x.rest ≤ 1)
      ((isMotor s ch = false ∨ x.mode = .hand ∨ x.motor = .stalled) → t.st.strips[ch] = x)
        ∧ (isMotor s ch = true → x.mode = .auto → x.motor = .rest → 1 < x.rest →
            t.st.strips[ch] = busy .rest (x.rest - 1))
        ∧ (acts → e.natAbs ≤ im.header.deadband →
            t.st.strips[ch] = { x with motor := .brake, rest := 0, stall := 0 })
        ∧ (acts → im.header.deadband < e.natAbs → 0 < e →
            ((∃ d, x.motor = .driveDown d) → r ≠ 0 → t.st.strips[ch] = busy .rest r)
              ∧ ((∀ d, x.motor ≠ .driveDown d) ∨ r = 0 → t.st.strips[ch] = busy (.driveUp duty) 0))
        ∧ (acts → im.header.deadband < e.natAbs → e < 0 →
            ((∃ d, x.motor = .driveUp d) → r ≠ 0 → t.st.strips[ch] = busy .rest r)
              ∧ ((∀ d, x.motor ≠ .driveUp d) ∨ r = 0 → t.st.strips[ch] = busy (.driveDown duty) 0))
        ∧ (1 ≤ im.header.kp → 1 ≤ im.header.deadband → im.header.deadband < e.natAbs → 2 ≤ duty ∧ duty ≤ 255)

/-- R14, R15: the attenuators take the sixteen words of a burst together at its strobe, and no other command changes
what they hold. A cold reset stops the burst without a strobe. The link buffer keeps its words at the strobe (log 33),
and a strobe with no burst in progress changes nothing (log 4).
R179: the burst is 256 data bits (`burstBits`, an output of the part): the words of slots 1 to 16 in order, 16 bits each,
most significant first, the first six of them 0; with no burst in progress no bit is sent. -/
def Obligations.AttenuatorsTakeTheStrobe : Prop :=
  (∀ s : State, s.mr.bursting = true →
      exec .gainLinkStrobe s = .next
        { s with mr := { s.mr with attenuators := some s.mr.link, bursting := false } })
    ∧ (∀ s : State, s.mr.bursting = false → exec .gainLinkStrobe s = .next s)
    ∧ (∀ (c : Instr) (s t : State), c ≠ .gainLinkStrobe → exec c s = .next t →
        t.mr.attenuators = s.mr.attenuators)
    ∧ (∀ (straps : Station) (s t : State), exec (.coldReset straps) s = .next t → t.mr.bursting = false)
    ∧ (∀ s : State, s.mr.bursting = true → (burstBits s).length = 256
        ∧ ∀ (ch : Channel) (i : Nat), i < 16 →
            (burstBits s)[16 * ch.val + i]? = some (s.mr.link[ch].val.testBit (15 - i))
              ∧ (i < 6 → (burstBits s)[16 * ch.val + i]? = some false))
    ∧ ∀ s : State, s.mr.bursting = false → burstBits s = []

/-- R12: an applied code changes at output points and at resets alone, and at an output point by no more than the slew
step. -/
def Obligations.AppliedCodesMoveBySlewAlone : Prop :=
  ∀ (c : Instr) (s t : State), exec c s = .next t → (∀ straps, c ≠ .coldReset straps) → c ≠ .restart →
    (c ≠ .outputPoint → t.mr.applied = s.mr.applied)
      ∧ ∀ ch : Channel,
          t.mr.applied[ch].val ≤ s.mr.applied[ch].val + setting s 0 (·.slewStep)
            ∧ s.mr.applied[ch].val ≤ t.mr.applied[ch].val + setting s 0 (·.slewStep)

/-! ## The show image (chapter 2) -/

/-- R17, R23, R174: LOAD BEGIN clears every byte, the loaded length and the overflowed mark and marks show memory
INVALID, and the station is in LOAD; LOAD END, OK in LOAD, starts validation. A LOAD DATA taken whole in LOAD stores
its bytes one per offset from the load write offset on; bytes at or above 65,536 are dropped, set the overflowed mark
and answer FULL, as does every LOAD DATA after them. Every other byte of show memory, and everything else, stays. -/
def Obligations.LoadCommandsWriteShowMemory : Prop :=
  (∀ s : State, s.lp.port = .reading → s.sc.state = .load ∨ s.sc.state = .loadFault →
      exec .loadBegin s = .next { s with
        sm := { bytes := [], image := none }
        lp := { s.lp with offset := 0, overflowed := false, port := .answered .ok [] 0 }
        sc := { s.sc with state := .load } })
    ∧ (∀ a, readByte [] a = 0)
    ∧ (∀ s : State, s.lp.port = .reading → s.sc.state = .load →
      exec .loadEnd s = .next { s with
        lp := { s.lp with port := .answered .ok [] 0 }
        sc := { s.sc with state := .validating } })
    ∧ (∀ (length : Byte) (data : List Byte) (s : State),
      s.lp.port = .reading → s.sc.state = .load → MemoryInOrder s → length ≠ 0 → data.length = length.toNat →
        (s.lp.overflowed = true →
          exec (.loadData length data) s = .next { s with lp := { s.lp with port := .answered .full [] 0 } })
        ∧ (s.lp.overflowed = false →
          ∃ t, exec (.loadData length data) s = .next t
            ∧ t = { s with
                sm := { s.sm with bytes := t.sm.bytes }
                lp := { s.lp with
                  offset := min 65536 (s.lp.offset + data.length)
                  overflowed := decide (65536 < s.lp.offset + data.length)
                  port := .answered (if 65536 < s.lp.offset + data.length then .full else .ok) [] 0 } }
            ∧ ∀ a, readByte t.sm.bytes a =
                if h : s.lp.offset ≤ a ∧ a - s.lp.offset < data.length ∧ a < 65536
                then data[a - s.lp.offset]'(h.2.1) else readByte s.sm.bytes a))

/-- R18, R29, R102, R144, R159: VALIDATION_END answers a next state. Validation that finds no fault leaves VALIDATING
for LISTEN with the image in force, a full listen timer, fresh hosted masters, the stale timer loaded and ATTN afresh;
a stop line held asserted through the load puts its CLEAR machine in HELD with the stop in force and STOP CHANGE, kind
A before kind B (log 5); the rest of the load port stands, the last load fault among it (log 34), and so does the rest
of the part. Validation that ends in a fault leaves for LOADFAULT: show memory keeps the rejected bytes and its
INVALID mark, the fault stands as the last load fault, and LOAD FAULT is posted with reason and offset. Outside
VALIDATING nothing changes (log 4). -/
def Obligations.ValidationEndTakesOrRejectsTheImage : Prop :=
  ∀ s : State, ∃ t, exec .validationEnd s = .next t
    ∧ (s.sc.state ≠ .validating → t = s)
    ∧ (s.sc.state = .validating → ∀ image, validate (loadedBytes s) = .ok image →
        let held (k : StopKind) : Bool := (lineOf s k).asserted && (machineOf s k).state == .clear
        let stale := if image.header.staleTime = 0 then StaleTimer.off
          else .running (image.header.staleTime * 1000)
        let loaded : State := { s with
          sm := { s.sm with image := some image }
          mr := { s.mr with masters := Vector.replicate 16 { demoted := false, lastSent := none, since := 250000 } }
          sc := { s.sc with state := .listen, listen := some 600000, candidate := none }
          lp := { s.lp with stale := stale } }
        let first := if held .a = true then post .stopChange 0 2 loaded else loaded
        let second := if held .b = true then post .stopChange 1 2 first else first
        t = { loaded with
            sp := { s.sp with
              machineA := { s.sp.machineA with state := if held .a = true then .held else s.sp.machineA.state }
              machineB := { s.sp.machineB with state := if held .b = true then .held else s.sp.machineB.state }
              effective := t.sp.effective }
            lp := { second.lp with attn := attnCondition t } }
          ∧ t.sp.effective = (if (held .a = true ∨ held .b = true) ∧ stopRank s.sp.effective < stopRank (derivedStop t)
              then derivedStop t else s.sp.effective)
          ∧ (held .a = false → held .b = false → t.lp = { s.lp with stale := stale, attn := attnCondition t }))
    ∧ (s.sc.state = .validating → ∀ reason offset, validate (loadedBytes s) = .error (reason, offset) →
        t = post .loadFault (loadFaultCode reason) offset { s with
          lp := { s.lp with lastFault := some (reason, offset) }
          sc := { s.sc with state := .loadFault } })

/-- R18, R19, R21 to R28, R181: validation takes the fields of the image in the order of the layout, and the first in
fault gives the reason and the offset: a field past the loaded length is SIZE at that length; each other fault stands
at its field, the places behind a member list after its repeats (log 22). After the fields come the total
of the move counts, the image CRC and the length. With no fault the image is taken. Every field of it then holds the
value that its code or number stands for at its place in the layout, and the image keeps the counts, ranges, orders and
cross-checks of the format; its last two bytes are the CRC of those before. -/
def Obligations.ValidatedImageKeepsTheFormat : Prop :=
  ∀ bytes : List Byte,
    let one (o : Nat) : Nat := (bytes.getD o 0).toNat
    let two (o : Nat) : Nat := one o * 256 + one (o + 1)
    let three (o : Nat) : Nat := two o * 256 + one (o + 2)
    let within (low high n : Nat) : Bool := low ≤ n && n ≤ high
    let field (offset width : Nat) (ok : Bool) (reason : LoadFaultReason) : Option (LoadFaultReason × Nat) :=
      if bytes.length < offset + width then some (.size, bytes.length)
      else if ok = true then none else some (reason, offset)
    let header : List (Option (LoadFaultReason × Nat)) :=
      [field 0 1 (one 0 == 1) .badVersion, field 1 1 (one 1 ≤ 200) .badValue, field 2 2 (within 1 1000 (two 2)) .badValue,
        field 4 1 (one 4 ≤ 1) .badValue, field 5 1 (one 5 ≤ 1) .badValue, field 6 1 true .badValue,
        field 7 1 (within 1 15 (one 7)) .badValue, field 8 1 (within 1 16 (one 8)) .badValue,
        field 9 1 (one 9 ≤ 200) .badValue, field 10 1 (one 10 ≤ 15) .badValue,
        field 11 2 (within 10 400 (two 11)) .badValue, field 13 1 (within 1 64 (one 13)) .badValue,
        field 14 1 true .badValue, field 15 2 (within 1 1024 (two 15)) .size, field 17 2 (two 17 ≤ 6144) .size]
    let entry (n : Nat) : List (Option (LoadFaultReason × Nat)) :=
      let o := 19 + 19 * n
      let audio := one o == 1
      let bad (place width : Nat) (ok : Bool) := field (o + place) width ok .badChannelEntry
      [bad 0 1 (one o ≤ 2), bad 1 1 (if one o = 2 then within 1 32 (one (o + 1)) else one (o + 1) == 0),
        field (o + 1) 1 (one o != 2 || (List.range n).all (fun e =>
          !(one (19 + 19 * e) == 2 && one (20 + 19 * e) == one (o + 1)))) .duplicateMaster,
        bad 2 1 (one (o + 2) ≤ 4 && (audio || one (o + 2) == 0))]
      ++ (List.range (one (o + 2))).map (fun i => bad (3 + i) 1 (within 1 32 (one (o + 3 + i))))
      ++ (List.range (one (o + 2))).map (fun i => bad (3 + i) 1
          ((List.range i).all (fun j => one (o + 3 + j) != one (o + 3 + i))))
      ++ (List.range' (one (o + 2)) (4 - one (o + 2))).map (fun i => bad (3 + i) 1 (one (o + 3 + i) == 0))
      ++ [bad 7 1 (one (o + 7) ≤ 2 && (one o != 0 || one (o + 7) == 0)),
        bad 8 1 (one (o + 8) == 0 || (one (o + 8) == 1 && one (o + 7) == 1)),
        bad 9 1 (one (o + 9) == 0 || (one (o + 9) == 1 && audio)), bad 10 2 (two (o + 10) ≤ 1023),
        bad 12 1 (one (o + 12) ≤ 1),
        bad 13 1 (one (o + 13) ≤ 2), bad 14 2 (if one (o + 13) = 2 then two (o + 14) ≤ 1023 else two (o + 14) == 0),
        bad 16 1 (one (o + 16) ≤ 2), bad 17 2 (if one (o + 16) = 2 then two (o + 17) ≤ 1023 else two (o + 17) == 0)]
    let move (o : Nat) : List (Option (LoadFaultReason × Nat)) :=
      let level := one (o + 1) < 16
      [field o 1 (within 1 16 (one o) && one (19 + 19 * (one o - 1)) != 0) .moveChannel,
        field (o + 1) 1 (one (o + 1) / 16 ≤ 2 && one (o + 1) % 16 ≤ 3 && (level || one (o + 1) % 16 == 0)) .badValue,
        field (o + 2) 2 true .badValue, field (o + 4) 2 (level || two (o + 4) == 0) .badValue,
        field (o + 6) 2 (two (o + 6) ≤ 1023 && (level || two (o + 6) == 0)) .badValue]
    let record (n : Nat) : Nat := (fun o => o + 10 + 8 * one (o + 3))^[n] 323
    let total (n : Nat) : Nat := ((List.range n).map (fun i => one (record i + 3))).sum
    let cue (n : Nat) : List (Option (LoadFaultReason × Nat)) :=
      let o := record n
      let present := one (o + 4) == 1
      [field o 3 (within 1 99999 (three o)) .badValue,
        field o 3 (n == 0 || three (record (n - 1)) < three o) .cueOrder,
        field (o + 3) 1 (one (o + 3) ≤ 64 && total n + one (o + 3) ≤ two 17) .size,
        field (o + 4) 1 (one (o + 4) ≤ 1) .badValue,
        field (o + 5) 3 (if present = true then within 1 99999 (three (o + 5)) else three (o + 5) == 0) .badValue,
        field (o + 5) 3 (!present || three (o + 5) != three o) .followTarget,
        field (o + 8) 2 (present || two (o + 8) == 0) .badValue]
      ++ (List.range (one (o + 3))).flatMap (fun j => move (o + 10 + 8 * j))
    let crcAt := record (two 15)
    let checks := header ++ (List.range 16).flatMap entry ++ (List.range (two 15)).flatMap cue
      ++ [field crcAt 0 (total (two 15) == two 17) .size,
        field crcAt 2 (two crcAt == (crc (bytes.take crcAt)).toNat) .crcMismatch,
        field (crcAt + 2) 0 (bytes.length ≤ crcAt + 2) .size]
    (∀ reason offset, validate bytes = .error (reason, offset) ↔ checks.findSome? id = some (reason, offset))
      ∧ ∀ im : ShowImage, validate bytes = .ok im →
        bytes.length = 325 + 10 * im.cues.length + 8 * (im.cues.map (fun r => r.moves.length)).sum
        ∧ numberOf (bytes.drop (bytes.length - 2)) = (crc (bytes.take (bytes.length - 2))).toNat
        ∧ im.header.repeatGuard ≤ 200 ∧ 1 ≤ im.header.slewStep ∧ im.header.slewStep ≤ 1000
        ∧ im.header.touchHold ≤ 255 ∧ 1 ≤ im.header.deadband ∧ im.header.deadband ≤ 15
        ∧ 1 ≤ im.header.kp ∧ im.header.kp ≤ 16 ∧ im.header.minDuty ≤ 200 ∧ im.header.reversalRest ≤ 15
        ∧ 10 ≤ im.header.stallLimit ∧ im.header.stallLimit ≤ 400
        ∧ 1 ≤ im.header.eventThreshold ∧ im.header.eventThreshold ≤ 64 ∧ im.header.staleTime ≤ 255
        ∧ im.cues.length = im.header.cueCount ∧ 1 ≤ im.cues.length ∧ im.cues.length ≤ 1024
        ∧ (im.cues.map (fun r => r.moves.length)).sum = im.header.moveCount ∧ im.header.moveCount ≤ 6144
        ∧ im.cues.Pairwise (fun x y => x.number < y.number)
        ∧ (∀ r ∈ im.cues, 1 ≤ r.number ∧ r.number ≤ 99999 ∧ r.moves.length ≤ 64
            ∧ (∀ f, r.follow = some f →
                1 ≤ f.target ∧ f.target ≤ 99999 ∧ f.target ≠ r.number ∧ f.delay ≤ 65535)
            ∧ (∀ m ∈ r.moves, im.channels[m.channel].role ≠ .unused ∧ m.delay ≤ 65535
                ∧ ∀ fade curve target, m.kind = .level fade curve target → fade ≤ 65535))
        ∧ (∀ ch : Channel,
            (im.channels[ch].role = .unused → im.channels[ch].fader = .absent)
              ∧ (∀ members safe, im.channels[ch].role = .audio members safe →
                  members.length ≤ 4 ∧ members.Nodup)
              ∧ ∀ (other : Channel) (g : Group), im.channels[ch].role = .master g →
                  im.channels[other].role = .master g → ch = other)
        ∧ (let mode (o : Nat) : StopMode := if one o = 0 then .latched else .follow
          im.header = {
            repeatGuard := one 1, slewStep := two 2, modeA := mode 4, modeB := mode 5, touchHold := one 6
            deadband := one 7, kp := one 8, minDuty := one 9, reversalRest := one 10, stallLimit := two 11
            eventThreshold := one 13, staleTime := one 14, cueCount := two 15, moveCount := two 17 })
        ∧ (∀ ch : Channel,
            let o := 19 + 19 * ch.val
            let e := im.channels[ch]
            let action (o : Nat) (a : StopAction) : Prop := (one o = 0 → a = .mute) ∧ (one o = 1 → a = .hold)
              ∧ (one o = 2 → ∃ p : Position, p.val = two (o + 1) ∧ a = .level p)
            (one o = 0 → e.role = .unused)
              ∧ (one o = 1 → ∃ members : List Group,
                  members.map (fun g => g.val + 1) = (List.range (one (o + 2))).map (fun i => one (o + 3 + i))
                    ∧ e.role = .audio members (one (o + 9) == 1))
              ∧ (one o = 2 → ∃ g : Group, g.val + 1 = one (o + 1) ∧ e.role = .master g)
              ∧ (one (o + 7) = 0 → e.fader = .absent)
              ∧ (one (o + 7) = 1 → e.fader = .motor (if one (o + 8) = 0 then .keep else .returns))
              ∧ (one (o + 7) = 2 → e.fader = .plain)
              ∧ e.preset.val = two (o + 10) ∧ e.presetMute = (one (o + 12) == 1)
              ∧ action (o + 13) e.stopA ∧ action (o + 16) e.stopB)
        ∧ ∀ (n : Nat) (r : CueRecord), im.cues[n]? = some r →
            let o := record n
            r.number = three o ∧ r.moves.length = one (o + 3)
              ∧ r.follow = (if one (o + 4) = 1 then some { target := three (o + 5), delay := two (o + 8) } else none)
              ∧ ∀ (j : Nat) (m : Move), r.moves[j]? = some m →
                  let o := o + 10 + 8 * j
                  let curve : Curve := match one (o + 1) % 16 with
                    | 0 => .linear
                    | 1 => .scurve
                    | 2 => .early
                    | _ => .late
                  m.channel.val + 1 = one o ∧ m.delay = two (o + 2)
                    ∧ (one (o + 1) / 16 = 0 → ∃ target : Position, target.val = two (o + 6)
                        ∧ m.kind = .level (two (o + 4)) curve target)
                    ∧ (one (o + 1) / 16 = 1 → m.kind = .muteOn) ∧ (one (o + 1) / 16 = 2 → m.kind = .muteOff)

/-- R30: the lookups over an ascending cue table: the record of n, the smallest number above n, the smallest at or
above n, and the first cue. -/
def Obligations.LookupsFindNeighbours : Prop :=
  ∀ (cues : List CueRecord) (n : CueNumber), cues.Pairwise (fun x y => x.number < y.number) →
    (∀ r, recordOf cues n = some r ↔ r ∈ cues ∧ r.number = n)
      ∧ (∀ c, nextCueAfter cues n = some c ↔
          (∃ r ∈ cues, r.number = c) ∧ n < c ∧ ∀ r ∈ cues, n < r.number → c ≤ r.number)
      ∧ (nextCueAfter cues n = none ↔ ∀ r ∈ cues, r.number ≤ n)
      ∧ (∀ c, cueAtOrAfter cues n = some c ↔
          (∃ r ∈ cues, r.number = c) ∧ n ≤ c ∧ ∀ r ∈ cues, n ≤ r.number → c ≤ r.number)
      ∧ (cueAtOrAfter cues n = none ↔ ∀ r ∈ cues, r.number < n)
      ∧ (∀ c, firstCue cues = some c ↔ (∃ r ∈ cues, r.number = c) ∧ ∀ r ∈ cues, c ≤ r.number)

/-- R32: the end of the catch-up walk leaves, for each channel, the target of the last LEVEL move and the mute of the
last MUTE move on it over the cues at or below the candidate, in cue and then record order, and its preset where there
is none. With no candidate every entry keeps its presets. Only the tracked state is written. -/
def Obligations.WalkEndTracksTheLastMoves : Prop :=
  ∀ (s : State) (im : ShowImage), s.sc.state = .catchup → s.sc.walkEnded = false → s.sm.image = some im →
    im.cues.Pairwise (fun x y => x.number < y.number) →
      ∃ tracked, exec .catchupWalkEnd s = .next
          { s with sc := { s.sc with tracked := some tracked, walkEnded := true } }
        ∧ (s.sc.candidate = none → ∀ ch : Channel,
            tracked[ch] = { level := im.channels[ch].preset, mute := im.channels[ch].presetMute })
        ∧ ∀ c, s.sc.candidate = some c → ∀ ch : Channel,
            let moves := ((im.cues.filter (fun r => r.number ≤ c.cue)).flatMap (·.moves)).filter
              (fun m => m.channel = ch)
            tracked[ch].level = (moves.filterMap (fun m => match m.kind with
                | .level _ _ target => some target
                | .muteOn => none
                | .muteOff => none)).getLast?.getD im.channels[ch].preset
              ∧ tracked[ch].mute = (moves.filterMap (fun m => match m.kind with
                | .level _ _ _ => none
                | .muteOn => some true
                | .muteOff => some false)).getLast?.getD im.channels[ch].presetMute


/-! ## Cue sequencing (chapter 3) -/

/-- R36, R38, R172: in RUN on a station that can send, GO with a standby, FIRE and STANDBY offer a request of origin
PORT: an equal request already in the queue answers OK with nothing added, a queue with room takes it and answers OK,
and a full queue answers FULL. GO and FIRE do so with no stop in force. Nothing else changes, but that a station in
bus FAULT abandons the request at once. In VALIDATING they answer BUSY and in every other state but RUN, or on a
station that cannot send, WRONG STATE; FIRE and STANDBY of a number that is no cue number BAD ARGUMENT; GO and FIRE
under a stop STOPPED; GO with no standby posts END OF LIST with the last fired cue and answers OK. -/
def Obligations.PortCueCommandsOfferRequests : Prop :=
  (∀ (command : Instr) (kind : CueKind) (c : CueNumber) (s : State),
      s.lp.port = .reading → s.sc.state = .run → cannotSend s = false → 1 ≤ c → c ≤ 99999 →
      ((∃ arg : BitVec 24, command = .fire arg ∧ arg.toNat = c ∧ kind = .fire ∧ s.sp.effective = .none)
        ∨ (∃ arg : BitVec 24, command = .standby arg ∧ arg.toNat = c ∧ kind = .standby)
        ∨ (command = .go ∧ s.cq.standby = some c ∧ kind = .fire ∧ s.sp.effective = .none)) →
        ((∃ r ∈ s.cq.outgoing, r.kind = kind ∧ r.cue = c) →
          exec command s = .next (settle { s with lp := { s.lp with port := .answered .ok [] 0 } }))
        ∧ ((∀ r ∈ s.cq.outgoing, ¬(r.kind = kind ∧ r.cue = c)) →
          (s.cq.outgoing.length < 4 →
            exec command s = .next (settle { s with
              cq := { s.cq with
                outgoing := s.cq.outgoing ++ [{ kind := kind, cue := c, origin := .port, sent := false }] }
              lp := { s.lp with port := .answered .ok [] 0 } }))
          ∧ (4 ≤ s.cq.outgoing.length →
            exec command s = .next (settle { s with lp := { s.lp with port := .answered .full [] 0 } }))))
    ∧ (∀ (command : Instr) (s : State), s.lp.port = .reading →
      (command = .go ∨ (∃ arg, command = .fire arg) ∨ (∃ arg, command = .standby arg)) →
        (s.sc.state ≠ .run ∨ cannotSend s = true →
          exec command s = .next (settle { s with lp := { s.lp with
            port := .answered (if s.sc.state = .validating then .busy else .wrongState) [] 0 } }))
        ∧ (s.sc.state = .run → cannotSend s = false →
            (∀ arg : BitVec 24, command = .fire arg ∨ command = .standby arg → arg.toNat = 0 ∨ 99999 < arg.toNat →
              exec command s = .next (settle { s with lp := { s.lp with port := .answered .badArgument [] 0 } }))
            ∧ (s.sp.effective ≠ .none →
                command = .go ∨ (∃ arg : BitVec 24, command = .fire arg ∧ 1 ≤ arg.toNat ∧ arg.toNat ≤ 99999) →
              exec command s = .next (settle { s with lp := { s.lp with port := .answered .stopped [] 0 } }))
            ∧ (s.sp.effective = .none → command = .go → s.cq.standby = none →
              exec command s = .next (settle { post .endOfList (s.cq.last.getD 0) (s.sc.number.val * 4 + 1) s with
                lp := { (post .endOfList (s.cq.last.getD 0) (s.sc.number.val * 4 + 1) s).lp with
                  port := .answered .ok [] 0 } }))))

/-- R35, R41, R42, R45, R47, R48, R51 to R53 in CATCHUP and RUN: a FIRE frame of a PRESENT peer that passes R43 and
R44. Equal WAITING requests leave the queue; the cue becomes the last fired cue with its time at 0; the standby is the
next cue after it; its follow arms the timer, 0 with 1 ms on a station that cannot send, and without one the timer is
stopped; CUE FIRED is posted. In RUN a timer armed with 0 expires, after all else of the acceptance (log 14), and offers a FIRE of its target: an equal
request adds nothing, a full queue posts REQUEST REFUSED. The entry joins the queue; in RUN a cue found PREFETCHED, or
one without moves, goes to the fade engine at once, one being prefetched or found with the buffer EMPTY or holding
another cue is expanded, and behind an expansion it waits. -/
def Obligations.FireFrameIsAccepted : Prop :=
  ∀ (groups : List (BitVec 5)) (p : Peer) (repeated : Bool) (origin : OriginKind) (c : CueNumber) (s : State),
    (readFrame groups).result = .ok (p, repeated, .cue .fire origin c) →
    (repeated = false ∨ s.bc.copies[p].get .cue ≠ some (.cue .fire origin c)) → readsFrame s = true →
    peerNumber p ≠ s.sc.number.val → s.sc.peers[p].presence = .present →
    s.sc.state = .catchup ∨ s.sc.state = .run → s.sp.effective = .none → s.cq.incoming.length < 4 →
    (s.cq.last ≠ some c ∨ guardWindow s ≤ s.cq.since) →
      let follow : Option FollowTimer := ((recordOf (cueTable s) c).bind (·.follow)).map (fun f =>
        { target := f.target, left := if cannotSend s = true ∧ f.delay = 0 then 1000 else f.delay * 10000 })
      let waiting := s.cq.outgoing.filter (fun r => !(r.kind == .fire && r.cue == c && !r.sent))
      let fired := post .cueFired c (peerNumber p * 4 + originCode origin) s
      let now := s.sc.state = .run ∧ ∃ f, follow = some f ∧ f.left = 0
      let standby (buffer : StandbyBuffer) : Prop :=
        (nextCueAfter (cueTable s) c = none → buffer = .empty)
          ∧ ∀ n, nextCueAfter (cueTable s) c = some n →
              buffer = if movesOf (cueTable s) n = [] then .prefetched n [] else .prefetching n
      ∃ t, exec (.frameReceived groups) s = .next (settle t)
        ∧ t.cq.last = some c ∧ t.cq.since = 0 ∧ t.cq.standby = nextCueAfter (cueTable s) c
        ∧ (¬now → t.cq.follow = follow ∧ t.cq.outgoing = waiting ∧ t.lp = fired.lp)
        ∧ (∀ f, now → follow = some f → t.cq.follow = none
            ∧ ((∃ r ∈ waiting, r.kind = .fire ∧ r.cue = f.target) → t.cq.outgoing = waiting ∧ t.lp = fired.lp)
            ∧ ((∀ r ∈ waiting, ¬(r.kind = .fire ∧ r.cue = f.target)) →
              (waiting.length < 4 →
                t.cq.outgoing = waiting ++ [{ kind := .fire, cue := f.target, origin := .follow, sent := false }]
                  ∧ t.lp = fired.lp)
              ∧ (4 ≤ waiting.length → t.cq.outgoing = waiting
                  ∧ t.lp = (post .requestRefused f.target (s.sc.number.val * 4 + 2) fired).lp)))
        ∧ t.sc = { s.sc with peers := put s.sc.peers p { s.sc.peers[p] with heard := 0 } }
        ∧ t.bc = { s.bc with
            phase := .idle, gap := 0, run := lastRun groups, lineHeld := false
            copies := put s.bc.copies p { s.bc.copies[p] with cue := some (.cue .fire origin c) } }
        ∧ t.fe.levels = s.fe.levels ∧ t.fe.pool = s.fe.pool ∧ t.mr = s.mr ∧ t.st = s.st ∧ t.sp = s.sp
        ∧ t.sm = s.sm ∧ t.period = s.period ∧ t.pending = s.pending
        ∧ (s.sc.state = .catchup → s.cq.buffer = .empty →
            t.cq.incoming = s.cq.incoming ++ [{ cue := c, expanding := false }] ∧ t.cq.buffer = .empty
              ∧ t.fe = s.fe)
        ∧ (s.sc.state = .run → ∀ b, s.cq.buffer = .expanding b →
            t.cq.incoming = s.cq.incoming ++ [{ cue := c, expanding := false }] ∧ t.cq.buffer = .expanding b
              ∧ t.fe = s.fe)
        ∧ (s.sc.state = .run → s.cq.incoming = [] → ∀ moves, s.cq.buffer = .prefetched c moves →
            t.cq.incoming = [] ∧ t.fe.commits = s.fe.commits ++ [{ cue := c, moves := moves }]
              ∧ standby t.cq.buffer)
        ∧ (s.sc.state = .run → s.cq.incoming = [] → movesOf (cueTable s) c = [] →
            (s.cq.buffer = .empty
              ∨ ∃ b, b ≠ c ∧ (s.cq.buffer = .prefetching b ∨ ∃ moves, s.cq.buffer = .prefetched b moves)) →
            t.cq.incoming = [] ∧ t.fe.commits = s.fe.commits ++ [{ cue := c, moves := [] }]
              ∧ standby t.cq.buffer)
        ∧ (s.sc.state = .run → s.cq.incoming = [] → movesOf (cueTable s) c ≠ [] →
            (s.cq.buffer = .empty ∨ s.cq.buffer = .prefetching c
              ∨ ∃ b, b ≠ c ∧ (s.cq.buffer = .prefetching b ∨ ∃ moves, s.cq.buffer = .prefetched b moves)) →
            t.cq.incoming = [{ cue := c, expanding := true }] ∧ t.cq.buffer = .expanding c ∧ t.fe = s.fe)

/-- R41 to R44, R145: a FIRE frame of a PRESENT peer that is not accepted. A repeat of the last fired cue within the
guard posts CUE ABSORBED; else under a stop GO REFUSED; else with the incoming queue full GO QUEUE FULL. In LISTEN the
cue becomes the candidate; in LOAD, VALIDATING and LOADFAULT nothing is done. Apart from withdrawn WAITING requests,
the sender's presence and copy record, and the gap that begins, nothing else changes. -/
def Obligations.FireFrameNotAccepted : Prop :=
  ∀ (groups : List (BitVec 5)) (p : Peer) (repeated : Bool) (origin : OriginKind) (c : CueNumber) (s : State),
    (readFrame groups).result = .ok (p, repeated, .cue .fire origin c) →
    (repeated = false ∨ s.bc.copies[p].get .cue ≠ some (.cue .fire origin c)) → readsFrame s = true →
    peerNumber p ≠ s.sc.number.val → s.sc.peers[p].presence = .present →
      ∃ heard : State, heard = { s with
          bc := { s.bc with
            phase := .idle, gap := 0, run := lastRun groups, lineHeld := false
            copies := put s.bc.copies p { s.bc.copies[p] with cue := some (.cue .fire origin c) } }
          sc := { s.sc with peers := put s.sc.peers p { s.sc.peers[p] with heard := 0 } }
          cq := { s.cq with
            outgoing := s.cq.outgoing.filter (fun r => !(r.kind == .fire && r.cue == c && !r.sent)) } }
        ∧ (s.sc.state = .catchup ∨ s.sc.state = .run →
            (s.cq.last = some c → s.cq.since < guardWindow s →
              exec (.frameReceived groups) s
                = .next (settle (post .cueAbsorbed c (peerNumber p * 4 + originCode origin) heard)))
            ∧ (s.cq.last ≠ some c ∨ guardWindow s ≤ s.cq.since → s.sp.effective ≠ .none →
              exec (.frameReceived groups) s
                = .next (settle (post .goRefused c (peerNumber p * 4 + originCode origin) heard)))
            ∧ (s.cq.last ≠ some c ∨ guardWindow s ≤ s.cq.since → s.sp.effective = .none →
                4 ≤ s.cq.incoming.length →
              exec (.frameReceived groups) s
                = .next (settle (post .goQueueFull c (peerNumber p * 4 + originCode origin) heard))))
        ∧ (s.sc.state = .listen →
            exec (.frameReceived groups) s = .next (settle { heard with
              sc := { heard.sc with candidate := some { cue := c, source := .fire, age := 0 } } }))
        ∧ (s.sc.state = .load ∨ s.sc.state = .validating ∨ s.sc.state = .loadFault →
            exec (.frameReceived groups) s = .next (settle heard))

/-- R35, R41, R46: a STANDBY frame of a PRESENT peer in CATCHUP or RUN sets the standby to the cue at or after its
number and withdraws equal WAITING requests; a prefetch is discarded, and in RUN with nothing to expand a prefetch of
the new standby begins. No event is posted and nothing is fired. A follower or TX-muted station does the same. -/
def Obligations.StandbyFrameSetsTheStandby : Prop :=
  ∀ (groups : List (BitVec 5)) (p : Peer) (repeated : Bool) (origin : OriginKind) (c : CueNumber) (s : State),
    (readFrame groups).result = .ok (p, repeated, .cue .standby origin c) →
    (repeated = false ∨ s.bc.copies[p].get .cue ≠ some (.cue .standby origin c)) → readsFrame s = true →
    peerNumber p ≠ s.sc.number.val → s.sc.peers[p].presence = .present →
    s.sc.state = .catchup ∨ s.sc.state = .run →
    ((∃ b, s.cq.buffer = .expanding b) ∨ s.cq.incoming = [] ∨ s.sc.state = .catchup) →
      ∃ buffer, exec (.frameReceived groups) s = .next (settle { s with
          bc := { s.bc with
            phase := .idle, gap := 0, run := lastRun groups, lineHeld := false
            copies := put s.bc.copies p { s.bc.copies[p] with cue := some (.cue .standby origin c) } }
          sc := { s.sc with peers := put s.sc.peers p { s.sc.peers[p] with heard := 0 } }
          cq := { s.cq with
            standby := cueAtOrAfter (cueTable s) c
            buffer := buffer
            outgoing := s.cq.outgoing.filter (fun r => !(r.kind == .standby && r.cue == c && !r.sent)) } })
        ∧ (∀ b, s.cq.buffer = .expanding b → buffer = .expanding b)
        ∧ ((∀ b, s.cq.buffer ≠ .expanding b) → s.sc.state = .catchup → buffer = .empty)
        ∧ ((∀ b, s.cq.buffer ≠ .expanding b) → s.sc.state = .run →
            (cueAtOrAfter (cueTable s) c = none → buffer = .empty)
            ∧ ∀ n, cueAtOrAfter (cueTable s) c = some n →
                buffer = if movesOf (cueTable s) n = [] then .prefetched n [] else .prefetching n)

/-- R34, R48, R49: PREFETCH_COMPLETE leaves the standby's moves PREFETCHED. EXPANSION_COMPLETE in RUN hands the head
entry and its moves to the fade engine's commit list; the entries without moves that stand behind it are handed on at
once; then the next entry with moves is expanded, and with the queue empty the standby is prefetched. Nothing else
changes. -/
def Obligations.ExpanderHandsTheHeadOn : Prop :=
  (∀ (s : State) (c : CueNumber), s.cq.buffer = .prefetching c →
      exec .prefetchComplete s = .next
        { s with cq := { s.cq with buffer := .prefetched c (movesOf (cueTable s) c) } })
    ∧ ∀ (s : State) (c : CueNumber) (head : GoEntry) (empties rest : List GoEntry),
      s.sc.state = .run → s.cq.buffer = .expanding c → s.cq.incoming = head :: (empties ++ rest) →
      (∀ e ∈ empties, movesOf (cueTable s) e.cue = []) →
        let commits := s.fe.commits ++ { cue := c, moves := movesOf (cueTable s) c }
          :: empties.map (fun e => { cue := e.cue, moves := [] })
        (∀ e tail, rest = e :: tail → movesOf (cueTable s) e.cue ≠ [] →
          exec .expansionComplete s = .next { s with
            cq := { s.cq with incoming := { e with expanding := true } :: tail, buffer := .expanding e.cue }
            fe := { s.fe with commits := commits } })
        ∧ (rest = [] → ∃ buffer, exec .expansionComplete s = .next { s with
              cq := { s.cq with incoming := [], buffer := buffer }
              fe := { s.fe with commits := commits } }
            ∧ (s.cq.standby = none → buffer = .empty)
            ∧ ∀ n, s.cq.standby = some n →
                buffer = if movesOf (cueTable s) n = [] then .prefetched n [] else .prefetching n)

/-- R52, R53: FOLLOW_EXPIRY in RUN with no stop disarms the timer. A station that can send offers a FIRE of the target
with origin FOLLOW: an equal request adds nothing, a full queue posts REQUEST REFUSED. A follower or TX-muted station
takes the FIRE as received from its own number. Under a stop, or outside RUN, the timer does not expire (log 4). -/
def Obligations.FollowExpiryFiresTheTarget : Prop :=
  ∀ (s : State) (f : FollowTimer), s.cq.follow = some f →
    (s.sc.state ≠ .run ∨ s.sp.effective ≠ .none → exec .followExpiry s = .next (settle s))
      ∧ (s.sc.state = .run → s.sp.effective = .none → cannotSend s = false →
          ((∃ r ∈ s.cq.outgoing, r.kind = .fire ∧ r.cue = f.target) →
            exec .followExpiry s = .next (settle { s with cq := { s.cq with follow := none } }))
          ∧ ((∀ r ∈ s.cq.outgoing, ¬(r.kind = .fire ∧ r.cue = f.target)) →
            (s.cq.outgoing.length < 4 →
              exec .followExpiry s = .next (settle { s with cq := { s.cq with
                follow := none
                outgoing := s.cq.outgoing
                  ++ [{ kind := .fire, cue := f.target, origin := .follow, sent := false }] } }))
            ∧ (4 ≤ s.cq.outgoing.length →
              exec .followExpiry s = .next (settle (post .requestRefused f.target (s.sc.number.val * 4 + 2)
                { s with cq := { s.cq with follow := none } })))))
      ∧ (s.sc.state = .run → s.sp.effective = .none → cannotSend s = true →
          exec .followExpiry s = .next (settle (takeFire f.target s.sc.number.val .follow
            { s with cq := { s.cq with follow := none } })))


/-! ## The fade engine (chapter 4) -/

/-- R68: the fade fraction of each curve, within 0 to 4096, 0 at the start, 4096 at the end, not decreasing; a record
of duration 0 sets its target at its start and never reaches it. -/
def Obligations.FadeFractionOfEachCurve : Prop :=
  (∀ e d : Nat, 1 ≤ d → e ≤ d → progress e d = 4096 * e / d ∧ progress e d ≤ 4096)
    ∧ (∀ e d : Nat, 1 ≤ d → e ≤ d →
        fadeFraction .linear e d = progress e d
          ∧ fadeFraction .scurve e d = progress e d * progress e d * (12288 - 2 * progress e d) / 16777216
          ∧ fadeFraction .early e d = 4096 - (4096 - progress e d) * (4096 - progress e d) / 4096
          ∧ fadeFraction .late e d = progress e d * progress e d / 4096)
    ∧ (∀ (curve : Curve) (d : Nat), 1 ≤ d →
        fadeFraction curve 0 d = 0 ∧ fadeFraction curve d d = 4096
          ∧ ∀ e e' : Nat, e ≤ e' → e' ≤ d →
              fadeFraction curve e d ≤ fadeFraction curve e' d ∧ fadeFraction curve e' d ≤ 4096)
    ∧ (∀ (s : State) (before after : List PoolRecord) (r : PoolRecord) (k : Nat) (target : Position) (curve : Curve),
        r.state = .waitingLevel k target 0 curve →
          (startWaiting before r after s).fe.levels = put s.fe.levels r.channel target
            ∧ ∀ x ∈ (startWaiting before r after s).fe.pool, x.channel = r.channel → x.isRunning = false)

/-- R69: the fade level is the start at e = 0, the target at e = d, lies between them, and moves toward the target and
never away from it; the quotient is truncated toward zero. -/
def Obligations.FadeLevelRunsFromStartToTarget : Prop :=
  ∀ (start target : Position) (curve : Curve) (d : Nat), 1 ≤ d →
    fadeLevel start target curve 0 d = start ∧ fadeLevel start target curve d d = target
      ∧ (∀ e : Nat, e ≤ d →
          (start ≤ target →
            (fadeLevel start target curve e d).val
              = start.val + (target.val - start.val) * fadeFraction curve e d / 4096)
          ∧ (target ≤ start →
            (fadeLevel start target curve e d).val
              = start.val - (start.val - target.val) * fadeFraction curve e d / 4096))
      ∧ ∀ e e' : Nat, e ≤ e' → e' ≤ d →
          (start ≤ target → start ≤ fadeLevel start target curve e d
            ∧ fadeLevel start target curve e d ≤ fadeLevel start target curve e' d
            ∧ fadeLevel start target curve e' d ≤ target)
          ∧ (target ≤ start → fadeLevel start target curve e d ≤ start
            ∧ fadeLevel start target curve e' d ≤ fadeLevel start target curve e d
            ∧ target ≤ fadeLevel start target curve e' d)

/-- R61 to R63, R70 at a LEVEL_POINT in RUN with no stop, nothing to commit and no WAITING record that comes due:
every RUNNING record takes one more level point and writes its fade level, at its last one the target, and leaves the
pool; every delay count falls by 1. No other level and nothing else changes. -/
def Obligations.LevelPointAdvancesAndCountsDown : Prop :=
  ∀ s : State, s.sc.state = .run → s.sp.effective = .none → s.fe.commits = [] → OneRunningRecord s →
    (∀ r ∈ s.fe.pool,
      (∀ k target d curve, r.state = .waitingLevel k target d curve → 2 ≤ k)
        ∧ (∀ k on, r.state = .waitingMute k on → 2 ≤ k)
        ∧ ∀ start target d e curve, r.state = .running start target d e curve → e < d) →
      ∃ t, exec .levelPoint s = .next (settle t)
        ∧ t = { s with fe := { levels := t.fe.levels, pool := t.fe.pool, commits := [] } }
        ∧ (∀ r ∈ s.fe.pool, ∀ start target d e curve, r.state = .running start target d e curve →
            t.fe.levels[r.channel] = fadeLevel start target curve (e + 1) d
              ∧ (e + 1 = d → t.fe.levels[r.channel] = target))
        ∧ (∀ ch : Channel, (∀ r ∈ s.fe.pool, r.channel = ch → r.isRunning = false) →
            t.fe.levels[ch] = s.fe.levels[ch])
        ∧ t.fe.pool = s.fe.pool.filterMap (fun r => match r.state with
            | .running start target d e curve =>
              if e + 1 = d then none else some { r with state := .running start target d (e + 1) curve }
            | .waitingLevel k target d curve => some { r with state := .waitingLevel (k - 1) target d curve }
            | .waitingMute k on => some { r with state := .waitingMute (k - 1) on })

/-- R63, R65, R66, R70, R76, R113: DELAY_COUNT_EXPIRY starts a WAITING record. A MUTE record leaves the pool and sets
or clears the flag. A LEVEL record takes over the RUNNING record of its channel; with a duration it runs in its place
from the level as it stands, without one it leaves and sets the target; on a PLAIN channel the park value is taken and
HAND ends. FADE_COMPLETE leaves a RUNNING record's target and removes it. R61 to R63, R67: at a LEVEL_POINT every
RUNNING record advances, then every WAITING record counts down, and then those at 0 start so, one after another, each
time the first in pool order; with nothing to commit, that is the point. Where one WAITING record alone comes due, with
no fade running and nothing to commit, the point is that start (log 10, log 21). -/
def Obligations.DueRecordStartsAndFadeEnds : Prop :=
  (∀ s : State,
    let started (u : State) (before after : List PoolRecord) (r : PoolRecord) : State :=
      let x := u.st.strips[r.channel]
      let noticed := if isPlain u r.channel = true
        then put u.st.strips r.channel { x with
          mode := .auto, park := x.measured, crossing := if x.mode = .hand then none else x.crossing }
        else u.st.strips
      let others (pool : List PoolRecord) := pool.filter (fun y => !(y.isRunning && y.channel == r.channel))
      match r.state with
      | .waitingMute _ on => { u with
          fe := { u.fe with pool := before ++ after }, mr := { u.mr with mute := put u.mr.mute r.channel on } }
      | .waitingLevel _ target 0 _ => { u with
          fe := { u.fe with pool := others before ++ others after, levels := put u.fe.levels r.channel target }
          st := { u.st with strips := noticed } }
      | .waitingLevel _ target d curve => { u with
          fe := { u.fe with pool := others before
            ++ { r with state := .running u.fe.levels[r.channel] target d 0 curve } :: others after }
          st := { u.st with strips := noticed } }
      | .running _ _ _ _ _ => u
    let due (r : PoolRecord) : Prop :=
      (∃ target d curve, r.state = .waitingLevel 0 target d curve) ∨ ∃ on, r.state = .waitingMute 0 on
    let counted : State := { s with fe := { s.fe with
      levels := s.fe.pool.foldl (fun levels r => match r.state with
        | .running start target d e curve => put levels r.channel (fadeLevel start target curve (e + 1) d)
        | .waitingLevel _ _ _ _ => levels
        | .waitingMute _ _ => levels) s.fe.levels
      pool := s.fe.pool.filterMap (fun r => match r.state with
        | .running start target d e curve =>
          if e + 1 < d then some { r with state := .running start target d (e + 1) curve } else none
        | .waitingLevel k target d curve => some { r with state := .waitingLevel (k - 1) target d curve }
        | .waitingMute k on => some { r with state := .waitingMute (k - 1) on }) } }
    ∃ (n : Nat) (u : Nat → State), u 0 = counted ∧ countDown (advance s) = u n
      ∧ (∀ i, i < n → ∃ before r after, (u i).fe.pool = before ++ r :: after ∧ due r ∧ (∀ y ∈ before, ¬due y)
          ∧ u (i + 1) = started (u i) before after r)
      ∧ (∀ y ∈ (u n).fe.pool, ¬due y)
      ∧ (s.sc.state = .run → s.sp.effective = .none → s.fe.commits = [] →
          exec .levelPoint s = .next (settle (u n))))
  ∧ ∀ (s : State) (slot : Fin 64) (before after : List PoolRecord) (r : PoolRecord),
    s.sc.state = .run → s.sp.effective = .none → s.fe.pool = before ++ r :: after → before.length = slot.val →
      let x := s.st.strips[r.channel]
      let noticed := if isPlain s r.channel = true
        then put s.st.strips r.channel { x with
          mode := .auto, park := x.measured, crossing := if x.mode = .hand then none else x.crossing }
        else s.st.strips
      let others (pool : List PoolRecord) := pool.filter (fun y => !(y.isRunning && y.channel == r.channel))
      (∀ k on, r.state = .waitingMute k on →
        exec (.delayCountExpiry slot) s = .next (settle { s with
          fe := { s.fe with pool := before ++ after }
          mr := { s.mr with mute := put s.mr.mute r.channel on } }))
      ∧ (∀ k target d curve, r.state = .waitingLevel k target d curve → 0 < d →
        exec (.delayCountExpiry slot) s = .next (settle { s with
          fe := { s.fe with pool := others before
            ++ { r with state := .running s.fe.levels[r.channel] target d 0 curve } :: others after }
          st := { s.st with strips := noticed } }))
      ∧ (∀ k target curve, r.state = .waitingLevel k target 0 curve →
        exec (.delayCountExpiry slot) s = .next (settle { s with
          fe := { s.fe with
            pool := others before ++ others after, levels := put s.fe.levels r.channel target }
          st := { s.st with strips := noticed } }))
      ∧ (∀ start target d e curve, r.state = .running start target d e curve →
        exec (.fadeComplete slot) s = .next (settle { s with
          fe := { s.fe with pool := before ++ after, levels := put s.fe.levels r.channel target } }))
      ∧ (s.fe.commits = [] → r.isDue = false → (countRecord r).isDue = true →
          (∀ y ∈ before ++ after, y.isRunning = false ∧ y.isDue = false ∧ (countRecord y).isDue = false) →
        exec .levelPoint s
          = exec (.delayCountExpiry slot) { s with fe := { s.fe with pool := s.fe.pool.map countRecord } })

/-- R59, R61, R64 to R66, R71, R73 at a LEVEL_POINT in RUN with no stop: after the first two steps the commit list is
emptied, its moves disposed of entry by entry, oldest first, and in record order. Each move: a LEVEL move for a
channel held under KEEP is discarded with MOVE HELD OFF; a delayed one waits at the end of the pool; an undelayed one
acts, an undelayed fade as a RUNNING record at the end of the pool; one that finds no record free is snapped with POOL
FULL. A delayed move of fade time 0 waits with duration 0 (log 10). -/
def Obligations.LevelPointCommitsMovesInOrder : Prop :=
  (∀ s : State, s.sc.state = .run → s.sp.effective = .none →
      exec .levelPoint s = .next (settle
        ((s.fe.commits.flatMap (fun e => e.moves.map (fun m => (e.cue, m)))).foldl
          (fun u cueMove => commitMove cueMove.1 u cueMove.2)
          { countDown (advance s) with fe := { (countDown (advance s)).fe with commits := [] } })))
    ∧ ∀ (origin : CueNumber) (s : State) (m : Move),
      let x := s.st.strips[m.channel]
      let held := isKeep s m.channel = true ∧ x.mode = .hand
      let noticed := if isPlain s m.channel = true
        then put s.st.strips m.channel { x with
          mode := .auto, park := x.measured, crossing := if x.mode = .hand then none else x.crossing }
        else s.st.strips
      let others := s.fe.pool.filter (fun y => !(y.isRunning && y.channel == m.channel))
      let place (state : RecordState) : PoolRecord := { channel := m.channel, origin := origin, state := state }
      (∀ on, m.kind = (if on = true then .muteOn else .muteOff) →
        (m.delay = 0 → commitMove origin s m = { s with mr := { s.mr with mute := put s.mr.mute m.channel on } })
        ∧ (0 < m.delay → s.fe.pool.length < 64 → commitMove origin s m
            = { s with fe := { s.fe with pool := s.fe.pool ++ [place (.waitingMute (10 * m.delay) on)] } })
        ∧ (0 < m.delay → 64 ≤ s.fe.pool.length → commitMove origin s m
            = post .poolFull origin (m.channel.val + 1)
                { s with mr := { s.mr with mute := put s.mr.mute m.channel on } }))
      ∧ (∀ fade curve target, m.kind = .level fade curve target →
        (held → commitMove origin s m = post .moveHeldOff origin (m.channel.val + 1) s)
        ∧ (¬held → 0 < m.delay → s.fe.pool.length < 64 → commitMove origin s m
            = { s with fe := { s.fe with
                pool := s.fe.pool ++ [place (.waitingLevel (10 * m.delay) target (10 * fade) curve)] } })
        ∧ (¬held → m.delay = 0 → fade = 0 → commitMove origin s m
            = { s with
                fe := { s.fe with pool := others, levels := put s.fe.levels m.channel target }
                st := { s.st with strips := noticed } })
        ∧ (¬held → m.delay = 0 → 0 < fade → others.length < 64 → commitMove origin s m
            = { s with
                fe := { s.fe with
                  pool := others ++ [place (.running s.fe.levels[m.channel] target (10 * fade) 0 curve)] }
                st := { s.st with strips := noticed } })
        ∧ (¬held → (0 < m.delay ∧ 64 ≤ s.fe.pool.length) ∨ (m.delay = 0 ∧ 0 < fade ∧ 64 ≤ others.length) →
            commitMove origin s m
              = post .poolFull origin (m.channel.val + 1) { s with
                  fe := { s.fe with pool := others, levels := put s.fe.levels m.channel target }
                  st := { s.st with strips := noticed } }))

/-- R61, R77, R78, R168, R169: the derived stop is A while a machine A is HELD or RELEASING or an entry that is not ABSENT
has its stop A flag, else B by the same test, else NONE. A downward change of the effective stop takes effect at a
LEVEL_POINT. With a stop then still in force, or outside RUN and not due to enter it, the fade engine does nothing:
pool, levels and commit list stand, and nothing else changes. At the LEVEL_POINT of RUN at which no stop is derived
any more, the effective stop falls to NONE and the fade engine works again, all as if no stop had stood before it. -/
def Obligations.LevelPointInAStopLowersItAlone : Prop :=
  ∀ s : State,
    let forced (k : StopKind) : Prop := (machineOf s k).state = .held ∨ (machineOf s k).state = .releasing
      ∨ ∃ p : Peer, s.sc.peers[p].presence ≠ .absent
          ∧ (if k = .a then s.sc.peers[p].stopA = true else s.sc.peers[p].stopB = true)
    let stop := if stopRank (derivedStop s) < stopRank s.sp.effective then derivedStop s else s.sp.effective
    (derivedStop s = .a ↔ forced .a) ∧ (derivedStop s = .b ↔ ¬forced .a ∧ forced .b)
      ∧ ((s.sc.state = .run ∧ stop ≠ .none)
          ∨ (s.sc.state ≠ .run ∧ (s.sc.state ≠ .catchup ∨ s.sc.walkEnded = false)) →
        exec .levelPoint s = .next (settle { s with sp := { s.sp with effective := stop } }))
      ∧ (s.sc.state = .run → derivedStop s = .none →
        exec .levelPoint s = exec .levelPoint { s with sp := { s.sp with effective := .none } })


/-! ## Groups and masters (chapter 5) -/

/-- R91 to R93: a GROUP frame of a PRESENT peer. It is ignored in LOAD, VALIDATING and LOADFAULT. Where the group's
master is HOSTING here, a lower station demotes it, takes the entry and posts GROUP CONFLICT, and a higher one is
ignored. Elsewhere the entry takes the frame when it is UNOWNED, its owner is not PRESENT, or the sender is not higher
than the owner, and otherwise stands. Nothing else changes but presence, copy record and the gap that begins. -/
def Obligations.GroupFrameTakesTheEntry : Prop :=
  ∀ (groups : List (BitVec 5)) (p : Peer) (repeated : Bool) (g : Group) (mute : Bool) (position : Position) (s : State),
    (readFrame groups).result = .ok (p, repeated, .group g mute position) →
    (repeated = false ∨ s.bc.copies[p].get .group ≠ some (.group g mute position)) → readsFrame s = true →
    peerNumber p ≠ s.sc.number.val → s.sc.peers[p].presence = .present →
      let heard : State := { s with
        bc := { s.bc with
          phase := .idle, gap := 0, run := lastRun groups, lineHeld := false
          copies := put s.bc.copies p { s.bc.copies[p] with group := some (.group g mute position) } }
        sc := { s.sc with peers := put s.sc.peers p { s.sc.peers[p] with heard := 0 } } }
      let live : GroupEntry :=
        .owned { stale := false, owner := p, position := position, mute := mute, age := 0 }
      (s.sc.state = .load ∨ s.sc.state = .validating ∨ s.sc.state = .loadFault →
        exec (.frameReceived groups) s = .next (settle heard))
      ∧ (s.sc.state = .listen ∨ s.sc.state = .catchup ∨ s.sc.state = .run →
        (∀ ch, hostOf s g = some ch → s.mr.masters[ch].demoted = false →
          (peerNumber p < s.sc.number.val → exec (.frameReceived groups) s = .next (settle
            (post .groupConflict (g.val + 1) (p.val + 1) { heard with mr := { s.mr with
              masters := put s.mr.masters ch { s.mr.masters[ch] with demoted := true }
              groups := put s.mr.groups g live } })))
          ∧ (s.sc.number.val < peerNumber p → exec (.frameReceived groups) s = .next (settle heard)))
        ∧ ((hostOf s g = none ∨ ∃ ch, hostOf s g = some ch ∧ s.mr.masters[ch].demoted = true) →
          ((s.mr.groups[g] = .unowned ∨ ∃ e, s.mr.groups[g] = .owned e
              ∧ (s.sc.peers[e.owner].presence ≠ .present ∨ p ≤ e.owner)) →
            exec (.frameReceived groups) s
              = .next (settle { heard with mr := { s.mr with groups := put s.mr.groups g live } }))
          ∧ (∀ e, s.mr.groups[g] = .owned e → s.sc.peers[e.owner].presence = .present → e.owner < p →
            exec (.frameReceived groups) s = .next (settle heard))))

/-- R94, R97: at its age limit (log 3) a LIVE entry becomes STALE with GROUP STALE, keeping owner, position and mute,
and a STALE entry stays as it is. A master is eligible when it is HOSTING and dirty with 8 ms since its last frame, or
with 250 ms; GROUP_SEND_DUE brings the time of a HOSTING master to 8 ms if it is dirty and to 250 ms if not, unless it
is beyond (log 3), and the master is then eligible. A master that turned clean as its time reached 8 ms keeps that time
and is not eligible. -/
def Obligations.GroupTimersAgeAndSend : Prop :=
  (∀ (s : State) (g : Group) (e : Ownership), s.mr.groups[g] = .owned e →
      (e.stale = false → exec (.groupAgeLimit g) s
        = .next (post .groupStale (g.val + 1) (e.owner.val + 1) { s with mr := { s.mr with
            groups := put s.mr.groups g (.owned { e with stale := true, age := 1000000 }) } }))
      ∧ (e.stale = true → exec (.groupAgeLimit g) s = .next s))
    ∧ (∀ (s : State) (ch : Channel), masterEligible s ch = true ↔
        (∃ g, hostedGroup s ch = some g) ∧ s.mr.masters[ch].demoted = false
          ∧ ((s.mr.masters[ch].lastSent ≠ some (sourcePosition s ch, s.mr.mute[ch])
              ∧ 8000 ≤ s.mr.masters[ch].since) ∨ 250000 ≤ s.mr.masters[ch].since))
    ∧ ∀ (s : State) (ch : Channel) (g : Group), hostedGroup s ch = some g → s.mr.masters[ch].demoted = false →
        let m := s.mr.masters[ch]
        let dirty := m.lastSent ≠ some (sourcePosition s ch, s.mr.mute[ch])
        ∃ t, exec (.groupSendDue ch) s = .next (settle t)
          ∧ t = { s with mr := { s.mr with masters := t.mr.masters } }
          ∧ (∀ other : Channel, other ≠ ch → t.mr.masters[other] = s.mr.masters[other])
          ∧ (dirty → t.mr.masters[ch] = { m with since := max m.since 8000 } ∧ masterEligible t ch = true)
          ∧ (¬dirty → m.since ≠ 8000 →
              t.mr.masters[ch] = { m with since := max m.since 250000 } ∧ masterEligible t ch = true)
          ∧ (¬dirty → m.since = 8000 → t = s ∧ masterEligible t ch = false)

/-! ## Fader strips (chapter 6) -/

/-- R103, R107, R109, R111, R112 at a CONVERSION_COMPLETE. A wiper that is not in use is not converted. Outside RUN
the measured position alone changes. In RUN the hand level of a channel in HAND follows a change of 2 or more and the
ends of travel; a PLAIN channel in AUTO whose fader is 4 or more off its park value and meets or crosses the cue level
enters HAND there; and the crossing memory of a PLAIN channel takes the position and difference. -/
def Obligations.ConversionTracksHandsAndPicksUp : Prop :=
  ∀ (ch : Channel) (m : Position) (s : State),
    let x := s.st.strips[ch]
    let c := s.fe.levels[ch]
    let with' (y : Strip) : State := { s with st := { s.st with strips := put s.st.strips ch y } }
    let crossing := if isPlain s ch = true then some (m, (m.val : Int) - c.val) else x.crossing
    let meets := (x.park.val + 4 ≤ m.val ∨ m.val + 4 ≤ x.park.val)
      ∧ ((m.val ≤ c.val + 2 ∧ c.val ≤ m.val + 2)
        ∨ ∃ q d, x.crossing = some (q, d) ∧ m ≠ q ∧ ((0 < d ∧ m < c) ∨ (d < 0 ∧ c < m)))
    (faderOf s ch = .absent → exec (.conversionComplete ch m) s = .next (settle s))
      ∧ (faderOf s ch ≠ .absent → s.sc.state ≠ .run →
          exec (.conversionComplete ch m) s = .next (settle (with' { x with measured := m })))
      ∧ (faderOf s ch ≠ .absent → s.sc.state = .run → x.mode = .hand →
          ((x.hand.val + 2 ≤ m.val ∨ m.val + 2 ≤ x.hand.val ∨ m = 0 ∨ m = 1023) →
            exec (.conversionComplete ch m) s
              = .next (settle (with' { x with measured := m, hand := m, crossing := crossing })))
          ∧ (m.val < x.hand.val + 2 → x.hand.val < m.val + 2 → m ≠ 0 → m ≠ 1023 →
            exec (.conversionComplete ch m) s
              = .next (settle (with' { x with measured := m, crossing := crossing }))))
      ∧ (faderOf s ch ≠ .absent → s.sc.state = .run → x.mode = .auto →
          (isPlain s ch = true → meets → exec (.conversionComplete ch m) s
            = .next (settle (with' { x with measured := m, mode := .hand, hand := m, crossing := crossing })))
          ∧ (isPlain s ch = false ∨ ¬meets → exec (.conversionComplete ch m) s
            = .next (settle (with' { x with measured := m, crossing := crossing }))))

/-- R72, R74, R104, R108, R110: the touch of a channel. The pin is followed on MOTOR channels alone. Its assertion
turns FREE to PENDING and HOLD to TOUCHED, its absence PENDING to FREE and TOUCHED to HOLD, or with a hold of 0 to
FREE with its arrival at once. A TOUCHED arrival takes an unstalled motor OFF and in RUN gives a channel in AUTO to
the hand at its measured position, with its LEVEL records removed under KEEP. A FREE arrival clears a stall and in RUN
returns a channel in HAND to AUTO, under KEEP with its hand level as cue level. -/
def Obligations.TouchGivesTheChannelToTheHand : Prop :=
  ∀ (ch : Channel) (s : State),
    let x := s.st.strips[ch]
    let with' (u : State) (y : Strip) : State := { u with st := { u.st with strips := put u.st.strips ch y } }
    let stalled := x.motor = .stalled
    let touched : Strip := { x with
      touch := .touched, motor := if stalled then .stalled else .off
      rest := if stalled then x.rest else 0, stall := if stalled then x.stall else 0 }
    let free (pin : Bool) : Strip := { x with
      touchInput := pin, touch := .free, motor := if stalled then .off else x.motor
      stall := if stalled then 0 else x.stall }
    let released (pin : Bool) : State :=
      if s.sc.state = .run ∧ x.mode = .hand then
        with' { s with fe := { s.fe with
            levels := if isKeep s ch = true then put s.fe.levels ch x.hand else s.fe.levels } }
          { free pin with mode := .auto }
      else with' s (free pin)
    (isMotor s ch = false →
        exec (.touchInputAsserted ch) s = .next (with' s { x with touchInput := true })
          ∧ exec (.touchInputAbsent ch) s = .next (settle (with' s { x with touchInput := false })))
      ∧ (isMotor s ch = true →
        (x.touch = .free →
          exec (.touchInputAsserted ch) s = .next (with' s { x with touchInput := true, touch := .pending 0 }))
        ∧ (∀ left, x.touch = .hold left →
          exec (.touchInputAsserted ch) s = .next (with' s { x with touchInput := true, touch := .touched })
            ∧ exec (.freeArrival ch) s = .next (settle (released x.touchInput)))
        ∧ (∀ held, x.touch = .pending held →
          exec (.touchInputAbsent ch) s
              = .next (settle (with' s { x with touchInput := false, touch := .free }))
            ∧ (s.sc.state = .run → x.mode = .auto →
              exec (.touchedArrival ch) s = .next (settle (with'
                { s with fe := { s.fe with
                    pool := if isKeep s ch = true
                      then s.fe.pool.filter (fun r => !(r.isLevel && r.channel == ch)) else s.fe.pool } }
                { touched with mode := .hand, hand := x.measured })))
            ∧ (s.sc.state ≠ .run ∨ x.mode = .hand →
              exec (.touchedArrival ch) s = .next (settle (with' s touched))))
        ∧ (x.touch = .touched →
          (0 < touchHold s → exec (.touchInputAbsent ch) s
            = .next (settle (with' s { x with touchInput := false, touch := .hold (touchHold s) })))
          ∧ (touchHold s = 0 → exec (.touchInputAbsent ch) s = .next (settle (released false)))))

/-- R82, R83, R85, R86, R105, R106: a KEY_SCAN that delivers no GO press: one outside RUN, or one that accepts none. A
key changes at the third scan in succession that reads it the other way, and a press is accepted as it goes down. In RUN
an accepted mute press toggles the flag of a channel that is not UNUSED and an accepted solo press that of an AUDIO
channel; a solo press that changes station solo asks for a STATE frame, and no other press does, the presses of one
scan acting in channel order (log 5). In other states
presses, GO among them, do nothing (`KeysScanned`). -/
def Obligations.KeyScanTogglesMutesAndSolos : Prop :=
  ∀ (mute solo : BitVec 16) (go : Bool) (s : State),
    (s.sc.state ≠ .run ∨ s.st.goKey.down = true ∨ go = false ∨ s.st.goKey.count < 2) →
      ∃ t, exec (.keyScan mute solo go) s = .next (settle t) ∧ KeysScanned mute solo go s t
        ∧ (stationSolo t ≠ stationSolo s → t.sc.stateRequest = true)
        ∧ (t.mr.solo = s.mr.solo → t.sc.stateRequest = s.sc.stateRequest)

/-- R37, R105, R106: a GO press accepted by a KEY_SCAN in RUN, whatever other keys that scan reads. The presses of the
mute and solo keys act first (log 5), as `KeysScanned` says. Then, on a station that cannot send, GO does nothing; under
a stop it posts GO REFUSED with the standby; with no standby END OF LIST with the last fired cue; else it requests a
FIRE of the standby with origin KEY: an equal request adds nothing, and a full queue posts REQUEST REFUSED. -/
def Obligations.GoKeyRequestsTheStandby : Prop :=
  ∀ (mute solo : BitVec 16) (s : State),
    s.sc.state = .run → s.st.goKey.down = false → 2 ≤ s.st.goKey.count →
    ∃ t, KeysScanned mute solo true s t
      ∧ (cannotSend s = true → exec (.keyScan mute solo true) s = .next (settle t))
      ∧ (cannotSend s = false → s.sp.effective ≠ .none →
          exec (.keyScan mute solo true) s
            = .next (settle (post .goRefused (s.cq.standby.getD 0) (s.sc.number.val * 4) t)))
      ∧ (cannotSend s = false → s.sp.effective = .none →
          (s.cq.standby = none → exec (.keyScan mute solo true) s
            = .next (settle (post .endOfList (s.cq.last.getD 0) (s.sc.number.val * 4) t)))
          ∧ ∀ c, s.cq.standby = some c →
            ((∃ r ∈ s.cq.outgoing, r.kind = .fire ∧ r.cue = c) →
              exec (.keyScan mute solo true) s = .next (settle t))
            ∧ ((∀ r ∈ s.cq.outgoing, ¬(r.kind = .fire ∧ r.cue = c)) →
              (s.cq.outgoing.length < 4 → exec (.keyScan mute solo true) s
                = .next (settle { t with cq := { s.cq with
                    outgoing := s.cq.outgoing
                      ++ [{ kind := .fire, cue := c, origin := .key, sent := false }] } }))
              ∧ (4 ≤ s.cq.outgoing.length → exec (.keyScan mute solo true) s
                = .next (settle (post .requestRefused c (s.sc.number.val * 4) t)))))

/-- R116 to R119, R175: REST_END acts on a resting motor as the servo does on one not driving: brake within the
deadband, else drive toward the cue level, the stall timer counting on. MOTOR_STALL stalls a driven or resting motor
with MOTOR STALL (log 21, log 31). CLEAR MOTOR takes a STALLED motor of a MOTOR channel to OFF and answers OK; it
answers BAD ARGUMENT for any other channel number. Nothing else changes. -/
def Obligations.RestStallAndClearMotor : Prop :=
  ∀ (s : State) (ch : Channel) (im : ShowImage), s.sm.image = some im →
    let x := s.st.strips[ch]
    let h := im.header
    let with' (y : Strip) : State := { s with st := { s.st with strips := put s.st.strips ch y } }
    let error : Int := (s.fe.levels[ch].val : Int) - x.measured.val
    let duty := min 255 (max h.minDuty (h.kp * error.natAbs))
    let stalled : State := post .motorStall (ch.val + 1) x.measured.val
      (with' { x with motor := .stalled, rest := 0, stall := 10 * h.stallLimit })
    (s.sc.state = .run → isMotor s ch = true → x.motor = .rest →
        (error.natAbs ≤ h.deadband →
          exec (.restEnd ch) s = .next (with' { x with motor := .brake, rest := 0, stall := 0 }))
        ∧ (h.deadband < error.natAbs → x.stall + 1 < 10 * h.stallLimit →
          exec (.restEnd ch) s = .next (with' { x with
            motor := if 0 < error then .driveUp duty else .driveDown duty, rest := 0, stall := x.stall + 1 }))
        ∧ (h.deadband < error.natAbs → 10 * h.stallLimit ≤ x.stall + 1 → exec (.restEnd ch) s = .next stalled))
      ∧ (s.sc.state = .run → isMotor s ch = true →
          (x.motor = .rest ∨ ∃ d, x.motor = .driveUp d ∨ x.motor = .driveDown d) →
          exec (.motorStall ch) s = .next stalled)
      ∧ (s.lp.port = .reading → s.sc.state = .listen ∨ s.sc.state = .catchup ∨ s.sc.state = .run →
          ∀ arg : Byte,
            (arg.toNat = ch.val + 1 → isMotor s ch = true →
              exec (.clearMotor arg) s = .next { with' { x with
                  motor := if x.motor = .stalled then .off else x.motor
                  stall := if x.motor = .stalled then 0 else x.stall } with
                lp := { s.lp with port := .answered .ok [] 0 } })
            ∧ ((arg.toNat = 0 ∨ 16 < arg.toNat ∨ (arg.toNat = ch.val + 1 ∧ isMotor s ch = false)) →
              exec (.clearMotor arg) s
                = .next { s with lp := { s.lp with port := .answered .badArgument [] 0 } }))


/-! ## The show bus (chapters 7 and 11) -/

/-- R123, R124, R180: the groups a sender puts on the bus for a frame whose fields the layout admits read back, with
sound guard bits and the CRC right, as that sender, repeat flag and payload.
R142: the frame a full station is sending reads back so, with its station number in the station number field and the
repeat flag of the frame in flight (`sentGroups`, an output of the part); a station that sends nothing puts none out. -/
def Obligations.SentFrameReadsBack : Prop :=
  ∀ (p : Peer) (repeated : Bool) (payload : Payload),
    (∀ release kind target, payload = .stop release kind target → target ≠ 0) →
    (∀ kind origin c, payload = .cue kind origin c → 1 ≤ c ∧ c ≤ 99999) →
    (∀ solo a b c, payload = .state solo a b (some c) → 1 ≤ c ∧ c ≤ 99999) →
      readFrame (frameGroups p.succ repeated payload)
          = { station := peerNumber p, result := .ok (p, repeated, payload) }
        ∧ (frameGroups p.succ repeated payload).length = frameGroupCount ((frameGroups p.succ repeated payload).headD 0)
        ∧ (∀ (s : State) (won : Bool), s.sc.number = p.succ →
            s.bc.sending = some { payload := payload, won := won } →
            repeated = (flightOf s (payloadClass payload)).any (·.repeated) →
              readFrame (sentGroups s) = { station := s.sc.number.val, result := .ok (p, repeated, payload) })
        ∧ ∀ s : State, s.bc.sending = none → sentGroups s = []

/-- R98, R126, R131, R135, R136, R139, R142, R154 at a BID_POINT of an idle bus: a station that cannot send bids nothing.
Another bids the first of STOP, CUE, an unyielded GROUP and an unyielded STATE with a frame to offer: the frame in
flight, else the stop controller's first, the head of the request queue, the first eligible master after the last in
channel order with its values as they stand, or a requested STATE frame. It goes out under the station number, with the
repeat flag of a frame in flight (`sentGroups`). With none to bid the gap stands at its bid
point and no flag changes; a bid point on an idle bus, or one given again with no bit time between, first clears the
yield flags for the one that has passed (log 39). Nothing else changes, and elsewhere nothing at all (log 4). -/
def Obligations.BidPointChoosesByClass : Prop :=
  (∀ s : State,
      let idle := s.bc.phase = .idle ∧ s.bc.lineHeld = false
      let passed : State := { s with bc := { s.bc with
        yieldGroup := if 21 ≤ s.bc.gap then false else s.bc.yieldGroup
        yieldState := if 21 ≤ s.bc.gap then false else s.bc.yieldState } }
      (∀ p, idle → chooseBid passed = some p → exec .bidPoint s = .next { passed with bc := { passed.bc with
        phase := .sending, gap := 0, sent := 0, sending := some { payload := p, won := false } } })
      ∧ (∀ p t, idle → chooseBid passed = some p → exec .bidPoint s = .next t →
          sentGroups t = frameGroups s.sc.number ((flightOf s (payloadClass p)).any (·.repeated)) p)
      ∧ (idle → chooseBid passed = none → exec .bidPoint s = .next { passed with bc := { passed.bc with gap := 21 } })
      ∧ (¬idle → exec .bidPoint s = .next s))
    ∧ (∀ s : State, cannotBid s = true → chooseBid s = none)
    ∧ (∀ s : State, cannotBid s = false →
        (∀ p, offerOf s .stop = some p → chooseBid s = some p)
          ∧ (offerOf s .stop = none → ∀ p, offerOf s .cue = some p → chooseBid s = some p)
          ∧ (offerOf s .stop = none → offerOf s .cue = none →
              (∀ p, s.bc.yieldGroup = false → offerOf s .group = some p → chooseBid s = some p)
              ∧ (s.bc.yieldGroup = true ∨ offerOf s .group = none →
                chooseBid s = if s.bc.yieldState = true then none else offerOf s .state)))
    ∧ (∀ s : State,
        (∀ c f, flightOf s c = some f → offerOf s c = some f.payload)
          ∧ (s.bc.stopFlight = none →
              (s.sp.machineA.state = .announcing → offerOf s .stop = some (.stop false .a s.sc.number))
              ∧ (s.sp.machineA.state = .releasing → offerOf s .stop = some (.stop true .a s.sc.number))
              ∧ (s.sp.machineA.state = .clear ∨ s.sp.machineA.state = .held →
                (s.sp.machineB.state = .announcing → offerOf s .stop = some (.stop false .b s.sc.number))
                ∧ (s.sp.machineB.state = .releasing → offerOf s .stop = some (.stop true .b s.sc.number))
                ∧ (s.sp.machineB.state = .clear ∨ s.sp.machineB.state = .held →
                  offerOf s .stop = s.sp.orphan.map (fun o => .stop true o.1 o.2.succ))))
          ∧ (s.bc.cueFlight = none →
              offerOf s .cue = s.cq.outgoing.head?.map (fun r => .cue r.kind r.origin r.cue))
          ∧ (s.bc.groupFlight = none →
              (supplyMaster s = none → offerOf s .group = none)
              ∧ ∀ ch g, supplyMaster s = some ch → hostedGroup s ch = some g →
                  offerOf s .group = some (.group g s.mr.mute[ch] (sourcePosition s ch)))
          ∧ (s.bc.stateFlight = none → offerOf s .state = if s.sc.stateRequest = true
              then some (.state (stationSolo s) s.sp.machineA.holds s.sp.machineB.holds s.cq.last) else none))
    ∧ ∀ s : State,
        (∀ ch, supplyMaster s = some ch → s.sc.state = .run ∧ masterEligible s ch = true
            ∧ ∀ other : Channel, masterEligible s other = true →
                let after (c : Channel) := match s.mr.lastGroup with
                  | some last => (c.val + 15 - last.val) % 16
                  | none => c.val
                after ch ≤ after other)
          ∧ (s.sc.state = .run → (∃ ch, masterEligible s ch = true) → supplyMaster s ≠ none)

/-- R127, R129, R131, R136, R153. A won arbitration puts a frame not yet in flight in flight with its contents; a CUE
frame's request becomes SENT and a STATE frame clears the STATE request (log 12). A lost one leaves the frame pending
and uncounted, and the station receives the winner. A receiver that reads a sound arbitration byte empties the copy
record it names when the repeat flag is clear, and a STATE frame's win clears the GROUP yield flag. A byte with a guard
violation empties no record; the yield flag goes by its class bits as they are read (log 17). -/
def Obligations.ArbitrationIsWonLostOrHeard : Prop :=
  (∀ (s : State) (p : Payload), s.bc.sending = some { payload := p, won := false } →
      (∀ f, flightOf s (payloadClass p) = some f → exec .arbitrationWon s
        = .next { s with bc := { s.bc with sending := some { payload := p, won := true } } })
      ∧ (flightOf s (payloadClass p) = none → ∃ t, exec .arbitrationWon s = .next t
        ∧ flightOf t (payloadClass p) = some { payload := p, attempts := 0, repeated := false }
        ∧ (∀ c, c ≠ payloadClass p → flightOf t c = flightOf s c)
        ∧ t = { s with
            bc := { s.bc with
              sending := some { payload := p, won := true }
              stopFlight := t.bc.stopFlight, cueFlight := t.bc.cueFlight, groupFlight := t.bc.groupFlight
              stateFlight := t.bc.stateFlight }
            cq := { s.cq with outgoing := if payloadClass p = .cue
              then (match s.cq.outgoing with | [] => [] | r :: rest => { r with sent := true } :: rest)
              else s.cq.outgoing }
            sc := { s.sc with stateRequest := if payloadClass p = .state then false else s.sc.stateRequest } })
      ∧ exec .arbitrationLost s
        = .next { s with bc := { s.bc with phase := .receiving, sending := none } })
    ∧ (∀ (s : State) (first second : BitVec 5),
      (readsFrame s = false → exec (.arbitrationByteRead first second) s = .next s)
        ∧ (readsFrame s = true → first.getLsbD 0 = first.getLsbD 1 ∨ second.getLsbD 0 = second.getLsbD 1 →
          exec (.arbitrationByteRead first second) s = .next { s with bc := { s.bc with
            yieldGroup := if first.getLsbD 4 = true ∧ first.getLsbD 3 = true then false else s.bc.yieldGroup } }))
    ∧ ∀ (s : State) (cls : FrameClass) (p : Peer) (repeated : Bool),
      readsFrame s = true →
        let byte := arbitrationByte cls p.succ repeated
        ∃ t, exec (.arbitrationByteRead (groupOf (byte.extractLsb' 4 4)) (groupOf (byte.extractLsb' 0 4))) s = .next t
          ∧ t = { s with bc := { s.bc with
              copies := put s.bc.copies p t.bc.copies[p]
              yieldGroup := if cls = .state then false else s.bc.yieldGroup } }
          ∧ (repeated = true → t.bc.copies[p] = s.bc.copies[p])
          ∧ (repeated = false → t.bc.copies[p].get cls = none
              ∧ ∀ c, c ≠ cls → t.bc.copies[p].get c = s.bc.copies[p].get c)

/-- R127, R132 to R134, R136: the end of an attempt. FRAME_COMPLETE takes the frame out of flight, sets the yield flag
of its class and reports to its owner. A failed attempt counts, and the frame stays in flight with its repeat flag
set; the eighth abandons it with TX ABANDONED and reports to its owner, in this order (log 23). A first attempt that
fails within its arbitration byte is such a failure, with the report of a win before it (log 12). A mismatch is
followed by the own break, a dominant bit in the error window by a run of another station, the run read so far timed
on (log 18). What each owner does: the cue sequencer takes its request out of the queue and the frame as received
(R39, R40); the mix resolver keeps what a completed frame carried and restarts the pacing (R99); a STATE frame has no
more effect. -/
def Obligations.OwnFramesEndWithTheirOwners : Prop :=
  (∀ (s : State) (f : Flight) (won : Bool), s.bc.sending = some { payload := f.payload, won := won } →
      flightOf s (payloadClass f.payload) = some f →
        let c := payloadClass f.payload
        let freed (u : State) : State := setFlight u c none
        exec .frameComplete s = .next (settle (frameEnd true f.payload (freed { s with bc := { s.bc with
            phase := .idle, gap := 16, run := 0, sending := none
            yieldGroup := s.bc.yieldGroup || c == .group, yieldState := s.bc.yieldState || c == .state } })))
          ∧ ∀ place : FailurePlace,
            let broken : State := { s with bc := match place with
              | .mismatch run => { s.bc with phase := .broken, sending := none, drive := 16, run := run }
              | .errorWindow run => { s.bc with phase := .idle, sending := none, gap := 0, lineHeld := true, run := run } }
            (f.attempts < 7 → exec (.attemptFailed place) s = .next (settle (setFlight broken c
              (some { payload := f.payload, attempts := f.attempts + 1, repeated := true }))))
            ∧ (7 ≤ f.attempts → exec (.attemptFailed place) s = .next (settle (frameEnd false f.payload
                (post .txAbandoned c.code (match f.payload with
                  | .stop _ k target => (if k = .b then 32 else 0) + target.val
                  | .cue _ _ cue => cue
                  | .group g _ _ => g.val + 1
                  | .state _ _ _ _ => 0) (freed broken))))))
    ∧ (∀ (s : State) (p : Payload) (place : FailurePlace),
        s.bc.sending = some { payload := p, won := false } → flightOf s (payloadClass p) = none →
          exec (.attemptFailed place) s = .next (settle (setFlight
            { s with
              bc := match place with
                | .mismatch run => { s.bc with phase := .broken, sending := none, drive := 16, run := run }
                | .errorWindow run =>
                  { s.bc with phase := .idle, sending := none, gap := 0, lineHeld := true, run := run }
              cq := { s.cq with outgoing := if payloadClass p = .cue
                then (match s.cq.outgoing with | [] => [] | r :: rest => { r with sent := true } :: rest)
                else s.cq.outgoing }
              sc := { s.sc with stateRequest := if payloadClass p = .state then false else s.sc.stateRequest } }
            (payloadClass p) (some { payload := p, attempts := 1, repeated := true }))))
    ∧ (∀ (s : State) (completed : Bool),
        (∀ solo a b last, frameEnd completed (.state solo a b last) s = s)
          ∧ (∀ kind origin c, frameEnd completed (.cue kind origin c) s
              = takeCue kind c s.sc.number.val origin
                  { s with cq := { s.cq with outgoing := s.cq.outgoing.eraseP (·.sent) } })
          ∧ (∀ g mute position ch, hostOf s g = some ch → frameEnd completed (.group g mute position) s
              = { s with mr := { s.mr with
                  masters := put s.mr.masters ch { s.mr.masters[ch] with
                    lastSent := if completed = true then some (position, mute) else s.mr.masters[ch].lastSent
                    since := 0 }
                  lastGroup := some ch } }))

/-- R128, R180: a frame with a guard violation, a wrong CRC, a field no value has, or station number 0 is rejected for
the first of these that applies: FRAME ERROR with the reason and the station number as read, the error flag is driven
from the gap's first bit time, and the frame reaches no owner, copy record or presence. No value has a field with a
reserved bit set, target 0, origin kind 3, a cue outside 1 to 99999, or a last fired cue that is not 0 where has-cue
is clear. Groups that were not read count as a guard violation (log 16); the dominant run the frame ends with is timed
on (log 18). -/
def Obligations.RejectedFrameDrivesTheErrorFlag : Prop :=
  (∀ (groups : List (BitVec 5)) (s : State) (fault : FrameFault), readsFrame s = true →
      (readFrame groups).result = .error fault →
        ∃ t, exec (.frameReceived groups) s = .next (settle t)
          ∧ t.lp = (post .frameError (match fault with
              | .guard => 0
              | .crc => 1
              | .field => 2
              | .senderZero => 3) (readFrame groups).station s).lp
          ∧ t = { s with
              bc := { s.bc with
                phase := .broken, gap := 0, run := lastRun groups, lineHeld := false, drive := 16 }
              lp := t.lp })
    ∧ (∀ groups : List (BitVec 5),
        let read := groupsRead groups
        let bytes := groupBytes read
        let n := payloadLength (classRead groups) + 1
        ((∃ g ∈ read, g.getLsbD 0 = g.getLsbD 1) → (readFrame groups).result = .error .guard)
        ∧ ((∀ g ∈ read, g.getLsbD 0 ≠ g.getLsbD 1) →
          ((crc (bytes.take n)).toNat ≠ numberOf (bytes.drop n) → (readFrame groups).result = .error .crc)
          ∧ ((crc (bytes.take n)).toNat = numberOf (bytes.drop n) →
            (readPayload (classRead groups) ((bytes.take n).drop 1) = none →
              (readFrame groups).result = .error .field)
            ∧ ∀ payload, readPayload (classRead groups) ((bytes.take n).drop 1) = some payload →
              ((readFrame groups).station = 0 → (readFrame groups).result = .error .senderZero)
              ∧ ∀ p : Peer, (readFrame groups).station = peerNumber p →
                  ∃ repeated, (readFrame groups).result = .ok (p, repeated, payload))))
    ∧ ∀ b hi lo : Byte,
        let cue := b.toNat % 2 * 65536 + hi.toNat * 256 + lo.toNat
        (readPayload .stop [b] = none ↔ b.getLsbD 5 = true ∨ b.toNat % 32 = 0)
        ∧ (readPayload .cue [b, hi, lo] = none
            ↔ b.toNat / 2 % 16 ≠ 0 ∨ b.toNat / 32 % 4 = 3 ∨ cue = 0 ∨ 99999 < cue)
        ∧ readPayload .group [b, lo] ≠ none
        ∧ (readPayload .state [b, hi, lo] = none
            ↔ b.toNat / 2 % 8 ≠ 0 ∨ (b.getLsbD 4 = true ∧ (cue = 0 ∨ 99999 < cue)) ∨ (b.getLsbD 4 = false ∧ cue ≠ 0))

/-- R129, R130, R149, R155: what every valid frame does. A copy reaches no owner but gives the presence notice. A
first frame of an ABSENT or LOST peer, copy or new, makes it PRESENT with PEER JOINED and its state before, in every
station state, and is then taken as one of a PRESENT peer. A frame with the own number, in every station state, sets
the TX-muted flag and posts DUPLICATE STATION with class and number, once; the frames then pending are abandoned
before it is handed on (log 14, log 23); the own entry and presence are not touched, and only a CUE frame acts. -/
def Obligations.ValidFrameGivesItsNotices : Prop :=
  ∀ (groups : List (BitVec 5)) (p : Peer) (repeated : Bool) (payload : Payload) (s : State),
    (readFrame groups).result = .ok (p, repeated, payload) → readsFrame s = true →
      let heard : State := { s with bc := { s.bc with
        phase := .idle, gap := 0, run := lastRun groups, lineHeld := false } }
      let copy := repeated = true ∧ s.bc.copies[p].get (payloadClass payload) = some payload
      let recorded (u : State) : State := { u with bc := { u.bc with
        copies := put u.bc.copies p (u.bc.copies[p].set (payloadClass payload) (some payload)) } }
      (peerNumber p ≠ s.sc.number.val →
        (copy →
          ∃ t, exec (.frameReceived groups) s = .next (settle t)
            ∧ t.sc = { s.sc with
                peers := put s.sc.peers p { s.sc.peers[p] with presence := .present, heard := 0 } }
            ∧ (s.sc.peers[p].presence = .present → t.lp = s.lp)
            ∧ (s.sc.peers[p].presence ≠ .present → t.lp = (post .peerJoined (peerNumber p)
                (if s.sc.peers[p].presence = .lost then 2 else 0) s).lp)
            ∧ t = { heard with sc := t.sc, lp := t.lp })
        ∧ (¬copy →
          ∃ t, exec (.frameReceived groups) s = .next t
            ∧ t.bc.copies[p].get (payloadClass payload) = some payload
            ∧ t.sc.peers[p].presence = .present ∧ t.sc.peers[p].heard = 0)
        ∧ (s.sc.peers[p].presence ≠ .present →
          exec (.frameReceived groups) s = exec (.frameReceived groups)
            { post .peerJoined (peerNumber p) (if s.sc.peers[p].presence = .lost then 2 else 0) s with
              sc := { s.sc with peers := put s.sc.peers p { s.sc.peers[p] with presence := .present } } }))
      ∧ (peerNumber p = s.sc.number.val →
        let muted : State := if s.sc.txMuted = true then heard
          else settle (post .duplicateStation (payloadClass payload).code s.sc.number.val
            { heard with sc := { s.sc with txMuted := true } })
        (copy → exec (.frameReceived groups) s = .next (settle muted))
        ∧ (¬copy → payloadClass payload ≠ .cue → exec (.frameReceived groups) s = .next (settle (recorded muted)))
        ∧ (∀ kind origin c, ¬copy → payload = .cue kind origin c →
            let u := recorded muted
            exec (.frameReceived groups) s = .next (settle (takeCue kind c s.sc.number.val origin
              { u with cq := { u.cq with
                outgoing := u.cq.outgoing.filter (fun r => !(r.kind == kind && r.cue == c && !r.sent)) } }))))

/-- R125, R137, R138: the signalling states. A dominant bit of an idle gap is a start bit from gap bit time 17 on, and
before that lengthens the run that is timed (log 18). Frames are read from a start bit on: in RECEIVING, or in IDLE
where the bit before would have been taken as one (log 16), and nowhere else. A run of 16 is a break; when the bus
returns recessive the gap begins. Dominant for 2 ms is FAULT, with BUS FAULT, attempt counts at 0 and yield flags
clear; a dominant bit or run in FAULT restarts the recessive count, which runs on when the bus returns recessive;
recessive for 2 ms restores an idle bus with BUS RESTORED and the time spent. A BUS_FAULT or BUS_RESTORED given
before its count has run is taken (log 3); what the counts of FAULT hold outside it is the model's (log 31). -/
def Obligations.BusRunsBreaksAndFaults : Prop :=
  ∀ s : State,
    (s.bc.phase = .idle → s.bc.lineHeld = false →
        (16 ≤ s.bc.gap → exec .startBit s = .next { s with bc := { s.bc with phase := .receiving, run := 0 } })
        ∧ (s.bc.gap < 16 → exec .startBit s
          = .next { s with bc := { s.bc with lineHeld := true, run := s.bc.run + 1 } }))
      ∧ (s.bc.phase = .fault → exec .startBit s = .next { s with bc := { s.bc with quiet := 0 } }
        ∧ exec .busBreak s = .next { s with bc := { s.bc with lineHeld := true, quiet := 0 } }
        ∧ exec .busBreakEnd s = .next { s with bc := { s.bc with lineHeld := false } })
      ∧ (s.bc.phase = .broken → exec .busBreak s = .next { s with bc := { s.bc with lineHeld := true } })
      ∧ (s.bc.phase = .sending → exec .busBreak s = .next s)
      ∧ (s.bc.phase = .receiving ∨ s.bc.phase = .sending ∨ (s.bc.phase = .idle ∧ s.bc.lineHeld = false) →
        exec .busBreakEnd s = .next s)
      ∧ (s.bc.phase = .receiving ∨ s.bc.phase = .sending ∨ s.bc.phase = .broken
          ∨ (s.bc.phase = .idle ∧ s.bc.lineHeld = true) → exec .startBit s = .next s)
      ∧ (s.bc.phase ≠ .broken → exec .busFault s = .next (settle s))
      ∧ (s.bc.phase ≠ .fault → exec .busRestored s = .next (settle s))
      ∧ (readsFrame s = true ↔ s.bc.phase = .receiving
          ∨ (s.bc.phase = .idle ∧ s.bc.lineHeld = false ∧ 16 ≤ s.bc.gap))
      ∧ (readsFrame s = false → ∀ groups, exec (.frameReceived groups) s = .next (settle s))
      ∧ (s.bc.phase = .receiving → exec .busBreak s
          = .next { s with bc := { s.bc with phase := .broken, lineHeld := true, run := 16 } })
      ∧ (s.bc.phase = .idle → exec .busBreak s
          = .next { s with bc := { s.bc with phase := .broken, lineHeld := true, run := max s.bc.run 16 } })
      ∧ (s.bc.phase = .broken → exec .busBreakEnd s = .next { s with bc := { s.bc with
          phase := .idle, gap := 0, run := 0, lineHeld := false, drive := 0 } })
      ∧ (s.bc.phase = .idle → s.bc.lineHeld = true → exec .busBreakEnd s
          = .next { s with bc := { s.bc with gap := 0, run := 0, lineHeld := false } })
      ∧ (s.bc.phase = .broken → ∃ t, exec .busFault s = .next (settle t)
          ∧ t.lp = (post .busFault 0 0 s).lp
          ∧ (∀ c, flightOf t c = (flightOf s c).map (fun f => { f with attempts := 0 }))
          ∧ t = { s with
              bc := { s.bc with
                phase := .fault, drive := 0, quiet := 0, faultTime := 0, sending := none
                yieldGroup := false, yieldState := false
                stopFlight := t.bc.stopFlight, cueFlight := t.bc.cueFlight, groupFlight := t.bc.groupFlight
                stateFlight := t.bc.stateFlight }
              lp := t.lp })
      ∧ (s.bc.phase = .fault → ∃ t, exec .busRestored s = .next (settle t)
          ∧ t.lp = (post .busRestored (min 65535 (s.bc.faultTime / 1000)) 0 s).lp
          ∧ t = { s with
              bc := { s.bc with phase := .idle, gap := 21, run := 0, lineHeld := false, quiet := 0 }, lp := t.lp })

/-- R99, R138, R139: only a follower, a TX-muted station or one in FAULT abandons frames as they become pending. There
a pending STOP frame ends at once as one completed and not sent; the request of a CUE frame leaves the queue and is
taken as received from the own number; every eligible master's time since send restarts, its last-sent values kept; a
STATE request is dropped. Frames are abandoned one after another, the first of the classes STOP, CUE, GROUP, STATE with
one to abandon and in it the frame in flight before the others in the order offered, each reported to its owner
(`abandonOne`); a frame on the bus is not, and those behind it are. On a follower or TX-muted station with no frame on the bus nothing stays pending (in FAULT,
where follows of delay 0 may form a chain, log 14), no TX ABANDONED is posted, and what no owner writes stands. -/
def Obligations.SilencedStationAbandonsItsFrames : Prop :=
  (∀ s : State, cannotBid s = false → settle s = s)
    ∧ (∀ s : State, (settle s).period = s.period ∧ (settle s).sm = s.sm ∧ (settle s).st = s.st
        ∧ (settle s).pending = s.pending ∧ (settle s).fe.levels = s.fe.levels ∧ (settle s).fe.pool = s.fe.pool
        ∧ (settle s).mr = { s.mr with masters := (settle s).mr.masters, lastGroup := (settle s).mr.lastGroup }
        ∧ (settle s).bc = { s.bc with
            stopFlight := (settle s).bc.stopFlight, cueFlight := (settle s).bc.cueFlight
            groupFlight := (settle s).bc.groupFlight, stateFlight := (settle s).bc.stateFlight }
        ∧ (settle s).sc = { s.sc with
            peers := (settle s).sc.peers, stateRequest := (settle s).sc.stateRequest
            candidate := (settle s).sc.candidate }
        ∧ (settle s).lp.port = s.lp.port ∧ (settle s).lp.offset = s.lp.offset
        ∧ (settle s).lp.queue.countP (fun r => r.kind == .txAbandoned)
            ≤ s.lp.queue.countP (fun r => r.kind == .txAbandoned)
        ∧ ∀ f, s.bc.sending = some f → flightOf (settle s) (payloadClass f.payload) = flightOf s (payloadClass f.payload))
    ∧ (∀ s : State, cannotSend s = true → s.bc.sending = none → s.cq.outgoing.length ≤ 4 →
        (∀ k p, s.sp.orphan = some (k, p) → peerNumber p ≠ s.sc.number.val) →
          ∀ c, offerOf (settle s) c = none)
    ∧ (∀ (s t : State) (c : FrameClass), cannotBid s = true → abandonOne s c = some t →
        (∀ before : FrameClass, before.code < c.code → abandonOne s before = none) →
        (∀ class', abandonOne (settle s) class' = none) → settle s = settle t)
    ∧ (∀ (s : State) (c : FrameClass), s.bc.sending = none → (abandonOne s c = none ↔ offerOf s c = none))
    ∧ (∀ (s : State) (c : FrameClass) (f : Flight), flightOf s c = some f →
        (∀ g, s.bc.sending = some g → payloadClass g.payload ≠ c) →
          abandonOne s c = some (frameEnd false f.payload (setFlight s c none)))
    ∧ (∀ s : State,
        (s.bc.stopFlight = none → abandonOne s .stop = (pendingStops s).head?.map (fun p => frameEnd false p s))
          ∧ (s.bc.cueFlight = none → abandonOne s .cue = s.cq.outgoing.head?.map (fun r =>
              takeCue r.kind r.cue s.sc.number.val r.origin
                { s with cq := { s.cq with outgoing := s.cq.outgoing.tail } }))
          ∧ (s.bc.groupFlight = none → abandonOne s .group = (supplyMaster s).map (fun ch => { s with mr := { s.mr with
              masters := put s.mr.masters ch { s.mr.masters[ch] with since := 0 }, lastGroup := some ch } }))
          ∧ (s.bc.stateFlight = none → abandonOne s .state
              = if s.sc.stateRequest = true then some { s with sc := { s.sc with stateRequest := false } } else none))
    ∧ (∀ (s : State) (f : Flight) (g : Sending), s.bc.sending = some g → flightOf s (payloadClass g.payload) = some f →
        (payloadClass g.payload = .stop → abandonOne s .stop
            = ((pendingStops s).filter (fun p => p != f.payload)).head?.map (fun p => frameEnd false p s))
          ∧ (payloadClass g.payload = .cue → abandonOne s .cue = (s.cq.outgoing.find? (fun r => !r.sent)).map (fun r =>
              takeCue r.kind r.cue s.sc.number.val r.origin
                { s with cq := { s.cq with outgoing := s.cq.outgoing.eraseP (fun r => !r.sent) } }))
          ∧ (payloadClass g.payload = .group → abandonOne s .group = none)
          ∧ (payloadClass g.payload = .state → abandonOne s .state = none))
    ∧ (∀ (s : State) (stop cue group state : Flight), cannotBid s = true → s.bc.sending = none →
        s.bc.stopFlight = some stop → s.bc.cueFlight = some cue → s.bc.groupFlight = some group →
        s.bc.stateFlight = some state →
          let a := frameEnd false stop.payload (setFlight s .stop none)
          let b := frameEnd false cue.payload (setFlight a .cue none)
          let c := frameEnd false group.payload (setFlight b .group none)
          let d := frameEnd false state.payload (setFlight c .state none)
          offerOf a .stop = none → offerOf b .stop = none ∧ offerOf b .cue = none →
          offerOf c .stop = none ∧ offerOf c .cue = none ∧ offerOf c .group = none →
          (∀ class', offerOf d class' = none) → settle s = d)
    ∧ (∀ s : State, cannotBid s = true → Silent s → pendingStops s = [] → s.cq.outgoing = [] → supplyMaster s = none →
        settle s = { s with sc := { s.sc with stateRequest := false } })
    ∧ (∀ (s : State) (p : Payload), cannotBid s = true → Silent s → pendingStops s = [p] → s.cq.outgoing = [] →
        supplyMaster s = none → (∀ k q, s.sp.orphan = some (k, q) → peerNumber q ≠ s.sc.number.val) →
        settle s = { frameEnd false p s with sc := { (frameEnd false p s).sc with stateRequest := false } })
    ∧ (∀ (s : State) (r : Request), cannotBid s = true → Silent s → pendingStops s = [] → s.cq.outgoing = [r] →
        supplyMaster s = none → s.sc.stateRequest = false →
          ∀ t, t = takeCue r.kind r.cue s.sc.number.val r.origin { s with cq := { s.cq with outgoing := [] } } →
            t.cq.outgoing = [] → settle s = t)
    ∧ ∀ s : State, cannotBid s = true → Silent s → pendingStops s = [] → s.cq.outgoing = [] →
        s.sc.stateRequest = false → s.sc.state = .run →
          ∃ masters last, settle s = { s with mr := { s.mr with masters := masters, lastGroup := last } }
            ∧ (∀ ch : Channel, masters[ch] = if masterEligible s ch = true
                then { s.mr.masters[ch] with since := 0 } else s.mr.masters[ch])
            ∧ (∀ ch : Channel, (∀ other : Channel, masterEligible s other = true ↔ other = ch) → last = some ch)

/-! ## Stations and peers (chapter 8) -/

/-- R32, R33, R50, R146: the listen timer's expiry takes the station to CATCHUP with the walk at the presets. With a
candidate the standby is the next cue after it, the last fired cue is it, and the time since acceptance is its age for
a FIRE and 2000 ms for a STATE frame; with none the standby is the first cue (the time is then left as it stands, log
27). The follow timer is stopped. Nothing else changes. -/
def Obligations.ListenExpiryAdoptsTheCandidate : Prop :=
  ∀ (s : State) (im : ShowImage), s.sc.state = .listen → s.sm.image = some im →
    ∃ t, exec .listenTimerExpiry s = .next t
      ∧ t = { s with
          cq := { s.cq with standby := t.cq.standby, last := t.cq.last, since := t.cq.since, follow := none }
          sc := { s.sc with
            state := .catchup, listen := none, walkEnded := false
            tracked := some (mapTable (fun e => { level := e.preset, mute := e.presetMute }) im.channels) } }
      ∧ (s.sc.candidate = none →
          t.cq.standby = firstCue im.cues ∧ t.cq.last = none ∧ t.cq.since = s.cq.since)
      ∧ ∀ c, s.sc.candidate = some c →
          t.cq.standby = nextCueAfter im.cues c.cue ∧ t.cq.last = some c.cue
            ∧ (c.source = .fire → t.cq.since = c.age) ∧ (c.source = .state → t.cq.since = 2000000)

/-- R48, R50, R52, R79, R100, R107, R111, R114, R143, R147, R153, R169: RUN entry, at the first level point after the
end of the walk, whichever of its two names the command has (log 11). The tracked levels and mutes are installed,
solos cleared, HOSTING masters made eligible, every channel set to AUTO but touched MOTOR channels, which go to the
hand (a PENDING touch waits), plain faders parked, a STATE frame requested, the refresh timer started, and CATCHUP
DONE posted. Cues accepted in CATCHUP go on in their order, those without moves to the fade engine, the first with
moves to the expander; with none left the standby is prefetched. Last (log 42), a follow armed with 0
expires, unless a stop is in force (log 35). -/
def Obligations.RunEntryInstallsTheTrackedState : Prop :=
  ∀ (s : State) (tracked : Vector Tracked 16),
    s.sc.state = .catchup → s.sc.walkEnded = true → s.sc.tracked = some tracked →
    s.cq.buffer = .empty → s.fe.pool = [] →
      exec .levelPoint s = exec .runEntry s
        ∧ ∃ u : State, (∃ t, exec .runEntry s = .next t)
          ∧ u = { s with
              sc := { s.sc with
                state := .run, stateRequest := true, refresh := some 0, tracked := none, walkEnded := false }
              fe := { levels := mapTable (·.level) tracked, pool := [], commits := u.fe.commits }
              mr := { s.mr with
                mute := mapTable (·.mute) tracked
                solo := Vector.replicate 16 false
                masters := mapTable (fun m => if m.demoted = true then m
                  else { m with since := 250000, lastSent := none }) s.mr.masters }
              st := { s.st with strips := u.st.strips }
              lp := (post .catchupDone ((s.sc.candidate.map (·.cue)).getD 0) (presentPeers s) s).lp
              cq := { s.cq with incoming := u.cq.incoming, buffer := u.cq.buffer }
              sp := { s.sp with
                effective := if stopRank (derivedStop s) < stopRank s.sp.effective then derivedStop s
                  else s.sp.effective } }
          ∧ (∀ ch : Channel,
              let x := s.st.strips[ch]
              let stalled := x.motor = .stalled
              ((isMotor s ch = true ∧ (x.touch = .touched ∨ ∃ left, x.touch = .hold left)) →
                u.st.strips[ch] = { x with
                  mode := .hand, hand := x.measured, motor := if stalled then .stalled else .off
                  rest := if stalled then x.rest else 0, stall := if stalled then x.stall else 0 })
              ∧ ((isMotor s ch = true ∧ (x.touch = .free ∨ ∃ held, x.touch = .pending held))
                  ∨ faderOf s ch = .absent → u.st.strips[ch] = { x with mode := .auto })
              ∧ (isPlain s ch = true →
                u.st.strips[ch] = { x with mode := .auto, park := x.measured, crossing := none }))
          ∧ (∀ empties rest : List GoEntry, s.cq.incoming = empties ++ rest →
              (∀ e ∈ empties, movesOf (cueTable s) e.cue = []) →
              (∀ e tail, rest = e :: tail → movesOf (cueTable s) e.cue ≠ [] →
                u.cq.incoming = { e with expanding := true } :: tail ∧ u.cq.buffer = .expanding e.cue
                  ∧ u.fe.commits = s.fe.commits ++ empties.map (fun e => { cue := e.cue, moves := [] }))
              ∧ (rest = [] → u.cq.incoming = []
                  ∧ u.fe.commits = s.fe.commits ++ empties.map (fun e => { cue := e.cue, moves := [] })
                  ∧ (s.cq.standby = none → u.cq.buffer = .empty)
                  ∧ ∀ n, s.cq.standby = some n →
                      u.cq.buffer = if movesOf (cueTable s) n = [] then .prefetched n [] else .prefetching n))
          ∧ ((∀ f, s.cq.follow = some f → f.left ≠ 0) ∨ u.sp.effective ≠ .none → exec .runEntry s = .next (settle u))
          ∧ (∀ f, s.cq.follow = some f → f.left = 0 → u.sp.effective = .none →
              (cannotSend s = true → exec .runEntry s = .next (settle
                (takeFire f.target s.sc.number.val .follow { u with cq := { u.cq with follow := none } })))
              ∧ (cannotSend s = false →
                ((∃ r ∈ s.cq.outgoing, r.kind = .fire ∧ r.cue = f.target) →
                  exec .runEntry s = .next (settle { u with cq := { u.cq with follow := none } }))
                ∧ ((∀ r ∈ s.cq.outgoing, ¬(r.kind = .fire ∧ r.cue = f.target)) →
                  (s.cq.outgoing.length < 4 → exec .runEntry s = .next (settle { u with cq := { u.cq with
                    follow := none
                    outgoing := s.cq.outgoing
                      ++ [{ kind := .fire, cue := f.target, origin := .follow, sent := false }] } }))
                  ∧ (4 ≤ s.cq.outgoing.length → exec .runEntry s = .next (settle
                    (post .requestRefused f.target (s.sc.number.val * 4 + 2)
                      { u with cq := { u.cq with follow := none } }))))))

/-- R94, R96, R150, R153: a PRESENT peer that goes LOST loses its solo and keeps its stop flags and last cue; PEER
LOST and, with a flag set, ORPHAN STOP are posted; its LIVE group entries become STALE, each with GROUP STALE, in
group order (log 5), and the masters it demoted return to HOSTING with their refresh due. The time since heard stands
at 400 ms or more (log 3), and the stop stays in force. Of a peer that is not PRESENT nothing is lost (log 4).
STATE_REFRESH in RUN requests a STATE frame and restarts the timer. Nothing else changes. -/
def Obligations.PeerLossAndStateRefresh : Prop :=
  (∀ (s : State) (p : Peer), s.sc.peers[p].presence = .present →
      ∃ t, exec (.peerLost p) s = .next (settle t)
        ∧ t.sc = { s.sc with peers := put s.sc.peers p { s.sc.peers[p] with
            presence := .lost, solo := false, heard := max s.sc.peers[p].heard 400000 } }
        ∧ t = { s with sc := t.sc, lp := t.lp, mr := { s.mr with groups := t.mr.groups, masters := t.mr.masters } }
        ∧ (∀ g : Group,
            (∀ e, s.mr.groups[g] = .owned e → e.owner = p → t.mr.groups[g] = .owned { e with stale := true })
            ∧ ((∀ e, s.mr.groups[g] = .owned e → e.owner ≠ p) → t.mr.groups[g] = s.mr.groups[g]))
        ∧ (∀ ch : Channel,
            ((∃ g e, hostOf s g = some ch ∧ s.mr.groups[g] = .owned e ∧ e.owner = p)
                ∧ s.mr.masters[ch].demoted = true →
              t.mr.masters[ch] = { demoted := false, lastSent := none, since := 250000 })
            ∧ ((∀ g e, hostOf s g = some ch → s.mr.groups[g] = .owned e → e.owner ≠ p)
                ∨ s.mr.masters[ch].demoted = false → t.mr.masters[ch] = s.mr.masters[ch]))
        ∧ t.lp = (groupNumbers.foldl (fun u g => match s.mr.groups[g] with
            | .owned e => if e.owner = p ∧ e.stale = false
              then post .groupStale (g.val + 1) (p.val + 1) u else u
            | .unowned => u)
          (let lost := post .peerLost (p.val + 1) (s.sc.peers[p].last.getD 0) s
          if s.sc.peers[p].stopA = false ∧ s.sc.peers[p].stopB = false then lost
          else post .orphanStop (p.val + 1) ((if s.sc.peers[p].stopA = true then 1 else 0)
            + (if s.sc.peers[p].stopB = true then 2 else 0)) lost)).lp)
    ∧ (∀ (s : State) (p : Peer), s.sc.peers[p].presence ≠ .present →
        exec (.peerLost p) s = .next (settle s))
    ∧ ∀ s : State, s.sc.state = .run →
        exec .stateRefresh s = .next (settle { s with sc := { s.sc with stateRequest := true, refresh := some 0 } })

/-- R145, R151, R152, R169: a STATE or STOP frame of a PRESENT peer. STATE overwrites the entry's solo, stop flags and
last cue and in LISTEN sets the candidate, unless it names the candidate's cue or none (its age counts from 0, log 40);
ASSERT sets the sender's flag;
RELEASE clears that of the sender itself, or of a LOST station it names, and no other. A flag set acts on the
effective stop at once; a flag cleared does not. -/
def Obligations.StateAndStopFramesWriteThePeer : Prop :=
  ∀ (groups : List (BitVec 5)) (p : Peer) (repeated : Bool) (payload : Payload) (s : State),
    (readFrame groups).result = .ok (p, repeated, payload) →
    (repeated = false ∨ s.bc.copies[p].get (payloadClass payload) ≠ some payload) → readsFrame s = true →
    peerNumber p ≠ s.sc.number.val → s.sc.peers[p].presence = .present →
      let bc : BusController := { s.bc with
        phase := .idle, gap := 0, run := lastRun groups, lineHeld := false
        copies := put s.bc.copies p (s.bc.copies[p].set (payloadClass payload) (some payload)) }
      let heard := put s.sc.peers p { s.sc.peers[p] with heard := 0 }
      let raised (t : State) : EffectiveStop :=
        if stopRank s.sp.effective < stopRank (derivedStop t) then derivedStop t else s.sp.effective
      (∀ solo a b last, payload = .state solo a b last →
        ∃ t, exec (.frameReceived groups) s = .next (settle t)
          ∧ t = { s with
              bc := bc
              sc := { s.sc with
                peers := put s.sc.peers p { s.sc.peers[p] with
                  heard := 0, solo := solo, stopA := a, stopB := b, last := last }
                candidate := t.sc.candidate }
              sp := { s.sp with effective := raised t } }
          ∧ (s.sc.state ≠ .listen ∨ last = none → t.sc.candidate = s.sc.candidate)
          ∧ (s.sc.state = .listen → ∀ c, last = some c →
              ((∃ x, s.sc.candidate = some x ∧ x.cue = c) → t.sc.candidate = s.sc.candidate)
              ∧ ((∀ x, s.sc.candidate = some x → x.cue ≠ c) →
                t.sc.candidate = some { cue := c, source := .state, age := 0 })))
      ∧ (∀ k target, payload = .stop false k target →
        ∃ t, exec (.frameReceived groups) s = .next (settle t)
          ∧ t = { s with
              bc := bc
              sc := { s.sc with peers := put s.sc.peers p { s.sc.peers[p] with
                heard := 0
                stopA := if k = .a then true else s.sc.peers[p].stopA
                stopB := if k = .b then true else s.sc.peers[p].stopB } }
              sp := { s.sp with effective := raised t } })
      ∧ (∀ k (target : Peer), payload = .stop true k target.succ →
        (target = p ∨ (peerNumber target ≠ s.sc.number.val ∧ s.sc.peers[target].presence = .lost) →
          exec (.frameReceived groups) s = .next (settle { s with
            bc := bc
            sc := { s.sc with peers := put heard target { heard[target] with
              stopA := if k = .a then false else heard[target].stopA
              stopB := if k = .b then false else heard[target].stopB } } }))
        ∧ (target ≠ p → peerNumber target = s.sc.number.val ∨ s.sc.peers[target].presence ≠ .lost →
          exec (.frameReceived groups) s
            = .next (settle { s with bc := bc, sc := { s.sc with peers := heard } })))


/-! ## Show stop (chapter 9) -/

/-- R159, R160, R163: the stop lines. A departure of the raw input from the debounced state runs the debounce timer
and a return stops it. A line assertion is the line's alone while show memory is INVALID and in ANNOUNCING and HELD; a
CLEAR machine of a station that can announce announces; in RELEASING a frame not yet won is withdrawn, on the bus as
at a lost arbitration (log 15), and one in flight stands. A line release is the line's alone unless it meets the
release condition of a HELD machine. -/
def Obligations.StopLinesReachTheirMachines : Prop :=
  ∀ (s : State) (k : StopKind),
    let l := lineOf s k
    let m := machineOf s k
    (∀ b, exec (.stopLineInputChange k b) s = .next (setLine s k { l with
        raw := b, timer := if b = l.asserted then none else some (l.timer.getD 0) }))
      ∧ (l.raw = true → l.asserted = false →
          let asserted := setLine s k { l with asserted := true, timer := none }
          (s.sm.image = none ∨ m.state = .announcing ∨ m.state = .held
              ∨ (m.state = .releasing ∧ ∃ f, s.bc.stopFlight = some f ∧ f.payload = .stop true k s.sc.number) →
            exec (.lineAssertion k) s = .next (settle asserted))
          ∧ (s.sm.image ≠ none → m.state = .clear → canAnnounce s = true →
            exec (.lineAssertion k) s = .next (settle (setMachine asserted k { m with state := .announcing })))
          ∧ (s.sm.image ≠ none → (m.state = .clear ∧ canAnnounce s = false)
              ∨ (m.state = .releasing ∧ ∀ f, s.bc.stopFlight = some f → f.payload ≠ .stop true k s.sc.number) →
            ∃ t, exec (.lineAssertion k) s = .next (settle t)
              ∧ machineOf t k = { m with state := .held }
              ∧ (∀ j, j ≠ k → machineOf t j = machineOf s j ∧ lineOf t j = lineOf s j)
              ∧ lineOf t k = { l with asserted := true, timer := none }
              ∧ t.lp = (post .stopChange (kindCode k) 2 s).lp
              ∧ t.sc = { s.sc with stateRequest := s.sc.stateRequest || s.sc.state == .run }
              ∧ t.sp.effective = (if stopRank s.sp.effective < stopRank (derivedStop t)
                  then derivedStop t else s.sp.effective)
              ∧ t = { s with bc := t.bc, sc := t.sc, lp := t.lp, sp := t.sp }
              ∧ (s.bc.sending = some { payload := .stop true k s.sc.number, won := false } →
                  m.state = .releasing → t.bc = { s.bc with phase := .receiving, sending := none })
              ∧ (s.bc.sending ≠ some { payload := .stop true k s.sc.number, won := false }
                  ∨ m.state = .clear → t.bc = s.bc)))
      ∧ (l.raw = false → l.asserted = true →
          let released := setLine s k { l with asserted := false, timer := none }
          let meets := m.state = .held ∧ (stopModeOf s k = .follow ∨ m.ack = true)
          (s.sm.image = none ∨ ¬meets → exec (.lineRelease k) s = .next (settle released))
          ∧ (s.sm.image ≠ none → meets → canAnnounce s = true →
            exec (.lineRelease k) s
              = .next (settle (setMachine released k { state := .releasing, ack := false })))
          ∧ (s.sm.image ≠ none → meets → canAnnounce s = false →
            ∃ t, exec (.lineRelease k) s = .next (settle t)
              ∧ machineOf t k = { state := .clear, ack := false }
              ∧ (∀ j, j ≠ k → machineOf t j = machineOf s j ∧ lineOf t j = lineOf s j)
              ∧ lineOf t k = { l with asserted := false, timer := none }
              ∧ t.lp = (post .stopChange (kindCode k) 0 s).lp
              ∧ t.sc = { s.sc with stateRequest := s.sc.stateRequest || s.sc.state == .run }
              ∧ t.sp.effective = s.sp.effective
              ∧ t = { s with sc := t.sc, lp := t.lp, sp := t.sp }))

/-- R161 to R164, R167: the end of an own STOP frame, completed or abandoned alike. ASSERT takes ANNOUNCING to HELD,
with STOP CHANGE and the stop in force (log 13); where the release condition is met the machine goes on, to RELEASING
where the station can announce and to CLEAR with a second STOP CHANGE where it cannot. RELEASE takes RELEASING to
CLEAR, and with the line asserted on to ANNOUNCING, or to HELD where the station cannot announce; an orphan release
empties its slot and clears the flag of a peer that is still LOST. -/
def Obligations.StopFramesMoveTheMachines : Prop :=
  ∀ (s : State) (completed : Bool) (k : StopKind),
    let m := machineOf s k
    let cleared := post .stopChange (kindCode k) 0 s
    let held := post .stopChange (kindCode k) 2 s
    let raised (u : State) : EffectiveStop :=
      if stopRank s.sp.effective < stopRank (derivedStop u) then derivedStop u else s.sp.effective
    let others (t : State) : Prop :=
      (∀ j, lineOf t j = lineOf s j ∧ (j ≠ k → machineOf t j = machineOf s j))
        ∧ t.sc = { s.sc with stateRequest := s.sc.stateRequest || s.sc.state == .run }
        ∧ t = { s with sc := t.sc, lp := t.lp, sp := { s.sp with
            machineA := t.sp.machineA, machineB := t.sp.machineB, effective := t.sp.effective } }
    (∀ t, t = frameEnd completed (.stop false k s.sc.number) s → m.state = .announcing →
        others t ∧ t.sp.effective = raised (setMachine s k { m with state := .held })
          ∧ (releaseCondition s k = false → machineOf t k = { m with state := .held } ∧ t.lp = held.lp)
          ∧ (releaseCondition s k = true → canAnnounce s = true →
            machineOf t k = { state := .releasing, ack := false } ∧ t.lp = held.lp)
          ∧ (releaseCondition s k = true → canAnnounce s = false →
            machineOf t k = { state := .clear, ack := false }
              ∧ t.lp = (post .stopChange (kindCode k) 0 held).lp))
      ∧ (∀ t, t = frameEnd completed (.stop true k s.sc.number) s → m.state = .releasing →
          others t
            ∧ ((lineOf s k).asserted = false ∨ canAnnounce s = true →
              machineOf t k
                  = { state := if (lineOf s k).asserted = true then .announcing else .clear, ack := false }
                ∧ t.lp = cleared.lp ∧ t.sp.effective = s.sp.effective)
            ∧ ((lineOf s k).asserted = true → canAnnounce s = false →
              machineOf t k = { state := .held, ack := false }
                ∧ t.lp = (post .stopChange (kindCode k) 2 cleared).lp ∧ t.sp.effective = raised t))
      ∧ (∀ p : Peer, s.sp.orphan = some (k, p) → p.succ ≠ s.sc.number →
          let cleared := put s.sc.peers p { s.sc.peers[p] with
            stopA := if k = .a then false else s.sc.peers[p].stopA
            stopB := if k = .b then false else s.sc.peers[p].stopB }
          frameEnd completed (.stop true k p.succ) s = { s with
            sp := { s.sp with orphan := none }
            sc := { s.sc with peers := if s.sc.peers[p].presence = .lost then cleared else s.sc.peers } })

/-- R165, R166: STOP RELEASE by the first row that applies. For the own number: WRONG STATE in FOLLOW mode and for a
CLEAR or RELEASING machine, else OK with the acknowledgement set, which takes a HELD machine whose line is released to
RELEASING, or to CLEAR with STOP CHANGE on a station that cannot announce. For a peer: BAD ARGUMENT unless it is LOST with the flag set; OK for the release already in the slot and
FULL for another; else the slot takes it where the station can announce, and the flag is cleared at once where it
cannot. -/
def Obligations.StopReleaseAnswersByItsRows : Prop :=
  ∀ (kind target : Byte) (s : State),
    let answered (u : State) (r : PortResult) : State := { u with lp := { u.lp with port := .answered r [] 0 } }
    let returns (r : PortResult) := exec (.stopRelease kind target) s = .next (settle (answered s r))
    s.lp.port = .reading →
    (s.sc.state = .validating → returns .busy)
      ∧ (s.sc.state = .load ∨ s.sc.state = .loadFault → returns .wrongState)
      ∧ (s.sc.state = .listen ∨ s.sc.state = .catchup ∨ s.sc.state = .run →
        (1 < kind.toNat → returns .badArgument)
        ∧ (kind.toNat ≤ 1 →
          let k : StopKind := if kind.toNat = 0 then .a else .b
          let m := machineOf s k
          (target.toNat = s.sc.number.val →
            (stopModeOf s k = .follow ∨ m.state = .clear ∨ m.state = .releasing → returns .wrongState)
            ∧ (stopModeOf s k = .latched →
              (m.state = .announcing ∨ (m.state = .held ∧ (lineOf s k).asserted = true) →
                exec (.stopRelease kind target) s
                  = .next (settle (answered (setMachine s k { m with ack := true }) .ok)))
              ∧ (m.state = .held → (lineOf s k).asserted = false → canAnnounce s = true →
                exec (.stopRelease kind target) s
                  = .next (settle (answered (setMachine s k { state := .releasing, ack := false }) .ok)))
              ∧ (m.state = .held → (lineOf s k).asserted = false → canAnnounce s = false →
                exec (.stopRelease kind target) s = .next (settle (answered
                  { post .stopChange (kindCode k) 0 (setMachine s k { state := .clear, ack := false }) with
                    sc := { s.sc with stateRequest := s.sc.stateRequest || s.sc.state == .run } } .ok)))))
          ∧ (target.toNat ≠ s.sc.number.val → target.toNat = 0 ∨ 31 < target.toNat → returns .badArgument)
          ∧ (∀ p : Peer, target.toNat = peerNumber p → peerNumber p ≠ s.sc.number.val →
            (s.sc.peers[p].presence ≠ .lost ∨ s.sc.peers[p].stop k = false → returns .badArgument)
            ∧ (s.sc.peers[p].presence = .lost → s.sc.peers[p].stop k = true →
              (s.sp.orphan = some (k, p) → returns .ok)
              ∧ (∀ o, s.sp.orphan = some o → o ≠ (k, p) → returns .full)
              ∧ (s.sp.orphan = none →
                let cleared := put s.sc.peers p { s.sc.peers[p] with
                  stopA := if k = .a then false else s.sc.peers[p].stopA
                  stopB := if k = .b then false else s.sc.peers[p].stopB }
                (canAnnounce s = true → exec (.stopRelease kind target) s
                  = .next (settle (answered { s with sp := { s.sp with orphan := some (k, p) } } .ok)))
                ∧ (canAnnounce s = false → exec (.stopRelease kind target) s
                  = .next (settle (answered { s with sc := { s.sc with peers := cleared } } .ok))))))))


/-! ## The load port and the event queue (chapter 10) -/

/-- R171, R172, R182: the code byte and its arguments spell the command, what follows them is ignored, and a code not
listed is UNKNOWN COMMAND. A command acts in a transaction that has taken none; elsewhere, and cut short, it does
nothing. In a state whose row gives WRONG STATE or BUSY it answers that with no effect; an unlisted code answers
UNKNOWN COMMAND in every state. The response is the result code and then the data. The data output carries 0 in the
command and argument bytes, and in any byte after the response (`dataOutput`, an output of the part). -/
def Obligations.PortCommandsAnswerTheStateRows : Prop :=
  (∀ (s : State) (arg : Byte), s.lp.port = .reading →
    let returns (c : Instr) (r : PortResult) :=
      exec c s = .next { s with lp := { s.lp with port := .answered r [] 0 } }
    (∀ c, c = .readChannel arg ∨ c = .clearMotor arg ∨ c = .restart →
        (s.sc.state = .validating → returns c .busy)
          ∧ (s.sc.state = .load ∨ s.sc.state = .loadFault → returns c .wrongState))
      ∧ (s.sc.state = .validating → returns .loadBegin .busy)
      ∧ (s.sc.state = .listen ∨ s.sc.state = .catchup ∨ s.sc.state = .run → returns .loadBegin .wrongState)
      ∧ (∀ c, c = .loadEnd ∨ (∃ length data, c = .loadData length data ∧ data.length = length.toNat) →
          (s.sc.state = .validating → returns c .busy)
            ∧ (s.sc.state ≠ .load → s.sc.state ≠ .validating → returns c .wrongState))
      ∧ (s.sc.state = .load → returns (.loadData 0 []) .badArgument)
      ∧ ∀ code, unknownCodeOk code = true → returns (.unknownCommand code) .unknownCommand)
    ∧ (∀ (s : State) (length : Byte) (data : List Byte), data.length < length.toNat →
        exec (.loadData length data) s = .next s)
    ∧ (∀ (s : State) (bytes : List Byte) (c : Instr), s.lp.port ≠ .reading → readCommand bytes = some c →
        (c = .go ∨ (∃ cue, c = .fire cue) ∨ (∃ cue, c = .standby cue)
            ∨ (∃ kind target, c = .stopRelease kind target) → exec c s = .next (settle s))
          ∧ (c ≠ .go → (∀ cue, c ≠ .fire cue) → (∀ cue, c ≠ .standby cue)
            → (∀ kind target, c ≠ .stopRelease kind target) → exec c s = .next s))
    ∧ readCommand [] = none
    ∧ (∀ (rest data : List Byte) (a b d : Byte),
        readCommand (0x01 :: rest) = some .readStatus ∧ readCommand (0x02 :: a :: rest) = some (.readEvents a)
        ∧ readCommand (0x03 :: a :: rest) = some (.readChannel a) ∧ readCommand (0x04 :: a :: rest) = some (.readPeer a)
        ∧ readCommand (0x05 :: a :: rest) = some (.readGroup a) ∧ readCommand (0x10 :: rest) = some .loadBegin
        ∧ (data.length = a.toNat → readCommand (0x11 :: a :: (data ++ rest)) = some (.loadData a data))
        ∧ (data.length < a.toNat → readCommand (0x11 :: a :: data) = none)
        ∧ readCommand (0x12 :: rest) = some .loadEnd ∧ readCommand (0x20 :: rest) = some .go
        ∧ readCommand (0x21 :: a :: b :: d :: rest) = some (.fire (a ++ b ++ d))
        ∧ readCommand (0x22 :: a :: b :: d :: rest) = some (.standby (a ++ b ++ d))
        ∧ readCommand (0x30 :: a :: b :: rest) = some (.stopRelease a b)
        ∧ readCommand (0x31 :: a :: rest) = some (.clearMotor a) ∧ readCommand (0x32 :: rest) = some .restart
        ∧ (a ∉ ([0x01, 0x02, 0x03, 0x04, 0x05, 0x10, 0x11, 0x12, 0x20, 0x21, 0x22, 0x30, 0x31, 0x32] : List Byte) →
          readCommand (a :: rest) = some (.unknownCommand a) ∧ unknownCodeOk a = true))
    ∧ (∀ code ∈ ([0x02, 0x03, 0x04, 0x05, 0x11, 0x21, 0x22, 0x30, 0x31] : List Byte), readCommand [code] = none)
    ∧ (∀ a b : Byte, readCommand [0x21, a] = none ∧ readCommand [0x21, a, b] = none ∧ readCommand [0x22, a] = none
        ∧ readCommand [0x22, a, b] = none ∧ readCommand [0x30, a] = none)
    ∧ responseBytes .idle = [] ∧ responseBytes .reading = []
    ∧ (∀ (clocked : List Byte) (port : Port) (place : Nat),
        (∀ n, commandSize clocked = some n ↔ n ≤ clocked.length ∧ (∃ c, readCommand (clocked.take n) = some c)
            ∧ ∀ m, m < n → readCommand (clocked.take m) = none)
          ∧ (readCommand clocked = none → dataOutput clocked port place = 0)
          ∧ ∀ n, commandSize clocked = some n →
              (place < n → dataOutput clocked port place = 0)
                ∧ (∀ b, (responseBytes port)[place]? = some b → dataOutput clocked port (n + place) = b)
                ∧ ((responseBytes port).length ≤ place → dataOutput clocked port (n + place) = 0))
    ∧ ∀ (data : List Byte) (records : Nat),
        responseBytes (.answered .ok data records) = 0 :: data
        ∧ responseBytes (.answered .wrongState [] 0) = [1] ∧ responseBytes (.answered .badArgument [] 0) = [2]
        ∧ responseBytes (.answered .full [] 0) = [3] ∧ responseBytes (.answered .busy [] 0) = [4]
        ∧ responseBytes (.answered .stopped [] 0) = [5] ∧ responseBytes (.answered .unknownCommand [] 0) = [6]

/-- R80, R101, R121, R140, R158, R173, R179, R182: the four record reads in their byte layouts, each value as it
stands at the read. READ STATUS, READ PEER and READ GROUP answer in every state, READ CHANNEL in LISTEN, CATCHUP and
RUN; a number out of range answers BAD ARGUMENT; a read changes nothing but the response. The codes of states, roles,
modes, motors, presence and load fault reasons are those listed. The bits the
layout does not name are 0 (log 37), a mute byte of READ GROUP is 1 for muted (log 38), and with no load fault to report
the offset bytes of READ STATUS are 0 beside its reason byte (log 41). -/
def Obligations.ReadsReturnTheState : Prop :=
  [StationState.load, .validating, .loadFault, .listen, .catchup, .run].map stateCode = [0, 1, 2, 3, 4, 5]
  ∧ [BusPhase.idle, .receiving, .sending, .broken, .fault].map busPhaseCode = [0, 1, 2, 3, 4]
  ∧ [EffectiveStop.none, .b, .a].map stopCode = [0, 1, 2]
  ∧ [MachineState.clear, .announcing, .held, .releasing].map machineCode = [0, 1, 2, 3]
  ∧ (roleCode .unused = 0 ∧ (∀ members safe, roleCode (.audio members safe) = 1) ∧ ∀ g, roleCode (.master g) = 2)
  ∧ [Mode.auto, .hand].map modeCode = [0, 1]
  ∧ (∀ up down : Nat,
      [Motor.off, .brake, .driveUp up, .driveDown down, .rest, .stalled].map motorCode = [0, 1, 2, 3, 4, 5])
  ∧ [Presence.absent, .present, .lost].map presenceCode = [0, 1, 2]
  ∧ [LoadFaultReason.crcMismatch, .badVersion, .size, .badChannelEntry, .duplicateMaster, .cueOrder, .moveChannel,
      .badValue, .followTarget].map loadFaultCode = [1, 2, 3, 4, 5, 6, 7, 8, 9]
  ∧ ∀ s : State, s.lp.port = .reading →
    let reads (c : Instr) (bytes : List Nat) := ∃ data : List Byte, data.map (·.toNat) = bytes
      ∧ exec c s = .next { s with lp := { s.lp with port := .answered .ok data 0 } }
    let refused (c : Instr) := exec c s = .next { s with lp := { s.lp with port := .answered .badArgument [] 0 } }
    let two (n : Nat) : List Nat := [n / 256 % 256, n % 256]
    let three (n : Nat) : List Nat := [n / 65536 % 256, n / 256 % 256, n % 256]
    let flag (b : Bool) (n : Nat) := if b = true then n else 0
    (QueuesBounded s → reads .readStatus
        ([s.sc.number.val, stateCode s.sc.state,
          flag (s.sc.number == 0) 128 + flag s.sc.txMuted 64 + flag (globalSolo s) 32 + busPhaseCode s.bc.phase,
          stopCode s.sp.effective * 64 + machineCode s.sp.machineA.state * 16 + machineCode s.sp.machineB.state * 4]
        ++ three (s.cq.standby.getD 0) ++ three (s.cq.last.getD 0)
        ++ [s.cq.incoming.length * 16 + s.cq.outgoing.length, s.lp.queue.length]
        ++ (match s.lp.lastFault with
          | some (reason, offset) => loadFaultCode reason :: three offset
          | none => [0, 0, 0, 0])))
      ∧ (∀ (arg : Byte) (ch : Channel), arg.toNat = ch.val + 1 → s.fe.pool.length ≤ 64 →
          s.sc.state = .listen ∨ s.sc.state = .catchup ∨ s.sc.state = .run →
          reads (.readChannel arg)
            ([roleCode (roleOf s ch), modeCode s.st.strips[ch].mode]
            ++ two s.fe.levels[ch].val ++ two s.st.strips[ch].hand.val ++ two s.st.strips[ch].measured.val
            ++ two s.mr.applied[ch].val
            ++ [flag s.mr.mute[ch] 128 + flag s.mr.solo[ch] 64 + flag s.mr.headroom[ch] 32,
              motorCode s.st.strips[ch].motor,
              (s.fe.pool.filter (fun r => r.isLevel && r.channel == ch)).length]))
      ∧ (∀ (arg : Byte) (p : Peer), arg.toNat = peerNumber p → s.sc.peers[p].heard ≤ 65535000 →
          reads (.readPeer arg)
            ([presenceCode s.sc.peers[p].presence,
              flag s.sc.peers[p].solo 128 + flag s.sc.peers[p].stopA 64 + flag s.sc.peers[p].stopB 32]
            ++ three (s.sc.peers[p].last.getD 0) ++ two (s.sc.peers[p].heard / 1000)))
      ∧ (∀ (arg : Byte) (g : Group), arg.toNat = g.val + 1 →
          reads (.readGroup arg)
            ((match s.mr.groups[g] with
              | .unowned => [0, 0] ++ two 768 ++ [0, 0, 0]
              | .owned e => [if e.stale = true then 2 else 1, e.owner.val + 1] ++ two e.position.val
                  ++ [flag e.mute 1] ++ two (e.age / 1000))
            ++ match hostOf s g with
              | none => [0, 0, 0, 0, 0, 0, 0, 0, 0, 0, 0, 0]
              | some ch => [1, ch.val + 1, flag s.mr.masters[ch].demoted 1] ++ two (sourcePosition s ch).val
                  ++ [flag s.mr.mute[ch] 1]
                  ++ (match s.mr.masters[ch].lastSent with
                    | some (position, mute) => 1 :: two position.val ++ [flag mute 1]
                    | none => [0, 0, 0, 0])
                  ++ two (s.mr.masters[ch].since / 1000)))
      ∧ ∀ arg : Byte,
          (arg.toNat = 0 ∨ 31 < arg.toNat → refused (.readPeer arg))
            ∧ (arg.toNat = 0 ∨ 32 < arg.toNat → refused (.readGroup arg))
            ∧ (s.sc.state = .listen ∨ s.sc.state = .catchup ∨ s.sc.state = .run →
                arg.toNat = 0 ∨ 16 < arg.toNat → refused (.readChannel arg))

/-- R171, R176 to R178, R183: the event queue. A post appends its record, stamped, at the tail; into a full queue it
drops the oldest and flags the one then oldest; the pending gap mark flags a record posted to an empty queue. A record
is 8 bytes: gap flag and kind code, 1 to 24 in the order of the event table, the timestamp, and two arguments of 20
bits, in which classes, stop kinds, origin kinds and frame error reasons have the codes listed. READ EVENTS moves the oldest records into the response; where the transaction ends before the last of them is
out, the record then oldest is flagged, or the mark set. Posts and reads reload the stale timer; ATTN stands under its
condition after each. Chip select low begins a transaction, and the bytes clocked out are CHIP_SELECT_HIGH's operand
(log 19); before a command is taken, or after one that answers anything but OK, it ends the transaction with no other
effect. The end of a running stale timer expires it (log 3). -/
def Obligations.EventsAreQueuedAndRead : Prop :=
  (∀ (kind : EventKind) (first second : Nat) (s : State),
      let r (gap : Bool) : EventRecord :=
        { kind := kind, gap := gap, stamp := s.sc.stamp / 1000, first := first, second := second }
      ∃ queue, post kind first second s = { s with lp := { s.lp with
          queue := queue
          gapPending := s.lp.gapPending && !s.lp.queue.isEmpty
          stale := if staleTime s = 0 then .off else .running (staleTime s)
          attn := attnCondition (post kind first second s) } }
        ∧ (s.lp.queue = [] → queue = [r s.lp.gapPending])
        ∧ (s.lp.queue ≠ [] → s.lp.queue.length < 64 → queue = s.lp.queue ++ [r false])
        ∧ ∀ lost oldest rest, s.lp.queue = lost :: oldest :: rest → s.lp.queue.length = 64 →
            queue = { oldest with gap := true } :: rest ++ [r false])
    ∧ (∀ s : State, attnCondition s = true ↔ eventThreshold s ≤ s.lp.queue.length
        ∨ (s.lp.queue ≠ [] ∧ s.lp.stale = .expired))
    ∧ (∀ (s : State) (arg : Byte), s.lp.port = .reading →
        (1 ≤ arg.toNat → arg.toNat ≤ 64 → ∃ t, exec (.readEvents arg) s = .next t
          ∧ t = { s with lp := { s.lp with
              queue := s.lp.queue.drop arg.toNat
              stale := if staleTime s = 0 then .off else .running (staleTime s)
              port := .answered .ok (BitVec.ofNat 8 (min arg.toNat s.lp.queue.length)
                :: (s.lp.queue.take arg.toNat).flatMap recordBytes) (min arg.toNat s.lp.queue.length)
              attn := attnCondition t } })
        ∧ (arg.toNat = 0 ∨ 64 < arg.toNat →
          exec (.readEvents arg) s = .next { s with lp := { s.lp with port := .answered .badArgument [] 0 } }))
    ∧ (∀ r : EventRecord, r.stamp < 65536 → r.first < 1048576 → r.second < 1048576 →
        (recordBytes r).map (·.toNat) = [(if r.gap = true then 128 else 0) + eventCode r.kind,
          r.stamp / 256, r.stamp % 256, r.first / 4096, r.first / 16 % 256,
          r.first % 16 * 16 + r.second / 65536, r.second / 256 % 256, r.second % 256])
    ∧ ([.cueFired, .cueAbsorbed, .goRefused, .goQueueFull, .requestRefused, .endOfList, .poolFull, .moveHeldOff,
        .motorStall, .headroom, .groupConflict, .groupStale, .peerJoined, .peerLost, .orphanStop, .duplicateStation,
        .catchupDone, .restart, .stopChange, .frameError, .txAbandoned, .busFault, .busRestored,
        .loadFault].map eventCode = List.range' 1 24)
    ∧ ([FrameClass.stop, .cue, .group, .state].map FrameClass.code = [0, 1, 2, 3]
      ∧ [StopKind.a, .b].map kindCode = [0, 1] ∧ [OriginKind.key, .port, .follow].map originCode = [0, 1, 2]
      ∧ [FrameFault.guard, .crc, .field, .senderZero].map frameFaultCode = [0, 1, 2, 3])
    ∧ (∀ s : State, exec .chipSelectLow s = .next { s with lp := { s.lp with port := .reading } })
    ∧ (∀ (s : State) (clocked k : Nat) (data : List Byte), s.lp.port = .answered .ok data k →
        (k = 0 ∨ 2 + 8 * k ≤ clocked →
          exec (.chipSelectHigh clocked) s = .next { s with lp := { s.lp with port := .idle } })
        ∧ (0 < k → clocked < 2 + 8 * k →
          (s.lp.queue = [] → exec (.chipSelectHigh clocked) s
            = .next { s with lp := { s.lp with port := .idle, gapPending := true } })
          ∧ ∀ oldest rest, s.lp.queue = oldest :: rest → exec (.chipSelectHigh clocked) s
            = .next { s with lp := { s.lp with port := .idle, queue := { oldest with gap := true } :: rest } }))
    ∧ (∀ (s : State) (clocked : Nat), s.lp.port = .idle ∨ s.lp.port = .reading
          ∨ (∃ result data k, result ≠ PortResult.ok ∧ s.lp.port = .answered result data k) →
        exec (.chipSelectHigh clocked) s = .next { s with lp := { s.lp with port := .idle } })
    ∧ ∀ (s : State) (left : Micros), s.lp.stale = .running left →
        exec .staleTimerExpiry s = .next { s with lp := { s.lp with
          stale := .expired, attn := attnCondition { s with lp := { s.lp with stale := .expired } } } }

/-! ## Every step -/

/-- R17, R29, R36, R47, R58, R143, R174, R176, R178: from every state in which they hold, a step keeps show memory in
canonical form, the queues and the pool within their sizes, the requests distinct, a VALID image the one validation
made of the loaded bytes and in force exactly in LISTEN, CATCHUP and RUN, and ATTN asserted exactly under its
condition. -/
def Obligations.StepKeepsMemoryQueuesAndAttn : Prop :=
  ∀ s t : State, MemoryInOrder s ∧ QueuesBounded s ∧ RequestsDistinct s ∧ ImageInForce s ∧ AttnTrue s →
    step s = .next t →
      MemoryInOrder t ∧ QueuesBounded t ∧ RequestsDistinct t ∧ ImageInForce t ∧ AttnTrue t

/-- R4, R104, R107, R115, R120: from every state in which they hold, with the image in force as it is, a step keeps
the mix and the motors quiet outside RUN and the hands to the channels that may have them; a motor then carries drive
only in RUN and never with its touch TOUCHED. -/
def Obligations.StepKeepsMotorsFromHands : Prop :=
  ∀ s t : State, ImageInForce s ∧ QuietOutsideRun s ∧ HandsHaveMotors s → step s = .next t →
    QuietOutsideRun t ∧ HandsHaveMotors t ∧ NoDriveAgainstHand t

/-- R58, R62, R69, R73: from every state in which they hold, with the conditions on image, strips and pool as they
are, a step keeps at most one RUNNING record on a channel, no LEVEL record on a channel held under KEEP, and the cue
level of every RUNNING record at its fade level, its elapsed count below its duration. -/
def Obligations.StepKeepsFadesOnTheirLevels : Prop :=
  ∀ s t : State, ImageInForce s ∧ QuietOutsideRun s ∧ HandsHaveMotors s →
    OneRunningRecord s ∧ HeldChannelsFree s ∧ LevelsOnTheirFades s → step s = .next t →
      OneRunningRecord t ∧ HeldChannelsFree t ∧ LevelsOnTheirFades t

/-- R139, R142, R144, R148, R160, R169: from every state in which they hold, a step keeps the flags of ABSENT peers
and the own entry clear, the effective stop at or above the derived stop, a follower silent, and every station silent
and without a frame to send outside RUN. -/
def Obligations.StepKeepsStopsAndSilence : Prop :=
  ∀ s t : State,
    AbsentPeersClear s ∧ OwnEntryUntouched s ∧ StopCovered s ∧ FollowerSilent s ∧ SilentOutsideRun s →
      step s = .next t →
        AbsentPeersClear t ∧ OwnEntryUntouched t ∧ StopCovered t ∧ FollowerSilent t ∧ SilentOutsideRun t

/-- The state after a cold reset is one the statements about every step start from. -/
def Obligations.ResetStateMeetsEveryCondition : Prop :=
  exec (.coldReset 0) State.reset = .next State.reset
    ∧ MemoryInOrder State.reset ∧ QueuesBounded State.reset ∧ RequestsDistinct State.reset
    ∧ ImageInForce State.reset ∧ AttnTrue State.reset ∧ QuietOutsideRun State.reset ∧ HandsHaveMotors State.reset
    ∧ OneRunningRecord State.reset ∧ HeldChannelsFree State.reset ∧ LevelsOnTheirFades State.reset
    ∧ AbsentPeersClear State.reset ∧ OwnEntryUntouched State.reset ∧ StopCovered State.reset
    ∧ FollowerSilent State.reset ∧ SilentOutsideRun State.reset

/-- R17, R142 to R144, R155, R174: what only these commands change: RUN ends at a reset alone; the bytes of show
memory and its length are written by LOAD BEGIN and LOAD DATA alone and its length zeroed by a cold reset; the station
number is read by a cold reset alone; a set TX-muted flag stands until a reset. That the bytes stand over a COLD_RESET
is the model's (log 8). -/
def Obligations.OnlyTheseCommandsChange : Prop :=
  ∀ (c : Instr) (s t : State), exec c s = .next t →
    (s.sc.state = .run → (∀ straps, c ≠ .coldReset straps) → c ≠ .restart → t.sc.state = .run)
      ∧ (c ≠ .loadBegin → (∀ length data, c ≠ .loadData length data) → t.sm.bytes = s.sm.bytes
          ∧ ((∀ straps, c ≠ .coldReset straps) → t.lp.offset = s.lp.offset))
      ∧ ((∀ straps, c ≠ .coldReset straps) → t.sc.number = s.sc.number)
      ∧ (s.sc.txMuted = true → (∀ straps, c ≠ .coldReset straps) → c ≠ .restart → t.sc.txMuted = true)
      ∧ t.pending = s.pending


end
end

