-- ==== Sys2Proof/Laws/Fold.lean ====
section
/-! SUPPORT. Folds over a list of channels, groups or peers: what each place holds afterwards, and what is kept. -/

namespace Sys2Proof.Machine

/-- A property every turn keeps holds after the fold. -/
theorem foldl_keeps {σ ι : Type} {P : σ → Prop} {f : σ → ι → σ} (hf : ∀ s i, P s → P (f s i)) (l : List ι) {s : σ}
    (hs : P s) : P (l.foldl f s) := by
  induction l generalizing s with
  | nil => exact hs
  | cons i rest ih => exact ih (hf s i hs)

/-- A part no turn changes is unchanged after the fold. -/
theorem foldl_frame {σ ι β : Type} {f : σ → ι → σ} (view : σ → β) (hf : ∀ s i, view (f s i) = view s) (l : List ι)
    (s : σ) : view (l.foldl f s) = view s :=
  foldl_keeps (P := fun t => view t = view s) (fun t i h => (hf t i).trans h) l rfl

/-- Where each turn writes its own place alone, and reads nothing another turn writes, each place of the list holds
after the fold what its own turn gives it from the state before, and every other place is unchanged. -/
theorem foldl_places {σ ι β : Type} [DecidableEq ι] {f : σ → ι → σ} (view new : σ → ι → β)
    (same : ∀ s i, view (f s i) i = new s i) (other : ∀ s i j, i ≠ j → view (f s i) j = view s j)
    (reads : ∀ s i j, i ≠ j → new (f s i) j = new s j) (l : List ι) (hl : l.Nodup) (s : σ) (j : ι) :
    view (l.foldl f s) j = if j ∈ l then new s j else view s j := by
  induction l generalizing s with
  | nil => simp
  | cons i rest ih =>
    rw [List.nodup_cons] at hl
    rw [List.foldl_cons, ih hl.2]
    by_cases hj : j = i
    · subst hj
      simp [hl.1, same]
    · have hij : i ≠ j := fun h => hj h.symm
      simp [hj, reads s i j hij, other s i j hij]

end Sys2Proof.Machine
end

