-- ==== Sys2Proof/Laws/State.lean ====
section
/-! SUPPORT. One lemma per field per update of the state, true by rfl, so that no later proof unfolds an update. -/

namespace Sys2Proof.Machine

variable (s : State)

/-! ## setStrip -/

@[simp] theorem setStrip_period (ch : Channel) (x : Strip) : (setStrip s ch x).period = s.period := rfl
@[simp] theorem setStrip_bc (ch : Channel) (x : Strip) : (setStrip s ch x).bc = s.bc := rfl
@[simp] theorem setStrip_sc (ch : Channel) (x : Strip) : (setStrip s ch x).sc = s.sc := rfl
@[simp] theorem setStrip_cq (ch : Channel) (x : Strip) : (setStrip s ch x).cq = s.cq := rfl
@[simp] theorem setStrip_fe (ch : Channel) (x : Strip) : (setStrip s ch x).fe = s.fe := rfl
@[simp] theorem setStrip_mr (ch : Channel) (x : Strip) : (setStrip s ch x).mr = s.mr := rfl
@[simp] theorem setStrip_sp (ch : Channel) (x : Strip) : (setStrip s ch x).sp = s.sp := rfl
@[simp] theorem setStrip_lp (ch : Channel) (x : Strip) : (setStrip s ch x).lp = s.lp := rfl
@[simp] theorem setStrip_sm (ch : Channel) (x : Strip) : (setStrip s ch x).sm = s.sm := rfl
@[simp] theorem setStrip_pending (ch : Channel) (x : Strip) : (setStrip s ch x).pending = s.pending := rfl
@[simp] theorem setStrip_strips (ch : Channel) (x : Strip) :
    (setStrip s ch x).st.strips = put s.st.strips ch x := rfl
@[simp] theorem setStrip_muteKeys (ch : Channel) (x : Strip) : (setStrip s ch x).st.muteKeys = s.st.muteKeys := rfl
@[simp] theorem setStrip_soloKeys (ch : Channel) (x : Strip) : (setStrip s ch x).st.soloKeys = s.st.soloKeys := rfl
@[simp] theorem setStrip_goKey (ch : Channel) (x : Strip) : (setStrip s ch x).st.goKey = s.st.goKey := rfl

/-! ## setLevel -/

@[simp] theorem setLevel_period (ch : Channel) (p : Position) : (setLevel s ch p).period = s.period := rfl
@[simp] theorem setLevel_bc (ch : Channel) (p : Position) : (setLevel s ch p).bc = s.bc := rfl
@[simp] theorem setLevel_sc (ch : Channel) (p : Position) : (setLevel s ch p).sc = s.sc := rfl
@[simp] theorem setLevel_cq (ch : Channel) (p : Position) : (setLevel s ch p).cq = s.cq := rfl
@[simp] theorem setLevel_mr (ch : Channel) (p : Position) : (setLevel s ch p).mr = s.mr := rfl
@[simp] theorem setLevel_st (ch : Channel) (p : Position) : (setLevel s ch p).st = s.st := rfl
@[simp] theorem setLevel_sp (ch : Channel) (p : Position) : (setLevel s ch p).sp = s.sp := rfl
@[simp] theorem setLevel_lp (ch : Channel) (p : Position) : (setLevel s ch p).lp = s.lp := rfl
@[simp] theorem setLevel_sm (ch : Channel) (p : Position) : (setLevel s ch p).sm = s.sm := rfl
@[simp] theorem setLevel_pending (ch : Channel) (p : Position) : (setLevel s ch p).pending = s.pending := rfl
@[simp] theorem setLevel_levels (ch : Channel) (p : Position) :
    (setLevel s ch p).fe.levels = put s.fe.levels ch p := rfl
@[simp] theorem setLevel_pool (ch : Channel) (p : Position) : (setLevel s ch p).fe.pool = s.fe.pool := rfl
@[simp] theorem setLevel_commits (ch : Channel) (p : Position) : (setLevel s ch p).fe.commits = s.fe.commits := rfl

/-! ## setPool -/

@[simp] theorem setPool_period (pool : List PoolRecord) : (setPool s pool).period = s.period := rfl
@[simp] theorem setPool_bc (pool : List PoolRecord) : (setPool s pool).bc = s.bc := rfl
@[simp] theorem setPool_sc (pool : List PoolRecord) : (setPool s pool).sc = s.sc := rfl
@[simp] theorem setPool_cq (pool : List PoolRecord) : (setPool s pool).cq = s.cq := rfl
@[simp] theorem setPool_mr (pool : List PoolRecord) : (setPool s pool).mr = s.mr := rfl
@[simp] theorem setPool_st (pool : List PoolRecord) : (setPool s pool).st = s.st := rfl
@[simp] theorem setPool_sp (pool : List PoolRecord) : (setPool s pool).sp = s.sp := rfl
@[simp] theorem setPool_lp (pool : List PoolRecord) : (setPool s pool).lp = s.lp := rfl
@[simp] theorem setPool_sm (pool : List PoolRecord) : (setPool s pool).sm = s.sm := rfl
@[simp] theorem setPool_pending (pool : List PoolRecord) : (setPool s pool).pending = s.pending := rfl
@[simp] theorem setPool_levels (pool : List PoolRecord) : (setPool s pool).fe.levels = s.fe.levels := rfl
@[simp] theorem setPool_pool (pool : List PoolRecord) :
    (setPool s pool).fe.pool = pool := rfl
@[simp] theorem setPool_commits (pool : List PoolRecord) : (setPool s pool).fe.commits = s.fe.commits := rfl

/-! ## setMute -/

@[simp] theorem setMute_period (ch : Channel) (on : Bool) : (setMute s ch on).period = s.period := rfl
@[simp] theorem setMute_bc (ch : Channel) (on : Bool) : (setMute s ch on).bc = s.bc := rfl
@[simp] theorem setMute_sc (ch : Channel) (on : Bool) : (setMute s ch on).sc = s.sc := rfl
@[simp] theorem setMute_cq (ch : Channel) (on : Bool) : (setMute s ch on).cq = s.cq := rfl
@[simp] theorem setMute_fe (ch : Channel) (on : Bool) : (setMute s ch on).fe = s.fe := rfl
@[simp] theorem setMute_st (ch : Channel) (on : Bool) : (setMute s ch on).st = s.st := rfl
@[simp] theorem setMute_sp (ch : Channel) (on : Bool) : (setMute s ch on).sp = s.sp := rfl
@[simp] theorem setMute_lp (ch : Channel) (on : Bool) : (setMute s ch on).lp = s.lp := rfl
@[simp] theorem setMute_sm (ch : Channel) (on : Bool) : (setMute s ch on).sm = s.sm := rfl
@[simp] theorem setMute_pending (ch : Channel) (on : Bool) : (setMute s ch on).pending = s.pending := rfl
@[simp] theorem setMute_mute (ch : Channel) (on : Bool) :
    (setMute s ch on).mr.mute = put s.mr.mute ch on := rfl
@[simp] theorem setMute_solo (ch : Channel) (on : Bool) : (setMute s ch on).mr.solo = s.mr.solo := rfl
@[simp] theorem setMute_headroom (ch : Channel) (on : Bool) : (setMute s ch on).mr.headroom = s.mr.headroom := rfl
@[simp] theorem setMute_applied (ch : Channel) (on : Bool) : (setMute s ch on).mr.applied = s.mr.applied := rfl
@[simp] theorem setMute_groups (ch : Channel) (on : Bool) : (setMute s ch on).mr.groups = s.mr.groups := rfl
@[simp] theorem setMute_masters (ch : Channel) (on : Bool) : (setMute s ch on).mr.masters = s.mr.masters := rfl
@[simp] theorem setMute_lastGroup (ch : Channel) (on : Bool) : (setMute s ch on).mr.lastGroup = s.mr.lastGroup := rfl
@[simp] theorem setMute_link (ch : Channel) (on : Bool) : (setMute s ch on).mr.link = s.mr.link := rfl
@[simp] theorem setMute_bursting (ch : Channel) (on : Bool) : (setMute s ch on).mr.bursting = s.mr.bursting := rfl
@[simp] theorem setMute_attenuators (ch : Channel) (on : Bool) : (setMute s ch on).mr.attenuators = s.mr.attenuators := rfl

/-! ## setHeadroom -/

@[simp] theorem setHeadroom_period (ch : Channel) (on : Bool) : (setHeadroom s ch on).period = s.period := rfl
@[simp] theorem setHeadroom_bc (ch : Channel) (on : Bool) : (setHeadroom s ch on).bc = s.bc := rfl
@[simp] theorem setHeadroom_sc (ch : Channel) (on : Bool) : (setHeadroom s ch on).sc = s.sc := rfl
@[simp] theorem setHeadroom_cq (ch : Channel) (on : Bool) : (setHeadroom s ch on).cq = s.cq := rfl
@[simp] theorem setHeadroom_fe (ch : Channel) (on : Bool) : (setHeadroom s ch on).fe = s.fe := rfl
@[simp] theorem setHeadroom_st (ch : Channel) (on : Bool) : (setHeadroom s ch on).st = s.st := rfl
@[simp] theorem setHeadroom_sp (ch : Channel) (on : Bool) : (setHeadroom s ch on).sp = s.sp := rfl
@[simp] theorem setHeadroom_lp (ch : Channel) (on : Bool) : (setHeadroom s ch on).lp = s.lp := rfl
@[simp] theorem setHeadroom_sm (ch : Channel) (on : Bool) : (setHeadroom s ch on).sm = s.sm := rfl
@[simp] theorem setHeadroom_pending (ch : Channel) (on : Bool) : (setHeadroom s ch on).pending = s.pending := rfl
@[simp] theorem setHeadroom_mute (ch : Channel) (on : Bool) : (setHeadroom s ch on).mr.mute = s.mr.mute := rfl
@[simp] theorem setHeadroom_solo (ch : Channel) (on : Bool) : (setHeadroom s ch on).mr.solo = s.mr.solo := rfl
@[simp] theorem setHeadroom_headroom (ch : Channel) (on : Bool) :
    (setHeadroom s ch on).mr.headroom = put s.mr.headroom ch on := rfl
@[simp] theorem setHeadroom_applied (ch : Channel) (on : Bool) : (setHeadroom s ch on).mr.applied = s.mr.applied := rfl
@[simp] theorem setHeadroom_groups (ch : Channel) (on : Bool) : (setHeadroom s ch on).mr.groups = s.mr.groups := rfl
@[simp] theorem setHeadroom_masters (ch : Channel) (on : Bool) : (setHeadroom s ch on).mr.masters = s.mr.masters := rfl
@[simp] theorem setHeadroom_lastGroup (ch : Channel) (on : Bool) : (setHeadroom s ch on).mr.lastGroup = s.mr.lastGroup := rfl
@[simp] theorem setHeadroom_link (ch : Channel) (on : Bool) : (setHeadroom s ch on).mr.link = s.mr.link := rfl
@[simp] theorem setHeadroom_bursting (ch : Channel) (on : Bool) : (setHeadroom s ch on).mr.bursting = s.mr.bursting := rfl
@[simp] theorem setHeadroom_attenuators (ch : Channel) (on : Bool) : (setHeadroom s ch on).mr.attenuators = s.mr.attenuators := rfl

/-! ## setMaster -/

@[simp] theorem setMaster_period (ch : Channel) (m : Master) : (setMaster s ch m).period = s.period := rfl
@[simp] theorem setMaster_bc (ch : Channel) (m : Master) : (setMaster s ch m).bc = s.bc := rfl
@[simp] theorem setMaster_sc (ch : Channel) (m : Master) : (setMaster s ch m).sc = s.sc := rfl
@[simp] theorem setMaster_cq (ch : Channel) (m : Master) : (setMaster s ch m).cq = s.cq := rfl
@[simp] theorem setMaster_fe (ch : Channel) (m : Master) : (setMaster s ch m).fe = s.fe := rfl
@[simp] theorem setMaster_st (ch : Channel) (m : Master) : (setMaster s ch m).st = s.st := rfl
@[simp] theorem setMaster_sp (ch : Channel) (m : Master) : (setMaster s ch m).sp = s.sp := rfl
@[simp] theorem setMaster_lp (ch : Channel) (m : Master) : (setMaster s ch m).lp = s.lp := rfl
@[simp] theorem setMaster_sm (ch : Channel) (m : Master) : (setMaster s ch m).sm = s.sm := rfl
@[simp] theorem setMaster_pending (ch : Channel) (m : Master) : (setMaster s ch m).pending = s.pending := rfl
@[simp] theorem setMaster_mute (ch : Channel) (m : Master) : (setMaster s ch m).mr.mute = s.mr.mute := rfl
@[simp] theorem setMaster_solo (ch : Channel) (m : Master) : (setMaster s ch m).mr.solo = s.mr.solo := rfl
@[simp] theorem setMaster_headroom (ch : Channel) (m : Master) : (setMaster s ch m).mr.headroom = s.mr.headroom := rfl
@[simp] theorem setMaster_applied (ch : Channel) (m : Master) : (setMaster s ch m).mr.applied = s.mr.applied := rfl
@[simp] theorem setMaster_groups (ch : Channel) (m : Master) : (setMaster s ch m).mr.groups = s.mr.groups := rfl
@[simp] theorem setMaster_masters (ch : Channel) (m : Master) :
    (setMaster s ch m).mr.masters = put s.mr.masters ch m := rfl
@[simp] theorem setMaster_lastGroup (ch : Channel) (m : Master) : (setMaster s ch m).mr.lastGroup = s.mr.lastGroup := rfl
@[simp] theorem setMaster_link (ch : Channel) (m : Master) : (setMaster s ch m).mr.link = s.mr.link := rfl
@[simp] theorem setMaster_bursting (ch : Channel) (m : Master) : (setMaster s ch m).mr.bursting = s.mr.bursting := rfl
@[simp] theorem setMaster_attenuators (ch : Channel) (m : Master) : (setMaster s ch m).mr.attenuators = s.mr.attenuators := rfl

/-! ## setGroup -/

@[simp] theorem setGroup_period (g : Group) (e : GroupEntry) : (setGroup s g e).period = s.period := rfl
@[simp] theorem setGroup_bc (g : Group) (e : GroupEntry) : (setGroup s g e).bc = s.bc := rfl
@[simp] theorem setGroup_sc (g : Group) (e : GroupEntry) : (setGroup s g e).sc = s.sc := rfl
@[simp] theorem setGroup_cq (g : Group) (e : GroupEntry) : (setGroup s g e).cq = s.cq := rfl
@[simp] theorem setGroup_fe (g : Group) (e : GroupEntry) : (setGroup s g e).fe = s.fe := rfl
@[simp] theorem setGroup_st (g : Group) (e : GroupEntry) : (setGroup s g e).st = s.st := rfl
@[simp] theorem setGroup_sp (g : Group) (e : GroupEntry) : (setGroup s g e).sp = s.sp := rfl
@[simp] theorem setGroup_lp (g : Group) (e : GroupEntry) : (setGroup s g e).lp = s.lp := rfl
@[simp] theorem setGroup_sm (g : Group) (e : GroupEntry) : (setGroup s g e).sm = s.sm := rfl
@[simp] theorem setGroup_pending (g : Group) (e : GroupEntry) : (setGroup s g e).pending = s.pending := rfl
@[simp] theorem setGroup_mute (g : Group) (e : GroupEntry) : (setGroup s g e).mr.mute = s.mr.mute := rfl
@[simp] theorem setGroup_solo (g : Group) (e : GroupEntry) : (setGroup s g e).mr.solo = s.mr.solo := rfl
@[simp] theorem setGroup_headroom (g : Group) (e : GroupEntry) : (setGroup s g e).mr.headroom = s.mr.headroom := rfl
@[simp] theorem setGroup_applied (g : Group) (e : GroupEntry) : (setGroup s g e).mr.applied = s.mr.applied := rfl
@[simp] theorem setGroup_groups (g : Group) (e : GroupEntry) :
    (setGroup s g e).mr.groups = put s.mr.groups g e := rfl
@[simp] theorem setGroup_masters (g : Group) (e : GroupEntry) : (setGroup s g e).mr.masters = s.mr.masters := rfl
@[simp] theorem setGroup_lastGroup (g : Group) (e : GroupEntry) : (setGroup s g e).mr.lastGroup = s.mr.lastGroup := rfl
@[simp] theorem setGroup_link (g : Group) (e : GroupEntry) : (setGroup s g e).mr.link = s.mr.link := rfl
@[simp] theorem setGroup_bursting (g : Group) (e : GroupEntry) : (setGroup s g e).mr.bursting = s.mr.bursting := rfl
@[simp] theorem setGroup_attenuators (g : Group) (e : GroupEntry) : (setGroup s g e).mr.attenuators = s.mr.attenuators := rfl

/-! ## setPeer -/

@[simp] theorem setPeer_period (p : Peer) (e : PeerEntry) : (setPeer s p e).period = s.period := rfl
@[simp] theorem setPeer_bc (p : Peer) (e : PeerEntry) : (setPeer s p e).bc = s.bc := rfl
@[simp] theorem setPeer_cq (p : Peer) (e : PeerEntry) : (setPeer s p e).cq = s.cq := rfl
@[simp] theorem setPeer_fe (p : Peer) (e : PeerEntry) : (setPeer s p e).fe = s.fe := rfl
@[simp] theorem setPeer_mr (p : Peer) (e : PeerEntry) : (setPeer s p e).mr = s.mr := rfl
@[simp] theorem setPeer_st (p : Peer) (e : PeerEntry) : (setPeer s p e).st = s.st := rfl
@[simp] theorem setPeer_sp (p : Peer) (e : PeerEntry) : (setPeer s p e).sp = s.sp := rfl
@[simp] theorem setPeer_lp (p : Peer) (e : PeerEntry) : (setPeer s p e).lp = s.lp := rfl
@[simp] theorem setPeer_sm (p : Peer) (e : PeerEntry) : (setPeer s p e).sm = s.sm := rfl
@[simp] theorem setPeer_pending (p : Peer) (e : PeerEntry) : (setPeer s p e).pending = s.pending := rfl
@[simp] theorem setPeer_number (p : Peer) (e : PeerEntry) : (setPeer s p e).sc.number = s.sc.number := rfl
@[simp] theorem setPeer_txMuted (p : Peer) (e : PeerEntry) : (setPeer s p e).sc.txMuted = s.sc.txMuted := rfl
@[simp] theorem setPeer_state (p : Peer) (e : PeerEntry) : (setPeer s p e).sc.state = s.sc.state := rfl
@[simp] theorem setPeer_listen (p : Peer) (e : PeerEntry) : (setPeer s p e).sc.listen = s.sc.listen := rfl
@[simp] theorem setPeer_candidate (p : Peer) (e : PeerEntry) : (setPeer s p e).sc.candidate = s.sc.candidate := rfl
@[simp] theorem setPeer_peers (p : Peer) (e : PeerEntry) :
    (setPeer s p e).sc.peers = put s.sc.peers p e := rfl
@[simp] theorem setPeer_stateRequest (p : Peer) (e : PeerEntry) : (setPeer s p e).sc.stateRequest = s.sc.stateRequest := rfl
@[simp] theorem setPeer_refresh (p : Peer) (e : PeerEntry) : (setPeer s p e).sc.refresh = s.sc.refresh := rfl
@[simp] theorem setPeer_stamp (p : Peer) (e : PeerEntry) : (setPeer s p e).sc.stamp = s.sc.stamp := rfl
@[simp] theorem setPeer_tracked (p : Peer) (e : PeerEntry) : (setPeer s p e).sc.tracked = s.sc.tracked := rfl
@[simp] theorem setPeer_walkEnded (p : Peer) (e : PeerEntry) : (setPeer s p e).sc.walkEnded = s.sc.walkEnded := rfl

/-! ## setLine -/

@[simp] theorem setLine_period (k : StopKind) (l : StopLine) : (setLine s k l).period = s.period := by cases k <;> rfl
@[simp] theorem setLine_bc (k : StopKind) (l : StopLine) : (setLine s k l).bc = s.bc := by cases k <;> rfl
@[simp] theorem setLine_sc (k : StopKind) (l : StopLine) : (setLine s k l).sc = s.sc := by cases k <;> rfl
@[simp] theorem setLine_cq (k : StopKind) (l : StopLine) : (setLine s k l).cq = s.cq := by cases k <;> rfl
@[simp] theorem setLine_fe (k : StopKind) (l : StopLine) : (setLine s k l).fe = s.fe := by cases k <;> rfl
@[simp] theorem setLine_mr (k : StopKind) (l : StopLine) : (setLine s k l).mr = s.mr := by cases k <;> rfl
@[simp] theorem setLine_st (k : StopKind) (l : StopLine) : (setLine s k l).st = s.st := by cases k <;> rfl
@[simp] theorem setLine_lp (k : StopKind) (l : StopLine) : (setLine s k l).lp = s.lp := by cases k <;> rfl
@[simp] theorem setLine_sm (k : StopKind) (l : StopLine) : (setLine s k l).sm = s.sm := by cases k <;> rfl
@[simp] theorem setLine_pending (k : StopKind) (l : StopLine) : (setLine s k l).pending = s.pending := by cases k <;> rfl
@[simp] theorem setLine_machineA (k : StopKind) (l : StopLine) : (setLine s k l).sp.machineA = s.sp.machineA := by cases k <;> rfl
@[simp] theorem setLine_machineB (k : StopKind) (l : StopLine) : (setLine s k l).sp.machineB = s.sp.machineB := by cases k <;> rfl
@[simp] theorem setLine_orphan (k : StopKind) (l : StopLine) : (setLine s k l).sp.orphan = s.sp.orphan := by cases k <;> rfl
@[simp] theorem setLine_effective (k : StopKind) (l : StopLine) : (setLine s k l).sp.effective = s.sp.effective := by cases k <;> rfl

/-! ## setMachine -/

@[simp] theorem setMachine_period (k : StopKind) (m : StopMachine) : (setMachine s k m).period = s.period := by cases k <;> rfl
@[simp] theorem setMachine_bc (k : StopKind) (m : StopMachine) : (setMachine s k m).bc = s.bc := by cases k <;> rfl
@[simp] theorem setMachine_sc (k : StopKind) (m : StopMachine) : (setMachine s k m).sc = s.sc := by cases k <;> rfl
@[simp] theorem setMachine_cq (k : StopKind) (m : StopMachine) : (setMachine s k m).cq = s.cq := by cases k <;> rfl
@[simp] theorem setMachine_fe (k : StopKind) (m : StopMachine) : (setMachine s k m).fe = s.fe := by cases k <;> rfl
@[simp] theorem setMachine_mr (k : StopKind) (m : StopMachine) : (setMachine s k m).mr = s.mr := by cases k <;> rfl
@[simp] theorem setMachine_st (k : StopKind) (m : StopMachine) : (setMachine s k m).st = s.st := by cases k <;> rfl
@[simp] theorem setMachine_lp (k : StopKind) (m : StopMachine) : (setMachine s k m).lp = s.lp := by cases k <;> rfl
@[simp] theorem setMachine_sm (k : StopKind) (m : StopMachine) : (setMachine s k m).sm = s.sm := by cases k <;> rfl
@[simp] theorem setMachine_pending (k : StopKind) (m : StopMachine) : (setMachine s k m).pending = s.pending := by cases k <;> rfl
@[simp] theorem setMachine_lineA (k : StopKind) (m : StopMachine) : (setMachine s k m).sp.lineA = s.sp.lineA := by cases k <;> rfl
@[simp] theorem setMachine_lineB (k : StopKind) (m : StopMachine) : (setMachine s k m).sp.lineB = s.sp.lineB := by cases k <;> rfl
@[simp] theorem setMachine_orphan (k : StopKind) (m : StopMachine) : (setMachine s k m).sp.orphan = s.sp.orphan := by cases k <;> rfl
@[simp] theorem setMachine_effective (k : StopKind) (m : StopMachine) : (setMachine s k m).sp.effective = s.sp.effective := by cases k <;> rfl

/-! ## setEffective -/

@[simp] theorem setEffective_period (e : EffectiveStop) : (setEffective s e).period = s.period := rfl
@[simp] theorem setEffective_bc (e : EffectiveStop) : (setEffective s e).bc = s.bc := rfl
@[simp] theorem setEffective_sc (e : EffectiveStop) : (setEffective s e).sc = s.sc := rfl
@[simp] theorem setEffective_cq (e : EffectiveStop) : (setEffective s e).cq = s.cq := rfl
@[simp] theorem setEffective_fe (e : EffectiveStop) : (setEffective s e).fe = s.fe := rfl
@[simp] theorem setEffective_mr (e : EffectiveStop) : (setEffective s e).mr = s.mr := rfl
@[simp] theorem setEffective_st (e : EffectiveStop) : (setEffective s e).st = s.st := rfl
@[simp] theorem setEffective_lp (e : EffectiveStop) : (setEffective s e).lp = s.lp := rfl
@[simp] theorem setEffective_sm (e : EffectiveStop) : (setEffective s e).sm = s.sm := rfl
@[simp] theorem setEffective_pending (e : EffectiveStop) : (setEffective s e).pending = s.pending := rfl
@[simp] theorem setEffective_lineA (e : EffectiveStop) : (setEffective s e).sp.lineA = s.sp.lineA := rfl
@[simp] theorem setEffective_lineB (e : EffectiveStop) : (setEffective s e).sp.lineB = s.sp.lineB := rfl
@[simp] theorem setEffective_machineA (e : EffectiveStop) : (setEffective s e).sp.machineA = s.sp.machineA := rfl
@[simp] theorem setEffective_machineB (e : EffectiveStop) : (setEffective s e).sp.machineB = s.sp.machineB := rfl
@[simp] theorem setEffective_orphan (e : EffectiveStop) : (setEffective s e).sp.orphan = s.sp.orphan := rfl
@[simp] theorem setEffective_effective (e : EffectiveStop) :
    (setEffective s e).sp.effective = e := rfl

/-! ## setFlight -/

@[simp] theorem setFlight_period (c : FrameClass) (f : Option Flight) : (setFlight s c f).period = s.period := by cases c <;> rfl
@[simp] theorem setFlight_sc (c : FrameClass) (f : Option Flight) : (setFlight s c f).sc = s.sc := by cases c <;> rfl
@[simp] theorem setFlight_cq (c : FrameClass) (f : Option Flight) : (setFlight s c f).cq = s.cq := by cases c <;> rfl
@[simp] theorem setFlight_fe (c : FrameClass) (f : Option Flight) : (setFlight s c f).fe = s.fe := by cases c <;> rfl
@[simp] theorem setFlight_mr (c : FrameClass) (f : Option Flight) : (setFlight s c f).mr = s.mr := by cases c <;> rfl
@[simp] theorem setFlight_st (c : FrameClass) (f : Option Flight) : (setFlight s c f).st = s.st := by cases c <;> rfl
@[simp] theorem setFlight_sp (c : FrameClass) (f : Option Flight) : (setFlight s c f).sp = s.sp := by cases c <;> rfl
@[simp] theorem setFlight_lp (c : FrameClass) (f : Option Flight) : (setFlight s c f).lp = s.lp := by cases c <;> rfl
@[simp] theorem setFlight_sm (c : FrameClass) (f : Option Flight) : (setFlight s c f).sm = s.sm := by cases c <;> rfl
@[simp] theorem setFlight_pending (c : FrameClass) (f : Option Flight) : (setFlight s c f).pending = s.pending := by cases c <;> rfl
@[simp] theorem setFlight_phase (c : FrameClass) (f : Option Flight) : (setFlight s c f).bc.phase = s.bc.phase := by cases c <;> rfl
@[simp] theorem setFlight_gap (c : FrameClass) (f : Option Flight) : (setFlight s c f).bc.gap = s.bc.gap := by cases c <;> rfl
@[simp] theorem setFlight_run (c : FrameClass) (f : Option Flight) : (setFlight s c f).bc.run = s.bc.run := by cases c <;> rfl
@[simp] theorem setFlight_lineHeld (c : FrameClass) (f : Option Flight) : (setFlight s c f).bc.lineHeld = s.bc.lineHeld := by cases c <;> rfl
@[simp] theorem setFlight_drive (c : FrameClass) (f : Option Flight) : (setFlight s c f).bc.drive = s.bc.drive := by cases c <;> rfl
@[simp] theorem setFlight_quiet (c : FrameClass) (f : Option Flight) : (setFlight s c f).bc.quiet = s.bc.quiet := by cases c <;> rfl
@[simp] theorem setFlight_faultTime (c : FrameClass) (f : Option Flight) : (setFlight s c f).bc.faultTime = s.bc.faultTime := by cases c <;> rfl
@[simp] theorem setFlight_sending (c : FrameClass) (f : Option Flight) : (setFlight s c f).bc.sending = s.bc.sending := by cases c <;> rfl
@[simp] theorem setFlight_sent (c : FrameClass) (f : Option Flight) : (setFlight s c f).bc.sent = s.bc.sent := by cases c <;> rfl
@[simp] theorem setFlight_yieldGroup (c : FrameClass) (f : Option Flight) : (setFlight s c f).bc.yieldGroup = s.bc.yieldGroup := by cases c <;> rfl
@[simp] theorem setFlight_yieldState (c : FrameClass) (f : Option Flight) : (setFlight s c f).bc.yieldState = s.bc.yieldState := by cases c <;> rfl
@[simp] theorem setFlight_copies (c : FrameClass) (f : Option Flight) : (setFlight s c f).bc.copies = s.bc.copies := by cases c <;> rfl

/-! ## setCopy -/

@[simp] theorem setCopy_period (p : Peer) (c : FrameClass) (x : Option Payload) : (setCopy s p c x).period = s.period := rfl
@[simp] theorem setCopy_sc (p : Peer) (c : FrameClass) (x : Option Payload) : (setCopy s p c x).sc = s.sc := rfl
@[simp] theorem setCopy_cq (p : Peer) (c : FrameClass) (x : Option Payload) : (setCopy s p c x).cq = s.cq := rfl
@[simp] theorem setCopy_fe (p : Peer) (c : FrameClass) (x : Option Payload) : (setCopy s p c x).fe = s.fe := rfl
@[simp] theorem setCopy_mr (p : Peer) (c : FrameClass) (x : Option Payload) : (setCopy s p c x).mr = s.mr := rfl
@[simp] theorem setCopy_st (p : Peer) (c : FrameClass) (x : Option Payload) : (setCopy s p c x).st = s.st := rfl
@[simp] theorem setCopy_sp (p : Peer) (c : FrameClass) (x : Option Payload) : (setCopy s p c x).sp = s.sp := rfl
@[simp] theorem setCopy_lp (p : Peer) (c : FrameClass) (x : Option Payload) : (setCopy s p c x).lp = s.lp := rfl
@[simp] theorem setCopy_sm (p : Peer) (c : FrameClass) (x : Option Payload) : (setCopy s p c x).sm = s.sm := rfl
@[simp] theorem setCopy_pending (p : Peer) (c : FrameClass) (x : Option Payload) : (setCopy s p c x).pending = s.pending := rfl
@[simp] theorem setCopy_phase (p : Peer) (c : FrameClass) (x : Option Payload) : (setCopy s p c x).bc.phase = s.bc.phase := rfl
@[simp] theorem setCopy_gap (p : Peer) (c : FrameClass) (x : Option Payload) : (setCopy s p c x).bc.gap = s.bc.gap := rfl
@[simp] theorem setCopy_run (p : Peer) (c : FrameClass) (x : Option Payload) : (setCopy s p c x).bc.run = s.bc.run := rfl
@[simp] theorem setCopy_lineHeld (p : Peer) (c : FrameClass) (x : Option Payload) : (setCopy s p c x).bc.lineHeld = s.bc.lineHeld := rfl
@[simp] theorem setCopy_drive (p : Peer) (c : FrameClass) (x : Option Payload) : (setCopy s p c x).bc.drive = s.bc.drive := rfl
@[simp] theorem setCopy_quiet (p : Peer) (c : FrameClass) (x : Option Payload) : (setCopy s p c x).bc.quiet = s.bc.quiet := rfl
@[simp] theorem setCopy_faultTime (p : Peer) (c : FrameClass) (x : Option Payload) : (setCopy s p c x).bc.faultTime = s.bc.faultTime := rfl
@[simp] theorem setCopy_sending (p : Peer) (c : FrameClass) (x : Option Payload) : (setCopy s p c x).bc.sending = s.bc.sending := rfl
@[simp] theorem setCopy_sent (p : Peer) (c : FrameClass) (x : Option Payload) : (setCopy s p c x).bc.sent = s.bc.sent := rfl
@[simp] theorem setCopy_stopFlight (p : Peer) (c : FrameClass) (x : Option Payload) : (setCopy s p c x).bc.stopFlight = s.bc.stopFlight := rfl
@[simp] theorem setCopy_cueFlight (p : Peer) (c : FrameClass) (x : Option Payload) : (setCopy s p c x).bc.cueFlight = s.bc.cueFlight := rfl
@[simp] theorem setCopy_groupFlight (p : Peer) (c : FrameClass) (x : Option Payload) : (setCopy s p c x).bc.groupFlight = s.bc.groupFlight := rfl
@[simp] theorem setCopy_stateFlight (p : Peer) (c : FrameClass) (x : Option Payload) : (setCopy s p c x).bc.stateFlight = s.bc.stateFlight := rfl
@[simp] theorem setCopy_yieldGroup (p : Peer) (c : FrameClass) (x : Option Payload) : (setCopy s p c x).bc.yieldGroup = s.bc.yieldGroup := rfl
@[simp] theorem setCopy_yieldState (p : Peer) (c : FrameClass) (x : Option Payload) : (setCopy s p c x).bc.yieldState = s.bc.yieldState := rfl
@[simp] theorem setCopy_copies (p : Peer) (c : FrameClass) (x : Option Payload) :
    (setCopy s p c x).bc.copies = put s.bc.copies p (s.bc.copies[p].set c x) := rfl

/-! ## Reading what a write by kind, class or presence gave -/

@[simp] theorem machineOf_setMachine (k j : StopKind) (m : StopMachine) :
    machineOf (setMachine s k m) j = if k = j then m else machineOf s j := by
  cases k <;> cases j <;> rfl

@[simp] theorem machineOf_setLine (k j : StopKind) (l : StopLine) :
    machineOf (setLine s k l) j = machineOf s j := by
  cases k <;> cases j <;> rfl

@[simp] theorem lineOf_setLine (k j : StopKind) (l : StopLine) :
    lineOf (setLine s k l) j = if k = j then l else lineOf s j := by
  cases k <;> cases j <;> rfl

@[simp] theorem lineOf_setMachine (k j : StopKind) (m : StopMachine) :
    lineOf (setMachine s k m) j = lineOf s j := by
  cases k <;> cases j <;> rfl

@[simp] theorem flightOf_setFlight (c d : FrameClass) (f : Option Flight) :
    flightOf (setFlight s c f) d = if c = d then f else flightOf s d := by
  cases c <;> cases d <;> rfl

@[simp] theorem get_set_copy (r : CopyRecord) (c d : FrameClass) (p : Option Payload) :
    (r.set c p).get d = if c = d then p else r.get d := by
  cases c <;> cases d <;> rfl

@[simp] theorem stop_withStop (p : PeerEntry) (k j : StopKind) (on : Bool) :
    (p.withStop k on).stop j = if k = j then on else p.stop j := by
  cases k <;> cases j <;> rfl

@[simp] theorem presence_withStop (p : PeerEntry) (k : StopKind) (on : Bool) :
    (p.withStop k on).presence = p.presence := by
  cases k <;> rfl

end Sys2Proof.Machine
end

