-- ==== Sys2Proof/Laws/Tables.lean ====
section
/-! SUPPORT. What reading a place of a written, mapped or filled table gives. -/

namespace Sys2Proof.Machine

variable {α β : Type} {n : Nat}

@[simp] theorem getElem_put (v : Vector α n) (i : Fin n) (x : α) (j : Nat) (hj : j < n) :
    (put v i x)[j] = if i.val = j then x else v[j] := by
  simp [put, Vector.getElem_set]

theorem put_same (v : Vector α n) (i : Fin n) (x : α) : (put v i x)[i] = x := by simp

theorem put_other (v : Vector α n) {i j : Fin n} (x : α) (h : i ≠ j) : (put v i x)[j] = v[j] := by
  simp [Fin.val_inj, h]

@[simp] theorem getElem_mapTable (f : α → β) (v : Vector α n) (j : Nat) (hj : j < n) :
    (mapTable f v)[j] = f v[j] := by
  simp [mapTable]

@[simp] theorem getElem_tabulate (f : Fin n → α) (j : Nat) (hj : j < n) :
    (tabulate f)[j] = f ⟨j, hj⟩ := by
  simp [tabulate]

@[simp] theorem put_self (v : Vector α n) (i : Fin n) : put v i v[i.val] = v := by
  ext j hj
  by_cases h : i.val = j <;> simp [h]

@[simp] theorem put_put (v : Vector α n) (i : Fin n) (x y : α) : put (put v i x) i y = put v i y := by
  ext j hj
  by_cases h : i.val = j <;> simp [h]

theorem mem_channels (ch : Channel) : ch ∈ channels := List.mem_finRange ch

theorem mem_groupNumbers (g : Group) : g ∈ groupNumbers := List.mem_finRange g

theorem mem_peerNumbers (p : Peer) : p ∈ peerNumbers := List.mem_finRange p

theorem toChannel?_channelNumber (ch : Channel) : toChannel? (channelNumber ch) = some ch := by
  simp [toChannel?, channelNumber]

theorem toGroup?_groupNumber (g : Group) : toGroup? (groupNumber g) = some g := by
  simp [toGroup?, groupNumber]

theorem toPeer?_peerNumber (p : Peer) : toPeer? (peerNumber p) = some p := by
  simp [toPeer?, peerNumber]

end Sys2Proof.Machine
end

