-- ==== Sys2Proof/Laws/Ops.lean ====
section
/-! SUPPORT. What each shared operation can do, said once: its frame, and the cases of what it answers. -/

namespace Sys2Proof.Machine

variable (s : State)

/-! ## Posting an event (R176, R178) -/

@[simp] theorem post_period (k : EventKind) (a b : Nat) : (post k a b s).period = s.period := rfl
@[simp] theorem post_bc (k : EventKind) (a b : Nat) : (post k a b s).bc = s.bc := rfl
@[simp] theorem post_sc (k : EventKind) (a b : Nat) : (post k a b s).sc = s.sc := rfl
@[simp] theorem post_cq (k : EventKind) (a b : Nat) : (post k a b s).cq = s.cq := rfl
@[simp] theorem post_fe (k : EventKind) (a b : Nat) : (post k a b s).fe = s.fe := rfl
@[simp] theorem post_mr (k : EventKind) (a b : Nat) : (post k a b s).mr = s.mr := rfl
@[simp] theorem post_st (k : EventKind) (a b : Nat) : (post k a b s).st = s.st := rfl
@[simp] theorem post_sp (k : EventKind) (a b : Nat) : (post k a b s).sp = s.sp := rfl
@[simp] theorem post_sm (k : EventKind) (a b : Nat) : (post k a b s).sm = s.sm := rfl
@[simp] theorem post_pending (k : EventKind) (a b : Nat) : (post k a b s).pending = s.pending := rfl
@[simp] theorem post_port (k : EventKind) (a b : Nat) : (post k a b s).lp.port = s.lp.port := rfl
@[simp] theorem post_offset (k : EventKind) (a b : Nat) : (post k a b s).lp.offset = s.lp.offset := rfl
@[simp] theorem post_overflowed (k : EventKind) (a b : Nat) : (post k a b s).lp.overflowed = s.lp.overflowed := rfl
@[simp] theorem post_lastFault (k : EventKind) (a b : Nat) : (post k a b s).lp.lastFault = s.lp.lastFault := rfl

/-- A post leaves ATTN at its condition. -/
theorem post_attn (k : EventKind) (a b : Nat) : (post k a b s).lp.attn = attnCondition (post k a b s) := rfl

theorem post_queue (k : EventKind) (a b : Nat) :
    (post k a b s).lp.queue = appendRecord s.lp.queue
      { kind := k, gap := s.lp.queue.isEmpty && s.lp.gapPending, stamp := timestamp s, first := a, second := b } :=
  rfl

/-- A post lengthens the queue by one record, up to 64. -/
theorem length_appendRecord (q : List EventRecord) (r : EventRecord) (h : q.length ≤ Config.queueSize) :
    (appendRecord q r).length = min (q.length + 1) Config.queueSize := by
  simp only [Config.queueSize] at *
  by_cases hq : q.length < 64
  · simp only [appendRecord, Config.queueSize, hq, if_true, List.length_append, List.length_singleton]
    omega
  · simp only [appendRecord, Config.queueSize, hq, if_false]
    cases q with
    | nil => simp at hq
    | cons x rest =>
      cases rest with
      | nil => simp at hq
      | cons y rest => simp at *; omega

theorem appendRecord_ne_nil (q : List EventRecord) (r : EventRecord) : appendRecord q r ≠ [] := by
  unfold appendRecord
  split
  · simp
  · cases h : q.drop 1 with
    | nil => simp
    | cons x rest => simp

/-- With room in the queue a post appends its record and changes none before it. -/
theorem appendRecord_of_room {q : List EventRecord} (r : EventRecord) (h : q.length < 64) :
    appendRecord q r = q ++ [r] := by
  simp [appendRecord, Config.queueSize, h]

/-! ## STATE requests, the effective stop -/

@[simp] theorem requestState_bc : (requestState s).bc = s.bc := by unfold requestState; split <;> rfl
@[simp] theorem requestState_cq : (requestState s).cq = s.cq := by unfold requestState; split <;> rfl
@[simp] theorem requestState_fe : (requestState s).fe = s.fe := by unfold requestState; split <;> rfl
@[simp] theorem requestState_mr : (requestState s).mr = s.mr := by unfold requestState; split <;> rfl
@[simp] theorem requestState_st : (requestState s).st = s.st := by unfold requestState; split <;> rfl
@[simp] theorem requestState_sp : (requestState s).sp = s.sp := by unfold requestState; split <;> rfl
@[simp] theorem requestState_lp : (requestState s).lp = s.lp := by unfold requestState; split <;> rfl
@[simp] theorem requestState_sm : (requestState s).sm = s.sm := by unfold requestState; split <;> rfl
@[simp] theorem requestState_period : (requestState s).period = s.period := by unfold requestState; split <;> rfl
@[simp] theorem requestState_pending : (requestState s).pending = s.pending := by unfold requestState; split <;> rfl
@[simp] theorem requestState_peers : (requestState s).sc.peers = s.sc.peers := by unfold requestState; split <;> rfl
@[simp] theorem requestState_state : (requestState s).sc.state = s.sc.state := by unfold requestState; split <;> rfl
@[simp] theorem requestState_number : (requestState s).sc.number = s.sc.number := by unfold requestState; split <;> rfl
@[simp] theorem requestState_txMuted : (requestState s).sc.txMuted = s.sc.txMuted := by
  unfold requestState; split <;> rfl

/-- The derived stop reads no effective stop (R168). -/
@[simp] theorem derivedStop_setEffective (e : EffectiveStop) : derivedStop (setEffective s e) = derivedStop s := rfl

theorem stopRank_injective : Function.Injective stopRank := by
  intro x y h
  cases x <;> cases y <;> simp [stopRank] at h ⊢

/-- `raiseStop` takes the derived stop where that stands higher and keeps the effective stop otherwise (R169). -/
theorem raiseStop_eq : raiseStop s =
    setEffective s (if stopRank s.sp.effective < stopRank (derivedStop s) then derivedStop s else s.sp.effective) := by
  unfold raiseStop
  split <;> simp [setEffective]

/-- `lowerStop` takes the derived stop where that stands lower and keeps the effective stop otherwise (R169). -/
theorem lowerStop_eq : lowerStop s =
    setEffective s (if stopRank (derivedStop s) < stopRank s.sp.effective then derivedStop s else s.sp.effective) := by
  unfold lowerStop
  split <;> simp [setEffective]

theorem raiseStop_covers : stopRank (derivedStop (raiseStop s)) ≤ stopRank (raiseStop s).sp.effective := by
  rw [raiseStop_eq]
  split
  · simp
  · simp only [derivedStop_setEffective, setEffective_effective]
    omega

/-! ## Requests (R36) -/

/-- What offering a request can do: nothing, as a duplicate; nothing, for a full queue; or the queue grows by it. -/
theorem offerRequest_cases (kind : CueKind) (cue : CueNumber) (origin : OriginKind) :
    (offerRequest kind cue origin s = (s, .duplicate) ∧ ∃ r ∈ s.cq.outgoing, r.kind = kind ∧ r.cue = cue)
      ∨ (offerRequest kind cue origin s = (s, .refused) ∧ 4 ≤ s.cq.outgoing.length
        ∧ ∀ r ∈ s.cq.outgoing, ¬(r.kind = kind ∧ r.cue = cue))
      ∨ (offerRequest kind cue origin s = ({ s with cq := { s.cq with outgoing :=
            s.cq.outgoing ++ [{ kind := kind, cue := cue, origin := origin, sent := false }] } }, .queued)
        ∧ s.cq.outgoing.length < 4 ∧ ∀ r ∈ s.cq.outgoing, ¬(r.kind = kind ∧ r.cue = cue)) := by
  unfold offerRequest
  by_cases h : s.cq.outgoing.any (fun r => r.kind == kind && r.cue == cue) = true
  · left
    exact ⟨if_pos h, by simpa [List.any_eq_true] using h⟩
  · have hn : ∀ r ∈ s.cq.outgoing, ¬(r.kind = kind ∧ r.cue = cue) := by
      simpa [List.any_eq_true] using h
    right
    rw [if_neg h]
    by_cases hl : Config.outgoingSize ≤ s.cq.outgoing.length
    · left
      exact ⟨if_pos hl, hl, hn⟩
    · right
      exact ⟨if_neg hl, by simpa [Config.outgoingSize] using hl, hn⟩

/-! ## Abandonment on a station that cannot bid (R138, R139) -/

/-- A station that can bid abandons nothing. -/
theorem settle_of_canBid {s : State} (h : cannotBid s = false) : settle s = s := by
  simp [settle, Config.abandonLimit, abandonPending, h]

/-- What a property needs to be kept by `settle`: that each abandonment keeps it. -/
theorem settle_keeps {P : State → Prop} {s : State}
    (one : ∀ s c t, cannotBid s = true → abandonOne s c = some t → P s → P t) (hs : P s) : P (settle s) := by
  have many : ∀ n s, P s → P (abandonPending n s) := by
    intro n
    induction n with
    | zero => exact fun s h => h
    | succ n ih =>
      intro s h
      unfold abandonPending
      split
      · rename_i hb
        split
        · rename_i t ht
          obtain ⟨c, -, hc⟩ := List.exists_of_findSome?_eq_some ht
          exact ih t (one s c t hb hc h)
        · exact h
      · exact h
  exact many _ s hs

/-- What one abandonment can be: the end of the frame in flight, the end of a STOP frame waiting, a waiting request
taken as an own frame, a master's frame with none supplied, or the STATE request cleared (R99, R134, R139). -/
theorem abandonOne_cases {s t : State} {c : FrameClass} (h : abandonOne s c = some t) :
    (∃ f, flightOf s c = some f ∧ t = frameEnd false f.payload (setFlight s c none))
      ∨ (∃ p ∈ pendingStops s, t = frameEnd false p s)
      ∨ (∃ r ∈ s.cq.outgoing, ∃ rest, rest.Sublist s.cq.outgoing
          ∧ t = takeCue r.kind r.cue s.sc.number.val r.origin { s with cq := { s.cq with outgoing := rest } })
      ∨ (∃ ch, supplyMaster s = some ch ∧ t = masterFrameEnd ch none s)
      ∨ t = { s with sc := { s.sc with stateRequest := false } } := by
  unfold abandonOne at h
  cases hf : flightOf s c with
  | some f =>
    simp only [hf] at h
    split at h
    · cases c with
      | stop =>
        simp only [Option.map_eq_some_iff] at h
        obtain ⟨p, hp, rfl⟩ := h
        exact .inr (.inl ⟨p, List.mem_of_mem_filter (List.mem_of_mem_head? hp), rfl⟩)
      | cue =>
        simp only [Option.map_eq_some_iff] at h
        obtain ⟨r, hr, rfl⟩ := h
        exact .inr (.inr (.inl ⟨r, List.mem_of_find?_eq_some hr, _, List.eraseP_sublist, rfl⟩))
      | group => simp at h
      | state => simp at h
    · exact .inl ⟨f, rfl, (Option.some.inj h).symm⟩
  | none =>
    simp only [hf] at h
    cases c with
    | stop =>
      simp only [Option.map_eq_some_iff] at h
      obtain ⟨p, hp, rfl⟩ := h
      exact .inr (.inl ⟨p, List.mem_of_mem_head? hp, rfl⟩)
    | cue =>
      simp only [Option.map_eq_some_iff] at h
      obtain ⟨r, hr, rfl⟩ := h
      exact .inr (.inr (.inl ⟨r, List.mem_of_mem_head? hr, _, List.tail_sublist _, rfl⟩))
    | group =>
      simp only [Option.map_eq_some_iff] at h
      obtain ⟨ch, hch, rfl⟩ := h
      exact .inr (.inr (.inr (.inl ⟨ch, hch, rfl⟩)))
    | state =>
      simp only at h
      split at h
      · exact .inr (.inr (.inr (.inr (Option.some.inj h).symm)))
      · exact absurd h (by simp)

/-! ## Slew and the laws of the output point -/

/-- One output point of slew, in its three cases (R12). -/
theorem slew_cases (step : Nat) (a g : GainCode) :
    ((a.val ≤ g.val + step ∧ g.val ≤ a.val + step) ∧ slew step a g = g)
      ∨ (a.val + step < g.val ∧ (slew step a g).val = a.val + step)
      ∨ (g.val + step < a.val ∧ (slew step a g).val + step = a.val) := by
  have ha := a.isLt
  have hg := g.isLt
  unfold slew
  split
  · split
    · exact .inl ⟨by omega, rfl⟩
    · refine .inr (.inl ⟨by omega, ?_⟩)
      simp only [clampCode]
      omega
  · split
    · exact .inl ⟨by omega, rfl⟩
    · refine .inr (.inr ⟨by omega, ?_⟩)
      simp only [clampCode]
      omega

end Sys2Proof.Machine
end

