-- ==== Sys2Proof/Laws/Bus.lean ====
section
/-! SUPPORT. What the bus controller's operations can do, said once. -/

namespace Sys2Proof.Machine

variable (s : State)

/-- Where frames are read (R125): in RECEIVING, and in a gap where the bit before would have been a start bit. -/
theorem readsFrame_iff : readsFrame s = true ↔ s.bc.phase = .receiving
    ∨ (s.bc.phase = .idle ∧ s.bc.lineHeld = false ∧ 16 ≤ s.bc.gap) := by
  show _ ↔ _ ∨ (_ ∧ _ ∧ Config.windowBits ≤ s.bc.gap)
  simp [readsFrame, and_assoc]

theorem frameReceived_of_not_reads (groups : List (BitVec 5)) (h : readsFrame s = false) :
    frameReceived groups s = s := by
  simp [frameReceived, h]

theorem arbitrationByteRead_of_not_reads (first second : BitVec 5) (h : readsFrame s = false) :
    arbitrationByteRead first second s = s := by
  simp [arbitrationByteRead, h]

/-- An arbitration byte with a guard violation empties no copy record (R129). -/
theorem emptyNamedCopy_of_unsound {first second : BitVec 5} (h : (guardSound first && guardSound second) = false) :
    emptyNamedCopy first second s = s := by
  simp [emptyNamedCopy, h]

/-- A frame that is read is rejected for its first fault or taken (R128, R129). -/
theorem frameReceived_cases (groups : List (BitVec 5)) (h : readsFrame s = true) :
    (∃ fault, (readFrame groups).result = .error fault
        ∧ frameReceived groups s = rejectFrame fault (readFrame groups).station (frameOver (lastRun groups) s))
      ∨ ∃ p repeated payload, (readFrame groups).result = .ok (p, repeated, payload)
        ∧ frameReceived groups s = takeFrame p repeated payload (frameOver (lastRun groups) s) := by
  cases hr : (readFrame groups).result with
  | error fault => exact .inl ⟨fault, rfl, by simp [frameReceived, h, hr]⟩
  | ok r => exact .inr ⟨r.1, r.2.1, r.2.2, rfl, by simp [frameReceived, h, hr]⟩

/-- What a bid point can do (R126): bid, or wait at the bid point, on a bus that is idle; elsewhere nothing. -/
theorem bidOrWait_cases :
    (∃ p, chooseBid s = some p ∧ bidOrWait s = { s with bc := { s.bc with
        phase := .sending, gap := 0, sent := 0, sending := some { payload := p, won := false } } })
      ∨ (chooseBid s = none ∧ bidOrWait s = { s with bc := { s.bc with gap := 21 } }) := by
  unfold bidOrWait
  cases h : chooseBid s with
  | none => exact .inr ⟨rfl, rfl⟩
  | some p => exact .inl ⟨p, rfl, rfl⟩

theorem bidPoint_of_not_idle (h : ¬(s.bc.phase = .idle ∧ s.bc.lineHeld = false)) : bidPoint s = s := by
  unfold bidPoint
  exact if_neg (by simpa using h)

/-- The frame on the bus is sent under the station number (R142). -/
theorem sentGroups_of_sending {f : Sending} (h : s.bc.sending = some f) :
    sentGroups s = frameGroups s.sc.number ((flightOf s (payloadClass f.payload)).any (·.repeated)) f.payload := by
  simp [sentGroups, h]

theorem sentGroups_of_not_sending (h : s.bc.sending = none) : sentGroups s = [] := by
  simp [sentGroups, h]

/-- The frame on the bus after a win is in flight (R131). -/
theorem winArbitration_flight {p : Payload} {won : Bool} (h : s.bc.sending = some { payload := p, won := won })
    (hw : won = false ∨ flightOf s (payloadClass p) ≠ none) :
    flightOf (winArbitration s) (payloadClass p) ≠ none := by
  cases won with
  | true => simpa [winArbitration, h] using hw
  | false =>
    cases p <;> simp [winArbitration, h, payloadClass, flightOf, winReport, setFlight]
      <;> split <;> simp_all

end Sys2Proof.Machine
end

