-- ==== Sys2Proof/Laws/Memory.lean ====
section
/-! SUPPORT. Show memory: every operation keeps the canonical form, a read after a write gives the value written,
and a write leaves every other offset alone. -/

namespace Sys2Proof.Machine

theorem wfFrom_cons {low k : Nat} {b : Byte} {rest : List Host.Cell} :
    Memory.wfFrom low ((k, b) :: rest) = true ↔
      low ≤ k ∧ k < Config.memorySize ∧ b ≠ unlistedByte ∧ Memory.wfFrom (k + 1) rest = true := by
  simp [Memory.wfFrom, and_assoc]

theorem wfFrom_mono {m : List Host.Cell} {low low' : Nat} (h : low' ≤ low) (hm : Memory.wfFrom low m = true) :
    Memory.wfFrom low' m = true := by
  cases m with
  | nil => rfl
  | cons c rest =>
    obtain ⟨k, b⟩ := c
    rw [wfFrom_cons] at *
    exact ⟨by omega, hm.2⟩

/-- An offset below every listed one reads as the unlisted byte. -/
theorem readByte_below {m : List Host.Cell} {low a : Nat} (hm : Memory.wfFrom low m = true) (ha : a < low) :
    readByte m a = unlistedByte := by
  induction m generalizing low with
  | nil => rfl
  | cons c rest ih =>
    obtain ⟨k, b⟩ := c
    rw [wfFrom_cons] at hm
    have : k ≠ a := by omega
    simp only [readByte, this, if_false]
    exact ih hm.2.2.2 (by omega)

theorem dropByte_wf {m : List Host.Cell} {low : Nat} (a : Nat) (hm : Memory.wfFrom low m = true) :
    Memory.wfFrom low (dropByte m a) = true := by
  induction m generalizing low with
  | nil => rfl
  | cons c rest ih =>
    obtain ⟨k, b⟩ := c
    rw [wfFrom_cons] at hm
    unfold dropByte
    split
    · exact wfFrom_mono (by omega) hm.2.2.2
    · rw [wfFrom_cons]
      exact ⟨hm.1, hm.2.1, hm.2.2.1, ih hm.2.2.2⟩

theorem insertByte_wf {m : List Host.Cell} {low a : Nat} {b : Byte} (hlow : low ≤ a)
    (ha : a < Config.memorySize) (hb : b ≠ unlistedByte) (hm : Memory.wfFrom low m = true) :
    Memory.wfFrom low (insertByte m a b) = true := by
  induction m generalizing low with
  | nil => simp [insertByte, Memory.wfFrom, hlow, ha, hb]
  | cons c rest ih =>
    obtain ⟨k, d⟩ := c
    rw [wfFrom_cons] at hm
    unfold insertByte
    split
    · rw [wfFrom_cons, wfFrom_cons]
      exact ⟨hlow, ha, hb, by omega, hm.2⟩
    · split
      · rw [wfFrom_cons]
        refine ⟨hlow, ha, hb, ?_⟩
        have : a = k := by omega
        exact this ▸ hm.2.2.2
      · rw [wfFrom_cons]
        exact ⟨hm.1, hm.2.1, hm.2.2.1, ih (by omega) hm.2.2.2⟩

theorem writeByte_wf {m : List Host.Cell} (a : Nat) (b : Byte) (hm : Memory.wf m = true) :
    Memory.wf (writeByte m a b) = true := by
  unfold writeByte
  split
  · split
    · exact dropByte_wf a hm
    · exact insertByte_wf (Nat.zero_le a) (by assumption) (by assumption) hm
  · exact hm

theorem writeBytes_wf {m : List Host.Cell} (a : Nat) (bs : List Byte) (hm : Memory.wf m = true) :
    Memory.wf (writeBytes m a bs) = true := by
  induction bs generalizing m a with
  | nil => exact hm
  | cons b rest ih => exact ih (a + 1) (writeByte_wf a b hm)

theorem readByte_insertByte {m : List Host.Cell} {low a : Nat} {b : Byte} (x : Nat)
    (hm : Memory.wfFrom low m = true) :
    readByte (insertByte m a b) x = if x = a then b else readByte m x := by
  induction m generalizing low with
  | nil =>
    by_cases h : x = a
    · simp [insertByte, readByte, h]
    · simp [insertByte, readByte, h, Ne.symm h]
  | cons c rest ih =>
    obtain ⟨k, d⟩ := c
    rw [wfFrom_cons] at hm
    unfold insertByte
    split
    · by_cases h : x = a
      · simp [readByte, h]
      · simp [readByte, h, Ne.symm h]
    · split
      · rename_i h1 h2
        by_cases h : x = a
        · simp [readByte, h]
        · have : k ≠ x := by omega
          simp [readByte, h, Ne.symm h, this]
      · by_cases h : k = x
        · have : x ≠ a := by omega
          simp [readByte, h, this]
        · simp only [readByte, h, if_false]
          exact ih hm.2.2.2

theorem readByte_dropByte {m : List Host.Cell} {low a : Nat} (x : Nat) (hm : Memory.wfFrom low m = true) :
    readByte (dropByte m a) x = if x = a then unlistedByte else readByte m x := by
  induction m generalizing low with
  | nil => simp [dropByte, readByte]
  | cons c rest ih =>
    obtain ⟨k, d⟩ := c
    rw [wfFrom_cons] at hm
    unfold dropByte
    split
    · rename_i h
      by_cases hx : x = a
      · rw [if_pos hx]
        exact readByte_below hm.2.2.2 (by omega)
      · have : k ≠ x := by omega
        simp [readByte, hx, this]
    · by_cases h : k = x
      · have : x ≠ a := by omega
        simp [readByte, h, this]
      · simp only [readByte, h, if_false]
        exact ih hm.2.2.2

/-- Read after write, in one: the byte written at its offset, every other byte as before (R174). -/
theorem readByte_writeByte {m : List Host.Cell} {a : Nat} {b : Byte} (x : Nat) (hm : Memory.wf m = true) :
    readByte (writeByte m a b) x = if x = a ∧ a < Config.memorySize then b else readByte m x := by
  unfold writeByte
  by_cases ha : a < Config.memorySize
  · by_cases hb : b = unlistedByte
    · simp only [ha, hb, if_true, and_true]
      exact readByte_dropByte x hm
    · simp only [ha, hb, if_true, if_false, and_true]
      exact readByte_insertByte x hm
  · simp [ha]

/-- The bytes below 65,536 of a block write stand at their offsets; every other byte is as before (R174). -/
theorem readByte_writeBytes {m : List Host.Cell} {a : Nat} {bs : List Byte} (x : Nat) (hm : Memory.wf m = true) :
    readByte (writeBytes m a bs) x =
      if a ≤ x ∧ x < a + bs.length ∧ x < Config.memorySize then bs.getD (x - a) 0 else readByte m x := by
  induction bs generalizing m a with
  | nil => simp [writeBytes]; omega
  | cons b rest ih =>
    rw [writeBytes, ih (writeByte_wf a b hm), readByte_writeByte x hm]
    by_cases h : x = a
    · subst h
      by_cases hs : x < Config.memorySize <;> simp [hs]
    · by_cases h2 : a + 1 ≤ x ∧ x < a + 1 + rest.length ∧ x < Config.memorySize
      · have h3 : a ≤ x ∧ x < a + (b :: rest).length ∧ x < Config.memorySize := by simp; omega
        rw [if_pos h2, if_pos h3]
        obtain ⟨d, hd⟩ : ∃ d, x - a = d + 1 := ⟨x - a - 1, by omega⟩
        have : x - (a + 1) = d := by omega
        rw [hd, this, List.getD_cons_succ]
      · have h3 : ¬(a ≤ x ∧ x < a + (b :: rest).length ∧ x < Config.memorySize) := by simp; omega
        rw [if_neg h2, if_neg h3, if_neg (fun hx => h hx.1)]

/-- Reading a run of bytes of a canonical memory reads each of its bytes. -/
theorem bytesFrom_eq {m : List Host.Cell} {a : Nat} (n : Nat) (hm : Memory.wfFrom a m = true) :
    bytesFrom m a n = (List.range' a n).map (readByte m) := by
  induction n generalizing m a with
  | zero => cases m <;> simp [bytesFrom]
  | succ n ih =>
    cases m with
    | nil =>
      have : bytesFrom [] (a + 1) n = (List.range' (a + 1) n).map (readByte []) := ih rfl
      simp [bytesFrom, this, List.range'_succ, readByte]
    | cons c rest =>
      obtain ⟨k, b⟩ := c
      have hc := wfFrom_cons.mp hm
      unfold bytesFrom
      split
      · rename_i h
        subst h
        rw [ih hc.2.2.2, List.range'_succ, List.map_cons]
        congr 1
        · simp [readByte]
        · refine List.map_congr_left (fun x hx => ?_)
          have : k ≠ x := by have := List.mem_range'_1.mp hx; omega
          simp [readByte, this]
      · rename_i h
        have hw : Memory.wfFrom (a + 1) ((k, b) :: rest) = true :=
          wfFrom_cons.mpr ⟨by omega, hc.2⟩
        rw [ih hw, List.range'_succ, List.map_cons]
        congr 1
        have := readByte_below hw (Nat.lt_succ_self a)
        exact this.symm

theorem reset_memory_wf : Memory.wf State.reset.sm.bytes = true := rfl

end Sys2Proof.Machine
end

