-- ==== Sys2Proof/Laws/Mix.lean ====
section
/-! SUPPORT. The output point: what the gain law and the servo do to each channel, and their frames. -/

namespace Sys2Proof.Machine

theorem channels_nodup : channels.Nodup := List.nodup_finRange 16

/-! ## Gain law -/

/-- What following the HEADROOM flag can do: set the flag, with a post, or set or clear it without one (R8). -/
theorem followHeadroom_frame (ch : Channel) (s : State) :
    followHeadroom ch s = { s with
      mr := { s.mr with headroom := put s.mr.headroom ch ((channelSum s ch).any (100 < ·)) }
      lp := (followHeadroom ch s).lp } := by
  unfold followHeadroom
  cases h : channelSum s ch with
  | none => rfl
  | some sum =>
    simp only [Option.any_some]
    by_cases hs : 100 < sum
    · simp only [hs, if_true, decide_true]
      by_cases hh : s.mr.headroom[ch] = true
      · have : put s.mr.headroom ch true = s.mr.headroom := by rw [← hh]; exact put_self _ _
        simp [hh, this]
      · simp only [hh]
        rfl
    · simp [hs, setHeadroom]

/-- The event part of the load port's state that following the flag may change. -/
theorem followHeadroom_lp (ch : Channel) (s : State) :
    (followHeadroom ch s).lp = { s.lp with
      queue := (followHeadroom ch s).lp.queue, gapPending := (followHeadroom ch s).lp.gapPending
      stale := (followHeadroom ch s).lp.stale, attn := (followHeadroom ch s).lp.attn } := by
  unfold followHeadroom
  repeat' split
  all_goals rfl

/-- The role reads no HEADROOM flag, no applied code and no event. -/
theorem isAudio_frame (s : State) (lp : LoadPort) (headroom : Vector Bool 16) (applied : Vector GainCode 16)
    (ch : Channel) :
    isAudio { s with mr := { s.mr with headroom := headroom, applied := applied }, lp := lp } ch = isAudio s ch := rfl

/-- One AUDIO channel at an output point: its flag and its applied code. -/
theorem mixChannel_eq (step : Nat) (s : State) (ch : Channel) (h : isAudio s ch = true) :
    mixChannel step s ch = { s with
      mr := { s.mr with
        headroom := put s.mr.headroom ch ((channelSum s ch).any (100 < ·))
        applied := put s.mr.applied ch (slew step s.mr.applied[ch] (aimOf s ch)) }
      lp := (followHeadroom ch s).lp } := by
  unfold mixChannel
  rw [if_pos h]
  simp only
  generalize hl : (followHeadroom ch s).lp = lp
  rw [followHeadroom_frame, hl]
  rfl

theorem mixChannel_other (step : Nat) (s : State) (ch : Channel) (h : isAudio s ch = false) :
    mixChannel step s ch = s := by
  unfold mixChannel
  simp [h]

/-- Everything a channel's turn leaves as it is. -/
theorem mixChannel_frame (step : Nat) (s : State) (ch : Channel) :
    mixChannel step s ch = { s with
      mr := { s.mr with
        headroom := (mixChannel step s ch).mr.headroom, applied := (mixChannel step s ch).mr.applied }
      lp := { s.lp with
        queue := (mixChannel step s ch).lp.queue, gapPending := (mixChannel step s ch).lp.gapPending
        stale := (mixChannel step s ch).lp.stale, attn := (mixChannel step s ch).lp.attn } } := by
  cases h : isAudio s ch with
  | true =>
    rw [mixChannel_eq step s ch h]
    congr 1
    exact followHeadroom_lp ch s
  | false =>
    rw [mixChannel_other step s ch h]

/-- Everything the gain law leaves as it is. -/
theorem gainLaw_frame (s : State) :
    gainLaw s = { s with
      mr := { s.mr with headroom := (gainLaw s).mr.headroom, applied := (gainLaw s).mr.applied }
      lp := { s.lp with
        queue := (gainLaw s).lp.queue, gapPending := (gainLaw s).lp.gapPending
        stale := (gainLaw s).lp.stale, attn := (gainLaw s).lp.attn } } := by
  unfold gainLaw
  split
  · refine foldl_keeps (P := fun (t : State) => t = { s with
      mr := { s.mr with headroom := t.mr.headroom, applied := t.mr.applied }
      lp := { s.lp with
        queue := t.lp.queue, gapPending := t.lp.gapPending, stale := t.lp.stale, attn := t.lp.attn } })
      (fun t ch h => ?_) channels rfl
    rw [mixChannel_frame, h]
  · rfl

/-- The applied code and the HEADROOM flag of each channel after the gain law of RUN. -/
theorem gainLaw_channel (s : State) (hrun : s.sc.state = .run) (ch : Channel) :
    ((gainLaw s).mr.applied[ch], (gainLaw s).mr.headroom[ch]) =
      if isAudio s ch then
        (slew (setting s 0 (·.slewStep)) s.mr.applied[ch] (aimOf s ch), (channelSum s ch).any (100 < ·))
      else (s.mr.applied[ch], s.mr.headroom[ch]) := by
  unfold gainLaw
  rw [if_pos hrun]
  generalize setting s 0 (·.slewStep) = step
  have := foldl_places (f := mixChannel step)
    (view := fun (t : State) (j : Channel) => (t.mr.applied[j], t.mr.headroom[j]))
    (new := fun (t : State) (j : Channel) =>
      if isAudio t j then (slew step t.mr.applied[j] (aimOf t j), (channelSum t j).any (100 < ·))
      else (t.mr.applied[j], t.mr.headroom[j]))
    (fun t i => by
      cases h : isAudio t i with
      | true => simp [mixChannel_eq step t i h]
      | false => simp [mixChannel_other step t i h])
    (fun t i j hij => by
      cases h : isAudio t i with
      | true => simp [mixChannel_eq step t i h, Fin.val_inj, hij]
      | false => simp [mixChannel_other step t i h])
    (fun t i j hij => by
      cases h : isAudio t i with
      | true =>
        rw [mixChannel_eq step t i h]
        rw [isAudio_frame]
        simp [Fin.val_inj, hij]
        rfl
      | false => rw [mixChannel_other step t i h])
    channels channels_nodup s ch
  rw [this, if_pos (mem_channels ch)]

/-! ## The burst (R179) -/

theorem burstBits_of_not_bursting {s : State} (h : s.mr.bursting = false) : burstBits s = [] := by
  simp [burstBits, h]

theorem burstBits_of_bursting {s : State} (h : s.mr.bursting = true) : burstBits s =
    channels.flatMap (fun ch => (List.range 16).map (linkWord s.mr.link[ch]).getMsbD) := by
  simp [burstBits, h]

/-! ## The pacing of GROUP frames (R97) -/

@[simp] theorem sendLimit_dirty (since : Nat) : sendLimit true since = 8000 := rfl

@[simp] theorem sendLimit_at_spacing (dirty : Bool) : sendLimit dirty 8000 = 8000 := by cases dirty <;> rfl

theorem sendLimit_clean {since : Nat} (h : since ≠ 8000) : sendLimit false since = 250000 := by
  have hs : (since == Config.groupSpacing) = false := beq_eq_false_iff_ne.mpr h
  simp [sendLimit, hs]
  rfl

/-! ## Servo -/

/-- What the stall timer can do to a motor the servo has acted on (R118). -/
theorem countStall_strip (ch : Channel) (x : Strip) (s : State) :
    (countStall ch x s).st.strips = put s.st.strips ch
      (if motorBusy x.motor then
        if x.stall + 1 < stallLimit s then { x with stall := x.stall + 1 }
        else { x with motor := .stalled, rest := 0, stall := stallLimit s }
      else { x with stall := 0 }) := by
  unfold countStall
  repeat' split
  all_goals simp_all

/-- Counting a stall changes the channel's strip and the event queue alone. -/
theorem countStall_frame (ch : Channel) (x : Strip) (s : State) :
    countStall ch x s = { s with
      st := { s.st with strips := (countStall ch x s).st.strips }
      lp := { s.lp with
        queue := (countStall ch x s).lp.queue, gapPending := (countStall ch x s).lp.gapPending
        stale := (countStall ch x s).lp.stale, attn := (countStall ch x s).lp.attn } } := by
  unfold countStall
  repeat' split
  all_goals rfl

/-- The strip the servo leaves for a motor it takes as `motor`. -/
def servoStrip (h : Header) (level : Position) (limit : Nat) (motor : Motor) (x : Strip) : Strip :=
  let (next, rest) := servoDecision h motor ((level.val : Int) - x.measured.val)
  if motorBusy next then
    if x.stall + 1 < limit then { x with motor := next, rest := rest, stall := x.stall + 1 }
    else { x with motor := .stalled, rest := 0, stall := limit }
  else { x with motor := next, rest := rest, stall := 0 }

/-- The strip of a channel after the servo of an output point in RUN (R116 to R118). -/
def servoedStrip (h : Header) (s : State) (ch : Channel) : Strip :=
  let x := s.st.strips[ch]
  if isMotor s ch && x.mode = .auto then
    match x.motor with
    | .stalled => x
    | .rest =>
      if x.rest ≤ 1 then servoStrip h s.fe.levels[ch] (stallLimit s) .off x
      else if x.stall + 1 < stallLimit s then { x with rest := x.rest - 1, stall := x.stall + 1 }
      else { x with motor := .stalled, rest := 0, stall := stallLimit s }
    | motor => servoStrip h s.fe.levels[ch] (stallLimit s) motor x
  else x

theorem servoAct_strips (h : Header) (ch : Channel) (motor : Motor) (s : State) :
    (servoAct h ch motor s).st.strips =
      put s.st.strips ch (servoStrip h s.fe.levels[ch] (stallLimit s) motor s.st.strips[ch]) := by
  unfold servoAct servoStrip
  simp only [countStall_strip]

theorem servoChannel_strips (h : Header) (s : State) (ch : Channel) :
    (servoChannel h s ch).st.strips = put s.st.strips ch (servoedStrip h s ch) := by
  unfold servoChannel servoedStrip
  simp only
  split
  · cases hm : s.st.strips[ch].motor with
    | stalled => simp
    | rest =>
      simp only
      split
      · rw [servoAct_strips]
      · simp [countStall_strip, motorBusy]
    | off => simp only [servoAct_strips]
    | brake => simp only [servoAct_strips]
    | driveUp d => simp only [servoAct_strips]
    | driveDown d => simp only [servoAct_strips]
  · simp

theorem servoAct_frame (h : Header) (ch : Channel) (motor : Motor) (s : State) :
    servoAct h ch motor s = { s with
      st := { s.st with strips := (servoAct h ch motor s).st.strips }
      lp := { s.lp with
        queue := (servoAct h ch motor s).lp.queue, gapPending := (servoAct h ch motor s).lp.gapPending
        stale := (servoAct h ch motor s).lp.stale, attn := (servoAct h ch motor s).lp.attn } } :=
  countStall_frame _ _ _

/-- The servo of a channel changes its strip and the event queue alone. -/
theorem servoChannel_frame (h : Header) (s : State) (ch : Channel) :
    servoChannel h s ch = { s with
      st := { s.st with strips := (servoChannel h s ch).st.strips }
      lp := { s.lp with
        queue := (servoChannel h s ch).lp.queue, gapPending := (servoChannel h s ch).lp.gapPending
        stale := (servoChannel h s ch).lp.stale, attn := (servoChannel h s ch).lp.attn } } := by
  unfold servoChannel
  simp only
  repeat' split
  all_goals first | rfl | exact servoAct_frame _ _ _ _ | exact countStall_frame _ _ _

/-- Everything the servo leaves as it is. -/
theorem servo_frame (s : State) :
    servo s = { s with
      st := { s.st with strips := (servo s).st.strips }
      lp := { s.lp with
        queue := (servo s).lp.queue, gapPending := (servo s).lp.gapPending
        stale := (servo s).lp.stale, attn := (servo s).lp.attn } } := by
  unfold servo
  repeat' split
  · refine foldl_keeps (P := fun (t : State) => t = { s with
      st := { s.st with strips := t.st.strips }
      lp := { s.lp with
        queue := t.lp.queue, gapPending := t.lp.gapPending, stale := t.lp.stale, attn := t.lp.attn } })
      (fun t ch h => ?_) channels rfl
    rw [servoChannel_frame, h]
  · rfl
  · rfl

/-- The bridge of a MOTOR channel follows its motor state (R115). -/
theorem bridgeOutput_of_motor {s : State} {ch : Channel} (h : isMotor s ch = true) :
    bridgeOutput s ch = bridgeOf s.st.strips[ch].motor := by
  simp [bridgeOutput, h]

theorem bridgeOutput_of_no_motor {s : State} {ch : Channel} (h : isMotor s ch = false) :
    bridgeOutput s ch = { up := 0, down := 0, heldLow := false } := by
  simp [bridgeOutput, h, bridgeOf]

/-- The two outputs of a pair never carry drive together (R115). -/
theorem bridgeOf_one_output (m : Motor) : (bridgeOf m).up = 0 ∨ (bridgeOf m).down = 0 := by
  cases m <;> simp [bridgeOf]

/-- The strip of each channel after the servo in RUN. -/
theorem servo_strip (s : State) (im : ShowImage) (hrun : s.sc.state = .run) (him : s.sm.image = some im)
    (ch : Channel) : (servo s).st.strips[ch] = servoedStrip im.header s ch := by
  unfold servo
  rw [him]
  simp only [hrun, if_true]
  have := foldl_places (f := servoChannel im.header)
    (view := fun (t : State) (j : Channel) => t.st.strips[j]) (new := fun t j => servoedStrip im.header t j)
    (fun t i => by simp [servoChannel_strips])
    (fun t i j hij => by simp [servoChannel_strips, Fin.val_inj, hij])
    (fun t i j hij => by
      have hs : (servoChannel im.header t i).st.strips[j] = t.st.strips[j] := by
        simp [servoChannel_strips, Fin.val_inj, hij]
      rw [servoChannel_frame] at hs ⊢
      unfold servoedStrip
      simp only at hs ⊢
      rw [hs]
      rfl)
    channels channels_nodup s ch
  rw [this, if_pos (mem_channels ch)]

end Sys2Proof.Machine
end

