-- ==== Sys2Proof/Laws/Port.lean ====
section
/-! SUPPORT. What a port command can do, said once. -/

namespace Sys2Proof.Machine

/-- A transaction that has taken no command takes it (R171). -/
theorem taken_of_reading {s : State} (own : State) (h : s.lp.port = .reading) : taken s own = own := if_pos h

/-- Outside such a transaction nothing is taken (R171). -/
theorem taken_of_not_reading {s : State} (own : State) (h : s.lp.port ≠ .reading) : taken s own = s := if_neg h

/-- A command that is taken gives the result of its state row, or goes on to its own rule (R172). -/
theorem byStateRow_cases (row : PortRow) (s own : State) :
    (s.lp.port ≠ .reading ∧ byStateRow row s own = s)
      ∨ (s.lp.port = .reading
        ∧ ((∃ r, stateRow row s.sc.state = some r ∧ byStateRow row s own = answerOnly r s)
          ∨ (stateRow row s.sc.state = none ∧ byStateRow row s own = own))) := by
  by_cases h : s.lp.port = .reading
  · refine .inr ⟨h, ?_⟩
    cases hr : stateRow row s.sc.state with
    | none => exact .inr ⟨rfl, by simp [byStateRow, taken, h, hr]⟩
    | some r => exact .inl ⟨r, rfl, by simp [byStateRow, taken, h, hr]⟩
  · exact .inl ⟨h, by simp [byStateRow, taken, h]⟩

/-- Where the command of a transaction ends (R171). -/
theorem commandSize_spec {clocked : List Byte} {n : Nat} (h : commandSize clocked = some n) :
    n ≤ clocked.length ∧ (readCommand (clocked.take n)).isSome = true := by
  have hm := List.mem_of_find?_eq_some h
  have hp := List.find?_some h
  exact ⟨Nat.lt_succ_iff.mp (List.mem_range.mp hm), hp⟩

theorem dataOutput_of_not_taken {clocked : List Byte} (port : Port) (place : Nat) (h : commandSize clocked = none) :
    dataOutput clocked port place = 0 := by
  simp [dataOutput, h]

theorem dataOutput_of_taken {clocked : List Byte} {n : Nat} (port : Port) (place : Nat)
    (h : commandSize clocked = some n) :
    dataOutput clocked port place = if place < n then 0 else (responseBytes port).getD (place - n) 0 := by
  simp [dataOutput, h]

/-- The commands that LOAD DATA's bytes spell: the first so many bytes after the length byte (R174). -/
theorem readCommand_loadData (length : Byte) (data rest : List Byte) (h : data.length = length.toNat) :
    readCommand (0x11 :: length :: (data ++ rest)) = some (.loadData length data) := by
  simp [readCommand, ← h]

end Sys2Proof.Machine
end

