-- ==== Sys2Proof/Tests/Slice0.lean ====
section
/-!
SUPPORT. Tests of the model on single commands, with expected values from the examples and tables of spec/, and for
every statement with hypotheses a concrete state and operands that meet them, clause by clause, at the ends of their
ranges.
-/

namespace Sys2Proof.Tests.Slice0

set_option maxRecDepth 20000
set_option Elab.async false

open Sys2Proof Sys2Proof.Machine

/-! ## States to test on -/

/-- An UNUSED entry with the actions MUTE. -/
def unusedEntry : ChannelEntry where
  role := .unused
  fader := .absent
  preset := 0
  presetMute := false
  stopA := .mute
  stopB := .mute

/-- Channel 1 AUDIO and PLAIN, member of groups 1 and 2; channel 2 AUDIO and MOTOR under KEEP; channel 3 AUDIO and MOTOR
under RETURN, solo-safe; channel 4 MASTER of group 1; the rest UNUSED. -/
def channelTable : Vector ChannelEntry 16 :=
  put (put (put (put (Vector.replicate 16 unusedEntry)
    0 { unusedEntry with role := .audio [0, 1] false, fader := .plain, preset := 256, stopA := .hold })
    1 { unusedEntry with role := .audio [] false, fader := .motor .keep, stopA := .level 512, stopB := .hold })
    2 { unusedEntry with role := .audio [] true, fader := .motor .returns, presetMute := true, stopB := .level 0 })
    3 { unusedEntry with role := .master 0, preset := 768 }

def header : Header where
  repeatGuard := 50
  slewStep := 10
  modeA := .latched
  modeB := .follow
  touchHold := 20
  deadband := 3
  kp := 4
  minDuty := 60
  reversalRest := 5
  stallLimit := 100
  eventThreshold := 2
  staleTime := 10
  cueCount := 4
  moveCount := 5

def level (ch : Channel) (delay fade : Nat) (target : Position) : Move where
  channel := ch
  delay := delay
  kind := .level fade .linear target

def cues : List CueRecord :=
  [ { number := 100, follow := some { target := 300, delay := 50 }, moves := [level 0 0 10 512, level 1 5 0 300] },
    { number := 200, follow := none, moves := [level 0 0 0 700, { channel := 0, delay := 0, kind := .muteOn }] },
    { number := 300, follow := none, moves := [level 2 0 20 1] },
    { number := 99999, follow := none, moves := [] } ]

def image : ShowImage where
  header := header
  channels := channelTable
  cues := cues

/-- Station 5 in RUN with that image, in a port transaction that has taken no command. -/
def run : State :=
  { State.reset with
    sc := { State.reset.sc with number := 5, state := .run, refresh := some 0 }
    lp := { State.reset.lp with port := .reading }
    sm := { State.reset.sm with image := some image } }

/-- The header with one change, in the image of `run`. -/
def runWith (change : Header → Header) : State :=
  { run with sm := { run.sm with image := some { image with header := change header } } }

/-- A state with the peer of station 3 PRESENT and a frame being received. -/
def hearing (s : State) : State :=
  { s with
    bc := { s.bc with phase := .receiving }
    sc := { s.sc with peers := put s.sc.peers 2 { PeerEntry.afterReset with presence := .present } } }

def inState (st : StationState) (s : State) : State := { s with sc := { s.sc with state := st } }

def withStrip (s : State) (ch : Channel) (x : Strip) : State :=
  { s with st := { s.st with strips := put s.st.strips ch x } }

def withPool (s : State) (pool : List PoolRecord) : State := { s with fe := { s.fe with pool := pool } }

def withStop (s : State) (e : EffectiveStop) : State := { s with sp := { s.sp with effective := e } }

/-- Channel 1 at a level, group 1 owned by station 3 at a position with its own master DEMOTED, group 2 UNOWNED. -/
def mixAt (level master : Position) : State :=
  { run with
    fe := { run.fe with levels := put run.fe.levels 0 level }
    mr := { run.mr with
      masters := put run.mr.masters 3 { Master.afterReset with demoted := true }
      groups := put run.mr.groups 0
        (.owned { stale := false, owner := 2, position := master, mute := false, age := 0 }) } }

/-- The state a command leaves; every command answers a next state. -/
def after (c : Instr) (s : State) : State :=
  match exec c s with
  | .next t => t
  | .fault _ => s
  | .refused _ => s

/-- The state a step leaves. -/
def stepped (s : State) : State :=
  match step s with
  | .next t => t
  | .fault _ => s
  | .refused _ => s

/-! ## Terms that are no command -/

/-- A FIRE frame one group short, and one group long (R124, R128). -/
theorem test_frame_length_refused :
    WellFormed (.frameReceived ((frameGroups 12 false (.cue .fire .port 100)).take 11)) = false
      ∧ WellFormed (.frameReceived (frameGroups 12 false (.cue .fire .port 100) ++ [1])) = false
      ∧ WellFormed (.frameReceived []) = false
      ∧ WellFormed (.frameReceived (frameGroups 12 false (.cue .fire .port 100))) = true := by decide

/-- A LOAD DATA with fewer data bytes than its length says (R174). -/
theorem test_load_data_length_refused :
    WellFormed (.loadData 2 [0]) = false ∧ WellFormed (.loadData 2 [0, 1]) = true := by decide

/-- A frame of 16 dominant bits and more in a row, and runs that no failed attempt has (R132, R137). -/
theorem test_runs_refused :
    WellFormed (.frameReceived ([0, 0, 0] ++ (frameGroups 12 false (.stop false .a 3)).drop 3)) = false
      ∧ WellFormed (.attemptFailed (.mismatch 7)) = false ∧ WellFormed (.attemptFailed (.mismatch 6)) = true
      ∧ WellFormed (.attemptFailed (.errorWindow 0)) = false ∧ WellFormed (.attemptFailed (.errorWindow 1)) = true := by
  decide

/-- A code of R182's table is no unknown code (R171). -/
theorem test_unknown_code_refused :
    WellFormed (.unknownCommand 0x30) = false ∧ WellFormed (.unknownCommand 0x33) = true := by decide

/-- The table gives no bits, so no word spells a command (log 29). -/
theorem test_no_word_spells_a_command :
    decodeTableWord 8 0 = none ∧ State.reset.withFetchWord 8 0 = State.reset := ⟨rfl, rfl⟩

/-- R182: LOAD DATA of two bytes with one byte more, FIRE of cue 99999, and a code without its arguments. -/
theorem test_port_bytes_spell_their_command :
    readCommand [0x11, 2, 7, 8, 9] = some (.loadData 2 [7, 8])
      ∧ readCommand [0x21, 0x01, 0x86, 0x9F] = some (.fire 99999) ∧ readCommand [0x21, 0x01, 0x86] = none
      ∧ readCommand [0x13] = some (.unknownCommand 0x13) := by decide

/-! ## Check values of the spec -/

/-- R180: the CRC of the bytes 31h to 39h is 29B1h. -/
theorem test_crc_check_value :
    crc [0x31, 0x32, 0x33, 0x34, 0x35, 0x36, 0x37, 0x38, 0x39] = 0x29B1#16 := by decide

/-- R180: a CUE frame from station 12 has arbitration byte 58h, sent as 01010 and 10001. -/
theorem test_arbitration_byte :
    arbitrationByte .cue 12 false = 0x58 ∧ byteGroups 0x58 = [0b01010#5, 0b10001#5] := by decide

/-- 1.2, the check values of the taper. -/
theorem test_taper_check_values :
    [1, 2, 64, 128, 192, 256, 384, 512, 640, 688, 768, 900, 1000, 1023].map taper
      = [-800, -798, -652, -500, -400, -300, -200, -100, -50, -32, 0, 51, 90, 100] := by decide

/-- R11: stop levels 512, 768 and 1. -/
theorem test_stop_level_codes : [0, 1, 512, 768, 1023].map stopLevelCode = [0, 100, 800, 900, 1000] := by decide

/-- 4.5, the check values of a fade from 768 to 256 in 2000 level points at count 500, and its ends. -/
theorem test_fade_check_values :
    ([.linear, .scurve, .early, .late].map (fun c => fadeLevel 768 256 c 500 2000) = [640, 688, 544, 736])
      ∧ fadeLevel 768 256 .linear 1 2000 = 768 ∧ fadeLevel 768 256 .late 2000 2000 = 256 := by decide

/-- 11, example: CUE FIRED for cue 1250 from station 9's port at timestamp 603. -/
theorem test_event_record_bytes :
    recordBytes { kind := .cueFired, gap := false, stamp := 603, first := 1250, second := 37 }
      = [0x01, 0x02, 0x5B, 0x00, 0x4E, 0x20, 0x00, 0x25] := by decide

/-- 1, worked case "Reaching off through the groups". -/
theorem test_off_through_the_groups :
    channelSum (mixAt 64 384) 0 = some (-852) ∧ channelCode (mixAt 64 384) 0 = 48
      ∧ channelSum (mixAt 64 0) 0 = none ∧ channelCode (mixAt 64 0) 0 = 0 := by decide

/-- 1, worked case "HEADROOM over four output points", the first two sums. -/
theorem test_headroom_event :
    let t := after .outputPoint (mixAt 1000 1023)
    t.mr.headroom[0] = true ∧ t.lp.queue = [{ kind := .headroom, gap := false, stamp := 0, first := 1, second := 190 }]
      ∧ (after .outputPoint t).lp.queue.length = 1 := by decide

/-! ## Hypotheses that are met: the queue, the resets and the mix -/

theorem witness_StepRunsFrontCommand :
    ({ run with pending := [.bidPoint, .levelPoint] } : State).pending = .bidPoint :: [.levelPoint] := rfl

/-- The commands a step raises that has none waiting. -/
def raises (c : Instr) (s : State) : Bool := (stepped s).pending.contains c

def withBus (f : BusController → BusController) (s : State) : State := { s with bc := f s.bc }

/-- Each signalling state on an empty queue, and each event one bit time before its limit and two. -/
theorem witness_IdleStepPassesOneBitTime :
    let idle (gap : Nat) : State := withBus (fun b => { b with gap := gap }) run
    let sent (n gap : Nat) : State := withBus (fun b => { b with
      phase := .sending, sent := n, gap := gap, sending := some { payload := .stop false .a 5, won := true } }) run
    run.pending = [] ∧ (∀ b, (withBus b run).pending = [])
      ∧ (raises .bidPoint (idle 19) = true ∧ raises .bidPoint (idle 18) = false ∧ raises .bidPoint (idle 20) = true)
      ∧ (raises .busBreak (withBus (fun b => { b with lineHeld := true, run := 15 }) run) = true
        ∧ raises .busBreak (withBus (fun b => { b with lineHeld := true, run := 14 }) run) = false)
      ∧ ((stepped (sent 40 0)).bc.sent = 41 ∧ (stepped (sent 41 0)).bc.gap = 1
        ∧ raises .frameComplete (sent 41 15) = true ∧ raises .frameComplete (sent 41 14) = false)
      ∧ (raises .busBreakEnd (withBus (fun b => { b with phase := .broken, drive := 1 }) run) = true
        ∧ raises .busFault (withBus (fun b => { b with phase := .broken, lineHeld := true, run := 1999 }) run) = true)
      ∧ (raises .busRestored (withBus (fun b => { b with phase := .fault, quiet := 1999 }) run) = true
        ∧ raises .busRestored (withBus (fun b => { b with phase := .fault, quiet := 1998 }) run) = false)
      ∧ (stepped (withBus (fun b => { b with phase := .receiving, gap := 7 }) run)).bc.gap = 7 := by
  refine ⟨rfl, fun _ => rfl, ?_⟩
  decide

/-- Three events due in one bit time stand in the order of log 5, and nothing else joins them. -/
theorem witness_IdleStepPassesOneBitTime_order :
    (stepped (withStrip { withBus (fun b => { b with gap := 19 }) run with
      lp := { run.lp with stale := .running 1 }, period := { phase := 1, begun := true } } 1
      { Strip.afterReset 0 true with touch := .hold 1 })).pending = [.staleTimerExpiry, .freeArrival 1, .bidPoint] := by
  decide

/-- The timers of the strips, the lines, the port and the period. -/
theorem witness_IdleStepPassesOneBitTime_strips_and_points :
    let touch (t : Touch) : State := withStrip run 1 { Strip.afterReset 0 true with touch := t }
    let line (raw : Bool) (n : Micros) : State := { run with
      sp := { run.sp with lineB := { raw := raw, asserted := !raw, timer := some n } } }
    let phase (n : Nat) : State := { run with period := { phase := n, begun := true } }
    raises (.touchInputAsserted 1) (touch .free) = true
      ∧ (raises (.touchedArrival 1) (touch (.pending 1999)) = true
        ∧ raises (.touchedArrival 1) (touch (.pending 1998)) = false)
      ∧ (raises (.freeArrival 1) (touch (.hold 1)) = true ∧ raises (.freeArrival 1) (touch (.hold 2)) = false)
      ∧ (raises (.lineAssertion .b) (line true 1999) = true ∧ raises (.lineAssertion .b) (line true 1998) = false
        ∧ raises (.lineRelease .b) (line false 1999) = true)
      ∧ (raises .staleTimerExpiry { run with lp := { run.lp with stale := .running 1 } } = true
        ∧ raises .staleTimerExpiry { run with lp := { run.lp with stale := .running 2 } } = false)
      ∧ (raises .levelPoint (phase 999) = true ∧ raises .outputPoint (phase 499) = true
        ∧ raises .runEntry (inState .catchup { phase 999 with sc := { run.sc with walkEnded := true } }) = true) := by
  decide

/-- The timers of the station, the groups and the cues; a master 8 ms and 250 ms after its last frame. -/
theorem witness_IdleStepPassesOneBitTime_station :
    let heard (n : Micros) : State := { run with sc := { run.sc with
      peers := put run.sc.peers 2 { PeerEntry.afterReset with presence := .present, heard := n } } }
    let aged (n : Micros) : State := { run with mr := { run.mr with
      groups := put run.mr.groups 1 (.owned { stale := false, owner := 2, position := 1, mute := false, age := n }) } }
    let sent (v : Option (Position × Bool)) (n : Micros) : State := { run with mr := { run.mr with
      masters := put run.mr.masters 3 { demoted := false, lastSent := v, since := n } } }
    let follow (n : Micros) : State := { run with cq := { run.cq with follow := some { target := 300, left := n } } }
    let listen (n : Micros) : State := inState .listen { run with sc := { run.sc with listen := some n } }
    (raises (.peerLost 2) (heard 399999) = true ∧ raises (.peerLost 2) (heard 399998) = false)
      ∧ (raises (.groupAgeLimit 1) (aged 999999) = true ∧ raises (.groupAgeLimit 1) (aged 999998) = false)
      ∧ (raises (.groupSendDue 3) (sent none 7999) = true ∧ raises (.groupSendDue 3) (sent none 8000) = false
        ∧ raises (.groupSendDue 3) (sent (some (0, false)) 249999) = true
        ∧ raises (.groupSendDue 3) (sent (some (0, false)) 7999) = false)
      ∧ (raises .followExpiry (follow 1) = true ∧ raises .followExpiry (follow 2) = false
        ∧ raises .followExpiry (withStop (follow 1) .b) = false)
      ∧ (raises .listenTimerExpiry (listen 1) = true
        ∧ raises .stateRefresh { run with sc := { run.sc with refresh := some 99999 } } = true) := by decide

theorem witness_RestartValues :
    run.lp.port = .reading ∧ run.sc.state = .run ∧ (inState .listen run).sc.state = .listen ∧ (inState .catchup run).sc.state = .catchup := by
  decide

/-- Both ends of each segment, and a channel at 0. -/
theorem witness_TaperFollowsItsSegments :
    (1 ≤ (1 : Position).val ∧ (1 : Position).val ≤ 128 ∧ 1 ≤ (128 : Position).val ∧ (128 : Position).val ≤ 128)
      ∧ (128 ≤ (128 : Position).val ∧ (256 : Position).val ≤ 256) ∧ (256 ≤ (256 : Position).val
        ∧ (512 : Position).val ≤ 512)
      ∧ (512 ≤ (512 : Position).val ∧ (768 : Position).val ≤ 768) ∧ 768 ≤ (1023 : Position).val
      ∧ (1 : Position) ≤ 1023 ∧ sourcePosition run 0 = 0 := by decide

/-- Sums of -900, -899, +100 and +101, a source of 0, a master of 0, a channel in HAND, and a group of each kind. -/
theorem witness_CodeFollowsPositionsAndMasters :
    (channelSum (mixAt 512 1) 0 = some (-900) ∧ channelCode (mixAt 512 1) 0 = 0)
      ∧ (channelSum (mixAt 44 384) 0 = some (-899) ∧ channelCode (mixAt 44 384) 0 = 1)
      ∧ (channelSum (mixAt 1023 768) 0 = some 100 ∧ channelCode (mixAt 1023 768) 0 = 1000)
      ∧ (channelSum (mixAt 1023 771) 0 = some 101 ∧ channelCode (mixAt 1023 771) 0 = 1000)
      ∧ sourcePosition run 0 = 0 ∧ (0 ∈ membersOf (mixAt 1 0) 0 ∧ masterPosition (mixAt 1 0) 0 = 0)
      ∧ (sourcePosition (mixAt 1 1) 0 ≠ 0 ∧ ∀ g ∈ membersOf (mixAt 1 1) 0, masterPosition (mixAt 1 1) g ≠ 0)
      ∧ (withStrip run 0 { Strip.afterReset 9 false with mode := .hand }).st.strips[0].mode = .hand
      ∧ run.st.strips[0].mode = .auto
      ∧ (hostOf run 0 = some 3 ∧ run.mr.masters[3].demoted = false)
      ∧ (hostOf (mixAt 1 1) 0 = some 3 ∧ (mixAt 1 1).mr.masters[3].demoted = true)
      ∧ (hostOf run 1 = none ∧ run.mr.groups[1] = .unowned) := by decide

/-- Each stop with each action. -/
theorem witness_AimFollowsMutesAndStops :
    (∀ ch : Channel, entryOf run ch = some channelTable[ch])
      ∧ channelTable[0].role = .audio [0, 1] false
      ∧ (run.sp.effective = .none ∧ (withStop run .a).sp.effective = .a ∧ (withStop run .b).sp.effective = .b)
      ∧ (channelTable[0].stopA = .hold ∧ channelTable[1].stopA = .level 512 ∧ channelTable[2].stopA = .mute)
      ∧ (channelTable[0].stopB = .mute ∧ channelTable[1].stopB = .hold ∧ channelTable[2].stopB = .level 0)
      ∧ (hostOf run 0 = some 3 ∧ run.mr.masters[3].demoted = false)
      ∧ (mixAt 1 1).mr.groups[0] = .owned { stale := false, owner := 2, position := 1, mute := false, age := 0 } := by
  decide

theorem witness_StopLevelCodeStandsAlone :
    ((1 : Position) ≠ 0 ∧ entryOf (withStop run .a) 1 = some channelTable[1] ∧ (withStop run .a).sp.effective = .a
        ∧ channelTable[1].stopA = .level 512)
      ∧ (entryOf (withStop run .b) 2 = some channelTable[2] ∧ (withStop run .b).sp.effective = .b
        ∧ channelTable[2].stopB = .level 0)
      ∧ run.sp.effective = .none ∧ run.sc.state = .run ∧ isAudio run 0 = true
      ∧ exec .outputPoint run = .next (after .outputPoint run) := by
  refine ⟨by decide, by decide, rfl, rfl, by decide, rfl⟩

/-- Distances of exactly one slew step of 10 and of one more, up and down, and a channel that is not AUDIO. -/
theorem witness_OutputPointMovesAppliedCodes :
    let s (code : GainCode) : State :=
      { mixAt 44 768 with mr := { (mixAt 44 768).mr with applied := put run.mr.applied 0 code } }
    aimOf run 0 = 0 ∧ aimOf (s 0) 0 = 201 ∧ setting (s 0) 0 (·.slewStep) = 10 ∧ (s 0).sc.state = .run
      ∧ isAudio (s 0) 0 = true
      ∧ (after .outputPoint (s 191)).mr.applied[0] = 201 ∧ (after .outputPoint (s 190)).mr.applied[0] = 200
      ∧ (after .outputPoint (s 211)).mr.applied[0] = 201 ∧ (after .outputPoint (s 212)).mr.applied[0] = 202
      ∧ isAudio (s 0) 3 = false ∧ (inState .listen run).sc.state ≠ .run := by decide

/-- HEADROOM of channel 1 and MOTOR STALL of channel 2 in one output point, in this order. -/
theorem test_events_of_an_output_point :
    let x : Strip := { Strip.afterReset 500 false with motor := .driveUp 60, stall := 999 }
    ((after .outputPoint (withStrip (mixAt 1000 1023) 1 x)).lp.queue.map (fun r => (r.kind, r.first)))
      = [(.headroom, 1), (.motorStall, 2)] := by decide

/-- Errors of 3 and 4 about the deadband of 3, a rest with one and with two points to go, a turn with and without a
reversal rest, and the stall timer one below its limit of 1000. -/
theorem witness_ServoActsOnEachMotor :
    let at_ (m : Motor) (error rest stall : Nat) : State :=
      { withStrip run 1 { Strip.afterReset 500 false with motor := m, rest := rest, stall := stall } with
        fe := { run.fe with levels := put run.fe.levels 1 (clampPosition (500 + error)) } }
    run.sc.state = .run ∧ run.sm.image = some image ∧ isMotor run 1 = true ∧ isMotor run 0 = false
      ∧ (∀ ch : Channel, (channelSum (at_ .off 4 0 999) ch).all (fun sum => decide (sum ≤ 100)) = true)
      ∧ (after .outputPoint (at_ .off 3 0 7)).st.strips[1].motor = .brake
      ∧ (after .outputPoint (at_ .off 4 0 7)).st.strips[1].motor = .driveUp 60
      ∧ (after .outputPoint (at_ (.driveDown 60) 4 0 7)).st.strips[1].rest = 5
      ∧ (after .outputPoint (at_ .rest 4 1 7)).st.strips[1].motor = .driveUp 60
      ∧ (after .outputPoint (at_ .rest 4 2 7)).st.strips[1].rest = 1
      ∧ (after .outputPoint (at_ .off 4 0 998)).st.strips[1].motor = .driveUp 60
      ∧ (after .outputPoint (at_ .off 4 0 999)).st.strips[1].motor = .stalled := by decide

/-- R115: the bridge of channel 2 driven, braked and stalled, and a motor state that acts on no bridge. -/
theorem test_bridge_outputs :
    let at_ (ch : Channel) (m : Motor) : Bridge :=
      bridgeOutput (withStrip run ch { Strip.afterReset 500 false with motor := m }) ch
    isMotor run 1 = true ∧ isMotor run 0 = false ∧ at_ 1 (.driveUp 60) = { up := 60, down := 0, heldLow := false }
      ∧ at_ 1 (.driveDown 255) = { up := 0, down := 255, heldLow := false }
      ∧ at_ 1 .brake = { up := 0, down := 0, heldLow := true }
      ∧ at_ 1 .stalled = { up := 0, down := 0, heldLow := false }
      ∧ at_ 0 (.driveUp 60) = { up := 0, down := 0, heldLow := false } := by decide

/-- A rest of 0 skips the pause. -/
theorem witness_ServoActsOnEachMotor_no_rest :
    let s := { withStrip (runWith (fun h => { h with reversalRest := 0 })) 1
      { Strip.afterReset 500 false with motor := .driveUp 60 } with fe := { run.fe with levels := put run.fe.levels 1 400 } }
    s.sc.state = .run ∧ isMotor s 1 = true ∧ (after .outputPoint s).st.strips[1].motor = .driveDown 255 := by decide

/-- R179: code 10 of slot 1 after an output point goes out first, in 16 bits, most significant bit first. -/
theorem test_burst_of_256_bits :
    (burstBits (after .outputPoint (mixAt 44 768))).length = 256
      ∧ (burstBits (after .outputPoint (mixAt 44 768))).take 17
        = [false, false, false, false, false, false, false, false, false, false, false, false, true, false, true, false,
          false]
      ∧ burstBits (after .gainLinkStrobe (after .outputPoint (mixAt 44 768))) = [] := by decide

theorem witness_AttenuatorsTakeTheStrobe :
    (after .outputPoint run).mr.bursting = true ∧ run.mr.bursting = false
      ∧ (Instr.levelPoint ≠ .gainLinkStrobe ∧ exec .levelPoint run = .next (after .levelPoint run))
      ∧ exec (.coldReset 5) run = .next (after (.coldReset 5) run) := ⟨by decide, rfl, ⟨by decide, rfl⟩, rfl⟩

theorem witness_AppliedCodesMoveBySlewAlone :
    exec .outputPoint (mixAt 44 768) = .next (after .outputPoint (mixAt 44 768))
      ∧ (∀ straps, Instr.outputPoint ≠ .coldReset straps) ∧ Instr.outputPoint ≠ .restart
      ∧ (after .outputPoint (mixAt 44 768)).mr.applied[0] = 10 := ⟨rfl, by decide, by decide, by decide⟩

/-! ## Hypotheses that are met: the show image -/

/-- An image of one empty cue, all channels UNUSED, before its CRC (R181): the header of `run`, 16 entries of 19 bytes,
and the record of cue 100. -/
def smallBody : List Byte :=
  [1, 50, 0, 10, 0, 1, 20, 3, 4, 60, 5, 0, 100, 2, 10, 0, 1, 0, 0] ++ List.replicate 304 0
    ++ [0, 0, 100, 0, 0, 0, 0, 0, 0, 0]

def smallImage : ShowImage where
  header := { header with cueCount := 1, moveCount := 0 }
  channels := Vector.replicate 16 unusedEntry
  cues := [{ number := 100, follow := none, moves := [] }]

/-- Station 5 in VALIDATING with some bytes loaded. -/
def loaded (bytes : List Byte) : State :=
  { inState .validating run with
    sm := { bytes := writeBytes [] 0 bytes, image := none }
    lp := { run.lp with offset := bytes.length } }

def smallBytes : List Byte := smallBody ++ bytes2 (crc smallBody).toNat

/-- The image or the load fault some bytes give. -/
def takes (bytes : List Byte) (im : ShowImage) : Bool :=
  match validate bytes with
  | .ok x => decide (x = im)
  | .error _ => false

def rejects (bytes : List Byte) (fault : LoadFault) : Bool :=
  match validate bytes with
  | .ok _ => false
  | .error x => decide (x = fault)

theorem validate_of_takes {bytes : List Byte} {im : ShowImage} (h : takes bytes im = true) :
    validate bytes = .ok im := by
  unfold takes at h
  split at h <;> simp_all

theorem validate_of_rejects {bytes : List Byte} {fault : LoadFault} (h : rejects bytes fault = true) :
    validate bytes = .error fault := by
  unfold rejects at h
  split at h <;> simp_all

theorem witness_ValidatedImageKeepsTheFormat : validate smallBytes = .ok smallImage :=
  validate_of_takes (by decide +kernel)

/-- An image with a code of every kind, written out from R181's tables: channel 1 AUDIO with members 5 and 32, a MOTOR
fader and both stop levels, channel 2 MASTER of group 7 with a PLAIN fader, channel 3 AUDIO, and cue 99999 with a follow
and a move of each kind and curve. -/
def fullBody : List Byte :=
  [1, 50, 0, 10, 0, 1, 20, 3, 4, 60, 5, 0, 100, 2, 10, 0, 1, 0, 6]
    ++ [1, 0, 2, 5, 32, 0, 0, 1, 1, 1, 2, 1, 1, 2, 3, 255, 1, 0, 0]
    ++ [2, 7, 0, 0, 0, 0, 0, 2, 0, 0, 0, 0, 0, 0, 0, 0, 2, 1, 0]
    ++ [1, 0, 0, 0, 0, 0, 0, 1, 0, 0, 0, 5, 0, 1, 0, 0, 0, 0, 0] ++ List.replicate 247 0
    ++ [1, 134, 159, 6, 1, 0, 0, 100, 1, 2]
    ++ [1, 0, 0, 1, 0, 2, 0, 3] ++ [2, 1, 1, 0, 2, 0, 3, 0] ++ [3, 2, 0, 0, 0, 0, 3, 255] ++ [1, 3, 0, 0, 0, 1, 0, 0]
    ++ [2, 16, 0, 4, 0, 0, 0, 0] ++ [3, 32, 0, 0, 0, 0, 0, 0]

def fullImage : ShowImage where
  header := { header with cueCount := 1, moveCount := 6 }
  channels := put (put (put (Vector.replicate 16 unusedEntry)
    0 { role := .audio [4, 31] true, fader := .motor .returns, preset := 513, presetMute := true
        stopA := .level 1023, stopB := .hold })
    1 { role := .master 6, fader := .plain, preset := 0, presetMute := false, stopA := .mute, stopB := .level 256 })
    2 { role := .audio [] false, fader := .motor .keep, preset := 5, presetMute := false, stopA := .hold, stopB := .mute }
  cues := [{
    number := 99999, follow := some { target := 100, delay := 258 }
    moves := [
      { channel := 0, delay := 1, kind := .level 2 .linear 3 },
      { channel := 1, delay := 256, kind := .level 512 .scurve 768 },
      { channel := 2, delay := 0, kind := .level 0 .early 1023 },
      { channel := 0, delay := 0, kind := .level 1 .late 0 },
      { channel := 1, delay := 4, kind := .muteOn },
      { channel := 2, delay := 0, kind := .muteOff }] }]

theorem witness_ValidatedImageKeepsTheFormat_values :
    validate (fullBody ++ bytes2 (crc fullBody).toNat) = .ok fullImage :=
  validate_of_takes (by decide +kernel)

theorem test_small_image_is_335_bytes : smallBytes.length = 335 ∧ loadedBytes (loaded smallBytes) = smallBytes := by
  decide +kernel

/-- An image that is taken, with no line asserted, with one and with both, one whose last byte is wrong, and a station
that is not VALIDATING. -/
theorem witness_ValidationEndTakesOrRejectsTheImage :
    (loaded smallBytes).sc.state = .validating ∧ run.sc.state ≠ .validating
      ∧ validate (loadedBytes (loaded smallBytes)) = .ok smallImage
      ∧ (let s := { loaded smallBytes with
          sp := { run.sp with lineA := { raw := true, asserted := true, timer := none } } }
        (lineOf s .a).asserted = true ∧ (machineOf s .a).state = .clear)
      ∧ (∀ k, (lineOf (loaded smallBytes) k).asserted = false)
      ∧ validate (loadedBytes (loaded (smallBody ++ [0, 0]))) = .error (.crcMismatch, 333) :=
  ⟨rfl, by decide, validate_of_takes (by decide +kernel), by decide, (fun k => by cases k <;> rfl),
    validate_of_rejects (by decide +kernel)⟩

/-- Both lines asserted: kind A before kind B, and the last load fault kept. -/
theorem test_lines_held_through_the_load :
    let up : StopLine := { raw := true, asserted := true, timer := none }
    let t := after .validationEnd { loaded smallBytes with
      sp := { run.sp with lineA := up, lineB := up }
      lp := { (loaded smallBytes).lp with lastFault := some (.size, 0) } }
    t.lp.queue.map (fun r => (r.kind, r.first, r.second)) = [(.stopChange, 0, 2), (.stopChange, 1, 2)]
      ∧ t.sp.effective = .a ∧ t.lp.lastFault = some (.size, 0) ∧ t.sc.listen = some 600000 := by decide +kernel

/-- R26: the members 5, 5, 40 of channel 1 are in fault at the third, 5, 5, 4 at the second, and the list of a MASTER at
its count. -/
theorem test_member_list_in_three_steps :
    let entry (role count a b c : Byte) : List Byte := smallBody.take 19 ++ [role, role - 1, count, a, b, c, 0]
      ++ smallBody.drop 26
    validate (entry 1 3 5 5 40) = .error (.badChannelEntry, 24)
      ∧ validate (entry 1 3 5 5 4) = .error (.badChannelEntry, 23)
      ∧ validate (entry 2 3 5 5 40) = .error (.badChannelEntry, 21)
      ∧ validate ((entry 1 3 5 5 40).take 24) = .error (.size, 24) :=
  ⟨validate_of_rejects (by decide +kernel), validate_of_rejects (by decide +kernel),
    validate_of_rejects (by decide +kernel), validate_of_rejects (by decide +kernel)⟩

/-- R24, R25: an image one byte short, and one whose version is 2. -/
theorem test_first_fault_in_image_order :
    validate (smallBytes.take 334) = .error (.size, 334)
      ∧ validate (2 :: smallBytes.drop 1) = .error (.badVersion, 0) :=
  ⟨validate_of_rejects (by decide +kernel), validate_of_rejects (by decide +kernel)⟩

/-- Two bytes that just fit below 65,536, and three that do not. -/
theorem witness_LoadCommandsWriteShowMemory :
    let s : State := { inState .load run with
      sm := { bytes := [(7, 1)], image := none }, lp := { run.lp with offset := 65534 } }
    s.lp.port = .reading ∧ s.sc.state = .load ∧ (inState .loadFault run).sc.state = .loadFault
      ∧ (Memory.wf s.sm.bytes = true ∧ s.lp.offset ≤ Config.memorySize)
      ∧ ((2 : Byte) ≠ 0 ∧ [(5 : Byte), 6].length = (2 : Byte).toNat ∧ s.lp.overflowed = false)
      ∧ (after (.loadData 2 [5, 6]) s).sm.bytes = [(7, 1), (65534, 5), (65535, 6)]
      ∧ (after (.loadData 2 [5, 6]) s).lp.overflowed = false
      ∧ (let t := after (.loadData 3 [5, 6, 7]) s
        t.lp.overflowed = true ∧ t.lp.offset = 65536 ∧ t.lp.port = .answered .full [] 0
          ∧ (after .chipSelectLow t).lp.port = .reading
          ∧ (Memory.wf t.sm.bytes = true ∧ t.lp.offset ≤ Config.memorySize) ∧ t.sc.state = .load) := by decide

/-- Numbers at, between, above and below the cues. -/
theorem witness_LookupsFindNeighbours :
    cues.Pairwise (fun x y => x.number < y.number)
      ∧ nextCueAfter cues 99999 = none ∧ nextCueAfter cues 100 = some 200 ∧ nextCueAfter cues 99 = some 100
      ∧ cueAtOrAfter cues 100 = some 100 ∧ cueAtOrAfter cues 101 = some 200
      ∧ (recordOf cues 150).isNone = true ∧ firstCue cues = some 100 := by decide

/-- With the candidate at the first cue, at the last, and with none. -/
theorem witness_WalkEndTracksTheLastMoves :
    let s (c : Option Candidate) : State := inState .catchup { run with sc := { run.sc with candidate := c } }
    (s none).sc.state = .catchup ∧ (s none).sc.walkEnded = false ∧ (s none).sm.image = some image
      ∧ image.cues.Pairwise (fun x y => x.number < y.number)
      ∧ (s none).sc.candidate = none
      ∧ ((after .catchupWalkEnd (s (some { cue := 100, source := .fire, age := 0 }))).sc.tracked.map (·[0]))
          = some { level := 512, mute := false }
      ∧ ((after .catchupWalkEnd (s (some { cue := 99999, source := .state, age := 0 }))).sc.tracked.map (·[0]))
          = some { level := 700, mute := true } := by decide

/-! ## Hypotheses that are met: cue sequencing -/

def request (kind : CueKind) (cue : CueNumber) : Request where
  kind := kind
  cue := cue
  origin := .port
  sent := false

def withCues (f : CueSequencer → CueSequencer) (s : State) : State := { s with cq := f s.cq }

/-- The outgoing queue with three and with four requests, and with an equal one; numbers 1, 99999, 0 and 100000. -/
theorem witness_PortCueCommandsOfferRequests :
    let q (l : List CueNumber) : State := withCues (fun c => { c with
      standby := some 200, outgoing := l.map (request .fire) }) run
    run.lp.port = .reading ∧ run.sc.state = .run ∧ cannotSend run = false ∧ run.sp.effective = .none
      ∧ ((1#24).toNat = 1 ∧ (99999#24).toNat = 99999 ∧ (100000#24).toNat = 100000 ∧ (0#24).toNat = 0)
      ∧ ((q []).cq.standby = some 200 ∧ (q [1, 2, 3]).cq.outgoing.length = 3 ∧ (q [1, 2, 3, 4]).cq.outgoing.length = 4)
      ∧ (∀ r ∈ (q [1, 2, 3]).cq.outgoing, ¬(r.kind = .fire ∧ r.cue = 99999))
      ∧ (∃ r ∈ (q [1, 2, 99999]).cq.outgoing, r.kind = .fire ∧ r.cue = 99999)
      ∧ (inState .validating run).sc.state ≠ .run
      ∧ cannotSend { run with sc := { run.sc with number := 0 } } = true
      ∧ (withStop run .b).sp.effective ≠ .none ∧ run.cq.standby = none := by decide

/-- The three answers of GO: a request, END OF LIST, STOPPED. -/
theorem test_go :
    (after .go (withCues (fun c => { c with standby := some 200 }) run)).cq.outgoing = [request .fire 200]
      ∧ (after .go run).lp.queue.map (·.kind) = [.endOfList] ∧ (after .go run).lp.port = .answered .ok [] 0
      ∧ (after .go (withStop run .a)).lp.port = .answered .stopped [] 0 := by decide

def fireFrame (c : CueNumber) : List (BitVec 5) := frameGroups 3 false (.cue .fire .port c)

/-- A frame of station 3 as the other stations read it. -/
theorem test_frames_read :
    (readFrame (fireFrame 100)).result = .ok (2, false, .cue .fire .port 100)
      ∧ (readFrame (fireFrame 99999)).result = .ok (2, false, .cue .fire .port 99999)
      ∧ (readFrame (frameGroups 3 false (.cue .standby .key 150))).result = .ok (2, false, .cue .standby .key 150)
      ∧ (readFrame (frameGroups 3 false (.group 0 true 1023))).result = .ok (2, false, .group 0 true 1023)
      ∧ (readFrame (frameGroups 3 false (.state true false true (some 100)))).result
          = .ok (2, false, .state true false true (some 100))
      ∧ (readFrame (frameGroups 3 false (.stop false .b 3))).result = .ok (2, false, .stop false .b 3)
      ∧ (readFrame (frameGroups 3 true (.stop true .a 31))).result = .ok (2, true, .stop true .a 31) :=
  ⟨rfl, rfl, rfl, rfl, rfl, rfl, rfl⟩

/-- What every statement about a frame of a PRESENT peer asks for, in RECEIVING and from gap bit time 17 on. -/
theorem witness_frame_of_a_present_peer :
    readsFrame (hearing run) = true
      ∧ (readsFrame (withBus (fun b => { b with phase := .idle, gap := 16 }) (hearing run)) = true
        ∧ readsFrame (withBus (fun b => { b with phase := .idle, gap := 15 }) (hearing run)) = false)
      ∧ peerNumber 2 ≠ (hearing run).sc.number.val ∧ (hearing run).sc.peers[2].presence = .present
      ∧ ((hearing run).bc.copies[2].get .cue ≠ some (.cue .fire .port 100)) := by decide

/-- Three entries queued, a last fired cue at exactly the repeat guard, a follow of delay, and each state of the
standby buffer. -/
theorem witness_FireFrameIsAccepted :
    let s (buffer : StandbyBuffer) (incoming : List GoEntry) : State := withCues (fun c => { c with
      last := some 100, since := 500000, buffer := buffer, incoming := incoming }) (hearing run)
    let queued : List GoEntry := [200, 300, 99999].map (fun c => { cue := c, expanding := false })
    ((s .empty []).sc.state = .run ∧ (inState .catchup (s .empty [])).sc.state = .catchup)
      ∧ ((s .empty []).sp.effective = .none ∧ (s .empty queued).cq.incoming.length < 4)
      ∧ guardWindow (s .empty []) = (s .empty []).cq.since
      ∧ (∀ f ∈ (recordOf (cueTable run) 100).bind (·.follow), 0 < f.delay)
      ∧ (s (.expanding 200) queued).cq.buffer = .expanding 200
      ∧ (movesOf (cueTable run) 100 ≠ [] ∧ (s .empty []).cq.incoming = [] ∧ (200 : CueNumber) ≠ 100)
      ∧ nextCueAfter (cueTable run) 99999 = none ∧ nextCueAfter (cueTable run) 100 = some 200
      ∧ (after (.frameReceived (fireFrame 100)) (s (.prefetched 100 []) [])).fe.commits.map (·.cue) = [100]
      ∧ (after (.frameReceived (fireFrame 100)) (s .empty [])).cq.buffer = .expanding 100
      ∧ (after (.frameReceived (fireFrame 100)) (s .empty [])).cq.follow = some { target := 300, left := 500000 } := by
  decide

/-- Station 5 where the empty cue 99999 has a follow of delay 0, with some requests queued. -/
def atOnce (requests : List CueNumber) : State :=
  { hearing run with
    sm := { run.sm with image := some { image with cues := cues.map (fun r =>
      if r.number = 99999 then { r with follow := some { target := 200, delay := 0 } } else r) } }
    cq := { run.cq with outgoing := requests.map (request .fire) } }

/-- A follow of delay 0 with an equal request, with room and with none, in CATCHUP, and on a follower; an empty cue with
the buffer EMPTY and holding another cue. -/
theorem witness_FireFrameIsAccepted_at_once :
    let fired (s : State) : State := after (.frameReceived (fireFrame 99999)) s
    let follower : State := { atOnce [] with sc := { (atOnce []).sc with number := 0 } }
    ((recordOf (cueTable (atOnce [])) 99999).bind (·.follow) = some { target := 200, delay := 0 }
        ∧ cannotSend (atOnce []) = false ∧ cannotSend follower = true ∧ peerNumber 2 ≠ follower.sc.number.val)
      ∧ (movesOf (cueTable (atOnce [])) 99999 = [] ∧ (atOnce []).cq.buffer = .empty ∧ (200 : CueNumber) ≠ 99999)
      ∧ ((fired (atOnce [200])).cq.outgoing = [request .fire 200] ∧ (fired (atOnce [200])).cq.follow = none)
      ∧ ((fired (atOnce [1, 2, 3])).cq.outgoing.map (·.origin) = [.port, .port, .port, .follow])
      ∧ ((fired (atOnce [1, 2, 3, 4])).lp.queue.map (·.kind) = [.cueFired, .requestRefused])
      ∧ (fired (inState .catchup (atOnce []))).cq.follow = some { target := 200, left := 0 }
      ∧ ((fired follower).cq.follow = some { target := 200, left := 1000 }
        ∧ (fired follower).fe.commits.map (·.cue) = [99999])
      ∧ (fired (withCues (fun c => { c with buffer := .prefetched 200 [] }) (atOnce []))).cq.incoming = [] := by decide

/-- A repeat one microsecond inside the guard, a stop, a full queue, and the states that do not take a FIRE. -/
theorem witness_FireFrameNotAccepted :
    let s (since : Micros) : State := withCues (fun c => { c with
      last := some 100, since := since
      incoming := List.replicate 4 { cue := 200, expanding := false } }) (hearing run)
    ((s 499999).cq.last = some 100 ∧ (s 499999).cq.since < guardWindow (s 499999))
      ∧ (guardWindow (s 500000) ≤ (s 500000).cq.since ∧ (withStop (s 500000) .b).sp.effective ≠ .none)
      ∧ ((s 500000).sp.effective = .none ∧ (s 500000).cq.incoming.length = 4)
      ∧ (after (.frameReceived (fireFrame 100)) (s 499999)).lp.queue.map (·.kind) = [.cueAbsorbed]
      ∧ (after (.frameReceived (fireFrame 100)) (s 500000)).lp.queue.map (·.kind) = [.goQueueFull]
      ∧ (inState .listen (s 0)).sc.state = .listen ∧ (inState .loadFault (s 0)).sc.state = .loadFault := by decide

/-- In CATCHUP and RUN, with an expansion running and without, below and above the last cue. -/
theorem witness_StandbyFrameSetsTheStandby :
    ((hearing run).sc.state = .run ∧ (hearing run).cq.incoming = [] ∧ (hearing run).cq.buffer = .empty)
      ∧ (inState .catchup (hearing run)).sc.state = .catchup
      ∧ (withCues (fun c => { c with buffer := .expanding 100 }) (hearing run)).cq.buffer = .expanding 100
      ∧ cueAtOrAfter (cueTable run) 150 = some 200 ∧ cueAtOrAfter (cueTable run) 100 = some 100
      ∧ cannotBid { hearing run with sc := { (hearing run).sc with txMuted := true } } = true
      ∧ (after (.frameReceived (frameGroups 3 false (.cue .standby .key 150))) (hearing run)).cq.buffer
          = .prefetching 200 := by decide

/-- A last entry, one with another behind it, and empty cues between and at the end. -/
theorem witness_ExpanderHandsTheHeadOn :
    let s (rest : List GoEntry) : State := withCues (fun c => { c with
      buffer := .expanding 100, incoming := { cue := 100, expanding := true } :: rest }) run
    (s []).sc.state = .run ∧ (s []).cq.buffer = .expanding 100 ∧ (s []).cq.standby = none
      ∧ movesOf (cueTable run) 200 ≠ [] ∧ movesOf (cueTable run) 99999 = []
      ∧ (after .expansionComplete (s ([99999, 200].map (fun c => { cue := c, expanding := false })))).cq.incoming
          = [{ cue := 200, expanding := true }]
      ∧ (after .expansionComplete (s [{ cue := 99999, expanding := false }])).fe.commits.map (·.cue) = [100, 99999]
      ∧ (after .expansionComplete (s [])).cq.buffer = .empty
      ∧ (after .expansionComplete (s [{ cue := 200, expanding := false }])).cq.buffer = .expanding 200
      ∧ (withCues (fun c => { c with buffer := .prefetching 200 }) run).cq.buffer = .prefetching 200 := by decide

/-- In LISTEN, under a stop, and in RUN with three and four requests queued, on a full station and a follower. -/
theorem witness_FollowExpiryFiresTheTarget :
    let s (l : List CueNumber) : State := withCues (fun c => { c with
      follow := some { target := 300, left := 0 }, outgoing := l.map (request .fire) }) run
    (s []).cq.follow = some { target := 300, left := 0 } ∧ (inState .listen (s [])).sc.state ≠ .run
      ∧ (withStop (s []) .a).sp.effective ≠ .none
      ∧ ((s []).sc.state = .run ∧ (s []).sp.effective = .none ∧ cannotSend (s []) = false)
      ∧ (∃ r ∈ (s [300]).cq.outgoing, r.kind = .fire ∧ r.cue = 300)
      ∧ ((∀ r ∈ (s [1, 2, 4]).cq.outgoing, ¬(r.kind = .fire ∧ r.cue = 300)) ∧ (s [1, 2, 4]).cq.outgoing.length < 4)
      ∧ ((∀ r ∈ (s [1, 2, 4, 5]).cq.outgoing, ¬(r.kind = .fire ∧ r.cue = 300))
        ∧ (s [1, 2, 4, 5]).cq.outgoing.length = 4)
      ∧ (let f := { s [] with sc := { run.sc with number := 0 } }
        cannotSend f = true ∧ f.sc.state = .run ∧ (after .followExpiry f).cq.last = some 300) := by decide

/-! ## Hypotheses that are met: the fade engine -/

def record (ch : Channel) (state : RecordState) : PoolRecord where
  channel := ch
  origin := 100
  state := state

/-- Durations of 1 and of the longest fade, and a record of duration 0 behind a running one. -/
theorem witness_FadeFractionOfEachCurve :
    (1 ≤ 1 ∧ 1 ≤ 655350 ∧ progress 655350 655350 = 4096 ∧ progress 0 1 = 0)
      ∧ (record 0 (.waitingLevel 1 9 0 .late)).state = .waitingLevel 1 9 0 .late
      ∧ (startWaiting [record 0 (.running 0 5 10 2 .linear)] (record 0 (.waitingLevel 1 9 0 .late)) [] run).fe.pool = []
      := by decide

/-- From 0 to 1023, down from 1023 to 0, and equal ends. -/
theorem witness_FadeLevelRunsFromStartToTarget :
    1 ≤ 2000 ∧ (0 : Position) ≤ 1023 ∧ fadeLevel 0 1023 .scurve 1000 2000 = 511
      ∧ fadeLevel 1023 0 .linear 1999 2000 = 1 ∧ fadeLevel 7 7 .early 3 2000 = 7 := by decide

/-- A fade at its last count and one before it, and delays of 2. -/
theorem witness_LevelPointAdvancesAndCountsDown :
    let s : State := withPool run [record 0 (.running 0 100 10 9 .linear), record 1 (.running 0 100 10 8 .linear),
      record 0 (.waitingLevel 2 5 0 .linear), record 0 (.waitingMute 2 true)]
    s.sc.state = .run ∧ s.sp.effective = .none ∧ s.fe.commits = []
      ∧ s.fe.pool.Pairwise (fun x y => ¬(x.isRunning = true ∧ y.isRunning = true ∧ x.channel = y.channel))
      ∧ (9 < 10 ∧ 2 ≤ 2)
      ∧ ((after .levelPoint s).fe.levels[0] = 100 ∧ (after .levelPoint s).fe.levels[1] = 89)
      ∧ (after .levelPoint s).fe.pool = [record 1 (.running 0 100 10 9 .linear),
          record 0 (.waitingLevel 1 5 0 .linear), record 0 (.waitingMute 1 true)] := by decide

/-- A MUTE record, LEVEL records with and without a duration, a RUNNING record, and the level point at which one record
alone comes due. -/
theorem witness_DueRecordStartsAndFadeEnds :
    let s (r : PoolRecord) : State := withPool run [r, record 5 (.waitingMute 9 true)]
    (s (record 0 (.waitingMute 1 true))).sc.state = .run ∧ run.sp.effective = .none
      ∧ (s (record 0 (.waitingMute 1 true))).fe.pool
          = [] ++ record 0 (.waitingMute 1 true) :: [record 5 (.waitingMute 9 true)]
      ∧ ([] : List PoolRecord).length = (0 : Fin 64).val
      ∧ (after (.delayCountExpiry 0) (s (record 0 (.waitingMute 1 true)))).mr.mute[0] = true
      ∧ (after (.delayCountExpiry 0) (s (record 0 (.waitingLevel 1 700 1 .late)))).fe.pool[0]?
          = some (record 0 (.running 0 700 1 0 .late))
      ∧ (after (.delayCountExpiry 0) (s (record 0 (.waitingLevel 1 700 0 .late)))).fe.levels[0] = 700
      ∧ (after (.fadeComplete 0) (s (record 0 (.running 0 700 10 3 .late)))).fe.levels[0] = 700
      ∧ ((s (record 0 (.waitingMute 1 true))).fe.commits = [] ∧ (record 0 (.waitingMute 1 true)).isDue = false
        ∧ (countRecord (record 0 (.waitingMute 1 true))).isDue = true
        ∧ (∀ y ∈ [record 5 (.waitingMute 9 true)],
            y.isRunning = false ∧ y.isDue = false ∧ (countRecord y).isDue = false)) := by decide

/-- R63, R67: two fades that come due on channel 1 beside the one that runs there, and one record that waits on. -/
theorem test_due_records_start_in_pool_order :
    let s : State := withPool run [record 0 (.waitingLevel 1 700 10 .late), record 0 (.running 0 512 10 4 .linear),
      record 5 (.waitingMute 2 true), record 0 (.waitingLevel 1 300 20 .early)]
    let t := after .levelPoint s
    t.fe.pool = [record 5 (.waitingMute 1 true), record 0 (.running 256 300 20 0 .early)] ∧ t.fe.levels[0] = 256 := by
  decide

/-- A pool of 63 and of 64 records, a delay of 0 and of 1, and a channel held under KEEP. -/
theorem witness_LevelPointCommitsMovesInOrder :
    let s (n : Nat) : State := withPool run (List.replicate n (record 9 (.waitingMute 5 true)))
    run.sc.state = .run ∧ run.sp.effective = .none
      ∧ (s 63).fe.pool.length < 64 ∧ 64 ≤ (s 64).fe.pool.length
      ∧ (level 0 0 10 512).kind = .level 10 .linear 512 ∧ 0 < (level 1 5 0 300).delay
      ∧ (isKeep run 1 = true
        ∧ (withStrip run 1 { Strip.afterReset 0 false with mode := .hand }).st.strips[1].mode = .hand)
      ∧ (commitMove 100 (s 63) (level 0 0 10 512)).fe.pool.length = 64
      ∧ (commitMove 100 (s 64) (level 0 0 10 512)).lp.queue.map (·.kind) = [.poolFull]
      ∧ (commitMove 100 (s 64) (level 0 0 10 512)).fe.levels[0] = 512 := by decide

/-- In RUN under A with no kind in force, in RUN under a B held by a LOST peer, and outside RUN. -/
theorem witness_LevelPointInAStopLowersItAlone :
    let lost : State := { run with sc := { run.sc with
      peers := put run.sc.peers 6 { PeerEntry.afterReset with presence := .lost, stopB := true } } }
    (run.sc.state = .run ∧ derivedStop lost = .b
      ∧ stopRank (derivedStop lost) < stopRank (withStop lost .a).sp.effective)
      ∧ (after .levelPoint (withStop lost .a)).sp.effective = .b
      ∧ (after .levelPoint (withStop run .a)).sp.effective = .none ∧ derivedStop run = .none
      ∧ ((inState .listen run).sc.state ≠ .run ∧ (inState .catchup run).sc.walkEnded = false) := by decide

/-! ## Hypotheses that are met: groups and strips -/

def groupFrame : List (BitVec 5) := frameGroups 3 false (.group 0 true 1023)

/-- A HOSTING master met by a lower and by a higher station, and entries UNOWNED, of the same owner, of a lower PRESENT
owner, and of an owner that is not PRESENT. -/
theorem witness_GroupFrameTakesTheEntry :
    let number (n : Station) (s : State) : State := { s with sc := { s.sc with number := n } }
    let owned (p : Peer) : State := { hearing run with mr := { (mixAt 1 1).mr with
      groups := put run.mr.groups 0 (.owned { stale := false, owner := p, position := 1, mute := false, age := 0 }) } }
    (inState .load (hearing run)).sc.state = .load
      ∧ (hostOf (hearing run) 0 = some 3 ∧ (hearing run).mr.masters[3].demoted = false
        ∧ peerNumber 2 < (hearing run).sc.number.val)
      ∧ (number 2 (hearing run)).sc.number.val < peerNumber 2
      ∧ (hostOf (owned 2) 0 = some 3 ∧ (owned 2).mr.masters[3].demoted = true ∧ (2 : Peer) ≤ 2)
      ∧ (owned 1).sc.peers[1].presence ≠ .present ∧ hostOf (hearing run) 1 = none
        ∧ (hearing run).mr.groups[1] = .unowned
      ∧ (let two : State := { owned 1 with sc := { (owned 1).sc with
          peers := put (owned 1).sc.peers 1 { PeerEntry.afterReset with presence := .present } } }
        two.sc.peers[1].presence = .present ∧ (1 : Peer) < 2
          ∧ (after (.frameReceived groupFrame) two).mr.groups[0] = two.mr.groups[0])
      ∧ (after (.frameReceived groupFrame) (hearing run)).lp.queue.map (·.kind) = [.groupConflict] := by decide

/-- LIVE and STALE entries, and a master 8 ms and 250 ms after its last frame and one microsecond before. -/
theorem witness_GroupTimersAgeAndSend :
    let m (sent : Option (Position × Bool)) (since : Micros) : State := { run with mr := { run.mr with
      masters := put run.mr.masters 3 { demoted := false, lastSent := sent, since := since } } }
    (mixAt 1 1).mr.groups[0] = .owned { stale := false, owner := 2, position := 1, mute := false, age := 0 }
      ∧ (after (.groupAgeLimit 0) (mixAt 1 1)).mr.groups[0]
          = .owned { stale := true, owner := 2, position := 1, mute := false, age := 1000000 }
      ∧ hostedGroup run 3 = some 0 ∧ run.mr.masters[3].demoted = false
      ∧ (masterEligible (m none 8000) 3 = true ∧ masterEligible (m none 7999) 3 = false)
      ∧ (masterEligible (m (some (0, false)) 250000) 3 = true ∧ masterEligible (m (some (0, false)) 249999) 3 = false)
      ∧ masterEligible (after (.groupSendDue 3) (m none 0)) 3 = true
      ∧ ((after (.groupSendDue 3) (m none 7999)).mr.masters[3].since = 8000
        ∧ (after (.groupSendDue 3) (m none 8001)).mr.masters[3].since = 8001
        ∧ (after (.groupSendDue 3) (m (some (0, false)) 7)).mr.masters[3].since = 250000)
      ∧ (after (.groupSendDue 3) (m (some (0, false)) 8000) = m (some (0, false)) 8000
        ∧ masterEligible (m (some (0, false)) 8000) 3 = false) := by decide

/-- A wiper not in use, a state outside RUN, a hand that moves by 2, by 1 and to the end, and a park value 4 and 3 away. -/
theorem witness_ConversionTracksHandsAndPicksUp :
    let hand : State := withStrip run 0 { Strip.afterReset 100 false with mode := .hand, hand := 100 }
    let parked (p : Position) : State := { withStrip run 0 { Strip.afterReset p false with park := p } with
      fe := { run.fe with levels := put run.fe.levels 0 500 } }
    (faderOf run 3 = .absent ∧ faderOf run 0 ≠ .absent ∧ (inState .listen run).sc.state ≠ .run)
      ∧ (hand.sc.state = .run ∧ hand.st.strips[0].mode = .hand)
      ∧ (after (.conversionComplete 0 102) hand).st.strips[0].hand = 102
      ∧ (after (.conversionComplete 0 101) hand).st.strips[0].hand = 100
      ∧ (after (.conversionComplete 0 1023) hand).st.strips[0].hand = 1023
      ∧ (isPlain run 0 = true ∧ isPlain run 1 = false ∧ (parked 494).st.strips[0].mode = .auto)
      ∧ (after (.conversionComplete 0 498) (parked 494)).st.strips[0].mode = .hand
      ∧ (after (.conversionComplete 0 498) (parked 495)).st.strips[0].mode = .auto
      ∧ (after (.conversionComplete 0 497) (parked 400)).st.strips[0].mode = .auto := by decide

/-- Each touch state, a motor that is stalled, and holds of 20 and of 0. -/
theorem witness_TouchGivesTheChannelToTheHand :
    let x : Strip := Strip.afterReset 300 true
    let s (touch : Touch) : State := withStrip run 1 { x with touch := touch }
    isMotor run 0 = false ∧ isMotor run 1 = true ∧ (s .free).st.strips[1].touch = .free
      ∧ ((s (.pending 1999)).sc.state = .run ∧ (s (.pending 1999)).st.strips[1].mode = .auto)
      ∧ (after (.touchedArrival 1) (s (.pending 1999))).st.strips[1].hand = 300
      ∧ (0 < touchHold (s .touched) ∧ touchHold (runWith (fun h => { h with touchHold := 0 })) = 0)
      ∧ (after (.touchInputAbsent 1) (s .touched)).st.strips[1].touch = .hold 20000
      ∧ (after (.freeArrival 1) (withStrip run 1 { x with touch := .hold 1, mode := .hand, hand := 300 })).fe.levels[1] = 300
      ∧ (after (.freeArrival 1) (withStrip run 1 { x with touch := .hold 1, motor := .stalled })).st.strips[1].motor = .off
      ∧ (inState .listen (s .free)).sc.state ≠ .run := by decide

/-- The third reading of a press and the second, for a mute key and a solo key. -/
theorem witness_KeyScanTogglesMutesAndSolos :
    let s (n : Nat) : State := { run with st := { run.st with
      muteKeys := put run.st.muteKeys 0 { down := false, count := n }
      soloKeys := put run.st.soloKeys 3 { down := false, count := n } } }
    (run.st.goKey.count < 2 ∧ (s 2).sc.state = .run ∧ roleOf run 0 ≠ .unused ∧ isAudio run 3 = false)
      ∧ (after (.keyScan 1 8 false) (s 2)).mr.mute[0] = true ∧ (after (.keyScan 1 8 false) (s 1)).mr.mute[0] = false
      ∧ (after (.keyScan 1 8 false) (s 2)).mr.solo[3] = false
      ∧ (inState .listen run).sc.state ≠ .run
      ∧ (let soloed (a b : Bool) : State := { run with
          mr := { run.mr with solo := put (put run.mr.solo 0 a) 1 b }
          st := { run.st with soloKeys := put run.st.soloKeys 1 { down := false, count := 2 } } }
        (after (.keyScan 0 2 false) (soloed true false)).mr.solo[1] = true
          ∧ (after (.keyScan 0 2 false) (soloed true false)).sc.stateRequest = false
          ∧ (after (.keyScan 0 2 false) (soloed true true)).sc.stateRequest = false
          ∧ (after (.keyScan 0 2 false) (soloed false true)).sc.stateRequest = true)
      ∧ (after (.keyScan 0 1 false) { run with st := { run.st with
          soloKeys := put run.st.soloKeys 0 { down := false, count := 2 } } }).sc.stateRequest = true := by decide

/-- The third reading, with the standby a cue or none, and three and four requests queued. -/
theorem witness_GoKeyRequestsTheStandby :
    let s (l : List CueNumber) : State := withCues (fun c => { c with
      standby := some 200, outgoing := l.map (request .fire) })
      { run with st := { run.st with goKey := { down := false, count := 2 } } }
    ((s []).sc.state = .run ∧ (s []).st.goKey.down = false ∧ 2 ≤ (s []).st.goKey.count ∧ cannotSend (s []) = false)
      ∧ cannotSend { s [] with sc := { run.sc with txMuted := true } } = true
      ∧ (withStop (s []) .b).sp.effective ≠ .none ∧ (s []).sp.effective = .none
      ∧ ((s []).cq.standby = some 200 ∧ run.cq.standby = none)
      ∧ (∃ r ∈ (s [200]).cq.outgoing, r.kind = .fire ∧ r.cue = 200)
      ∧ ((∀ r ∈ (s [1, 2, 3]).cq.outgoing, ¬(r.kind = .fire ∧ r.cue = 200)) ∧ (s [1, 2, 3]).cq.outgoing.length < 4)
      ∧ ((∀ r ∈ (s [1, 2, 3, 4]).cq.outgoing, ¬(r.kind = .fire ∧ r.cue = 200))
        ∧ (s [1, 2, 3, 4]).cq.outgoing.length = 4)
      ∧ (after (.keyScan 0 0 true) (s [])).cq.outgoing.map (·.origin) = [.key]
      ∧ (let both : State := { s [] with st := { (s []).st with
          muteKeys := put run.st.muteKeys 0 { down := false, count := 2 } } }
        (after (.keyScan 1 0 true) both).cq.outgoing.map (·.cue) = [200]
          ∧ (after (.keyScan 1 0 true) both).mr.mute[0] = true
          ∧ (after (.keyScan 1 0 true) (inState .listen both)).cq.outgoing = []
          ∧ (after (.keyScan 1 0 true) (inState .listen both)).mr.mute[0] = false
          ∧ (after (.keyScan 1 0 true) (inState .listen both)).st.goKey.down = true) := by decide

/-- Errors of 3 and 4 about the deadband at the end of a rest, the stall timer one below its limit, channel numbers 0, 1,
2, 16 and 17. -/
theorem witness_RestStallAndClearMotor :
    let s (error stall : Nat) : State := { withStrip run 1 { Strip.afterReset 500 false with
        motor := .rest, rest := 1, stall := stall } with
      fe := { run.fe with levels := put run.fe.levels 1 (clampPosition (500 + error)) } }
    (s 3 7).lp.port = .reading ∧ (s 3 7).sm.image = some image ∧ (s 3 7).sc.state = .run ∧ isMotor (s 3 7) 1 = true
      ∧ (s 3 7).st.strips[1].motor = .rest
      ∧ (after (.restEnd 1) (s 3 7)).st.strips[1].motor = .brake
      ∧ (after (.restEnd 1) (s 4 998)).st.strips[1].motor = .driveUp 60
      ∧ (after (.restEnd 1) (s 4 999)).st.strips[1].motor = .stalled
      ∧ (after (.motorStall 1) (s 4 7)).lp.queue.map (·.second) = [500]
      ∧ ((2 : Byte).toNat = (1 : Channel).val + 1 ∧ (1 : Byte).toNat = (0 : Channel).val + 1 ∧ isMotor run 0 = false)
      ∧ ((0 : Byte).toNat = 0 ∧ 16 < (17 : Byte).toNat)
      ∧ (after (.clearMotor 2) (after (.motorStall 1) (s 4 7))).st.strips[1].motor = .off
      ∧ (after (.clearMotor 16) run).lp.port = .answered .badArgument [] 0 := by decide

/-! ## Hypotheses that are met: the bus -/

def flying (p : Payload) (attempts : Nat) (won : Bool) (s : State) : State :=
  let t := setFlight s (payloadClass p) (some { payload := p, attempts := attempts, repeated := decide (0 < attempts) })
  { t with bc := { t.bc with phase := .sending, sending := some { payload := p, won := won } } }

/-- Cue numbers 1 and 99999 and targets 1 and 31 are frames the layout admits. -/
theorem witness_SentFrameReadsBack :
    (let s : State := flying (.cue .fire .key 1) 3 false run
    s.sc.number = (4 : Peer).succ ∧ s.bc.sending = some { payload := .cue .fire .key 1, won := false }
        ∧ (flightOf s .cue).any (·.repeated) = true ∧ run.bc.sending = none
        ∧ sentGroups s = frameGroups 5 true (.cue .fire .key 1))
      ∧ (1 ≤ 1 ∧ 99999 ≤ 99999 ∧ (1 : Station) ≠ 0 ∧ (31 : Station) ≠ 0)
      ∧ (readFrame (frameGroups (30 : Peer).succ true (.cue .standby .follow 99999))).result
          = .ok (30, true, .cue .standby .follow 99999) := ⟨by decide, by decide, rfl⟩

/-- A frame of each class to offer, alone and together, yielded and not, and a bus with nothing to bid. -/
theorem witness_BidPointChoosesByClass :
    let quiet : State :=
      { run with mr := { run.mr with masters := put run.mr.masters 3 { Master.afterReset with since := 0 } } }
    let state : State := { quiet with sc := { run.sc with stateRequest := true } }
    let announcing : State := { state with
      cq := { run.cq with outgoing := [request .fire 1] }
      sp := { run.sp with machineA := { state := .announcing, ack := false } } }
    (quiet.bc.phase = .idle ∧ quiet.bc.lineHeld = false ∧ cannotBid quiet = false ∧ chooseBid quiet = none)
      ∧ cannotBid { run with sc := { run.sc with number := 0 } } = true
      ∧ chooseBid announcing = some (.stop false .a 5)
      ∧ (offerOf { announcing with sp := run.sp } .stop = none
        ∧ offerOf { announcing with sp := run.sp } .cue = some (.cue .fire .port 1))
      ∧ (offerOf run .cue = none ∧ offerOf run .group = some (.group 0 false 0) ∧ supplyMaster run = some 3
        ∧ hostedGroup run 3 = some 0)
      ∧ (offerOf state .group = none ∧ chooseBid state = some (.state false false false none))
      ∧ chooseBid { state with bc := { run.bc with yieldState := true } } = none
      ∧ chooseBid { run with bc := { run.bc with yieldGroup := true } } = none
      ∧ (run.bc.phase = .idle ∧ run.bc.lineHeld = false ∧ chooseBid run = some (.group 0 false 0)
        ∧ (after .bidPoint run).bc.phase = .sending
        ∧ sentGroups (after .bidPoint run) = frameGroups 5 false (.group 0 false 0))
      ∧ ((after .bidPoint (withBus (fun b => { b with gap := 20, yieldGroup := true }) run)).bc.yieldGroup = true
        ∧ (after .bidPoint (withBus (fun b => { b with gap := 21, yieldGroup := true }) run)).bc.phase = .sending)
      ∧ (withBus (fun b => { b with phase := .receiving }) run).bc.phase ≠ .idle
      ∧ flightOf (flying (.group 0 true 9) 3 false run) .group = some { payload := .group 0 true 9, attempts := 3, repeated := true }
      := by decide

/-- A first and a later attempt of a frame, lost and won, another station's byte with the repeat flag clear and set, one
with a guard violation in either half, and one that is not read. -/
theorem witness_ArbitrationIsWonLostOrHeard :
    let p : Payload := .cue .fire .port 1
    let s : State := { run with
      bc := { run.bc with phase := .sending, sending := some { payload := p, won := false } }
      cq := { run.cq with outgoing := [request .fire 1] } }
    (s.bc.sending = some { payload := p, won := false } ∧ flightOf s (payloadClass p) = none)
      ∧ ((flying p 7 false run).bc.sending = some { payload := p, won := false }
        ∧ (flightOf (flying p 7 false run) (payloadClass p)).isSome = true)
      ∧ (after .arbitrationWon s).cq.outgoing.map (·.sent) = [true]
      ∧ (after .arbitrationLost s).cq.outgoing = [request .fire 1]
      ∧ (readsFrame (hearing run) = true ∧ readsFrame run = false)
      ∧ ((0b00000 : BitVec 5).getLsbD 0 = (0b00000 : BitVec 5).getLsbD 1
        ∧ after (.arbitrationByteRead 0b01010 0b00000) (hearing run) = hearing run
        ∧ (after (.arbitrationByteRead 0b11000 0b00000)
          (withBus (fun b => { b with yieldGroup := true }) (hearing run))).bc.yieldGroup = false
        ∧ (after (.arbitrationByteRead 0b01000 0b00000)
          (withBus (fun b => { b with yieldGroup := true }) (hearing run))).bc.yieldGroup = true)
      ∧ (after (.arbitrationByteRead (groupOf 0b1100) (groupOf 0b0110))
          (withBus (fun b => { b with yieldGroup := true }) (hearing run))).bc.yieldGroup = false
      ∧ (after (.arbitrationByteRead 0b01010 0b10001) { hearing run with bc := { (hearing run).bc with
          copies := put run.bc.copies 11 { stop := none, cue := some p, group := none, state := none } } }).bc.copies[11].cue
          = none := by decide

/-- Attempts 0, 6 and 7 of a frame, a first attempt that fails in its arbitration byte, and what a master's completed and
abandoned frame leaves. -/
theorem witness_OwnFramesEndWithTheirOwners :
    let g : Payload := .group 0 true 9
    let s (n : Nat) : State := flying g n true run
    let c : Payload := .cue .fire .port 1
    let first : State := { run with
      bc := { run.bc with phase := .sending, sending := some { payload := c, won := false } }
      cq := { run.cq with outgoing := [request .fire 1] } }
    (s 0).bc.sending = some { payload := g, won := true }
      ∧ flightOf (s 0) (payloadClass g) = some { payload := g, attempts := 0, repeated := false }
      ∧ (6 < 7 ∧ 7 ≤ 7 ∧ hostOf run 0 = some 3)
      ∧ ((after .frameComplete (s 0)).mr.masters[3].lastSent = some (9, true)
        ∧ (after .frameComplete (s 0)).bc.yieldGroup = true)
      ∧ ((after (.attemptFailed (.mismatch 6)) (s 6)).bc.groupFlight = some { payload := g, attempts := 7, repeated := true }
        ∧ (after (.attemptFailed (.mismatch 6)) (s 6)).bc.run = 6)
      ∧ ((after (.attemptFailed (.errorWindow 1)) (s 7)).bc.groupFlight = none
        ∧ (after (.attemptFailed (.errorWindow 1)) (s 7)).lp.queue.map (·.kind) = [.txAbandoned]
        ∧ (after (.attemptFailed (.errorWindow 1)) (s 7)).mr.masters[3].lastSent = none)
      ∧ (first.bc.sending = some { payload := c, won := false } ∧ flightOf first (payloadClass c) = none
        ∧ (after (.attemptFailed (.mismatch 1)) first).bc.cueFlight = some { payload := c, attempts := 1, repeated := true }
        ∧ (after (.attemptFailed (.mismatch 1)) first).cq.outgoing.map (·.sent) = [true]) := by decide

/-- One frame for each reason: a guard bit, a CRC bit, a reserved bit with its CRC right, and station 0. -/
theorem witness_RejectedFrameDrivesTheErrorFlag :
    let frame (body : List Byte) : List (BitVec 5) := (body ++ bytes2 (crc body).toNat).flatMap byteGroups
    readsFrame (hearing run) = true
      ∧ (readFrame ((fireFrame 100).set 3 0)).result = .error .guard
      ∧ (readFrame ((fireFrame 100).set 9 (groupOf 0))).result = .error .crc
      ∧ (readFrame (frame [0x06, 0x23])).result = .error .field
      ∧ (readFrame (frame [0x00, 0x03])).result = .error .senderZero
      ∧ (readFrame []).result = .error .guard := ⟨rfl, rfl, rfl, rfl, rfl, rfl⟩

/-- R128, R180: bytes at the ends of each field: target 0 and 31, cues 0, 1, 99999 and 100000, origin kind 3, a reserved
bit, and a last fired cue without has-cue. -/
theorem test_field_faults :
    (readPayload .stop [0x20 + 3] = none ∧ readPayload .stop [0] = none ∧ (readPayload .stop [31]).isSome = true)
      ∧ (readPayload .cue [0, 0, 0] = none ∧ (readPayload .cue [0, 0, 1]).isSome = true
        ∧ (readPayload .cue [1, 0x86, 0x9F]).isSome = true ∧ readPayload .cue [1, 0x86, 0xA0] = none
        ∧ readPayload .cue [0x60, 0, 1] = none ∧ readPayload .cue [0x10, 0, 1] = none)
      ∧ (readPayload .state [0, 0, 1] = none ∧ (readPayload .state [0x10, 0, 1]).isSome = true
        ∧ readPayload .state [0x10, 0, 0] = none ∧ readPayload .state [0x08, 0, 0] = none) := by decide

/-- A copy, a frame of an ABSENT, a PRESENT and a LOST peer, and in LISTEN and RUN one with the own number: a copy, a STOP
frame and a CUE frame. -/
theorem witness_ValidFrameGivesItsNotices :
    let copied : State := { hearing run with bc := { (hearing run).bc with
      copies := put run.bc.copies 2 { stop := some (.stop true .a 31), cue := none, group := none, state := none } } }
    let own (s : State) : State := { s with sc := { s.sc with number := 3 } }
    let lost : State := { hearing run with sc := { (hearing run).sc with
      peers := put run.sc.peers 2 { PeerEntry.afterReset with presence := .lost } } }
    let absent : State := { run with bc := (hearing run).bc }
    (readsFrame copied = true ∧ peerNumber 2 ≠ copied.sc.number.val
        ∧ copied.bc.copies[2].get .stop = some (.stop true .a 31))
      ∧ (copied.sc.peers[2].presence = .present ∧ absent.sc.peers[2].presence = .absent
        ∧ lost.sc.peers[2].presence = .lost ∧ readsFrame absent = true)
      ∧ (peerNumber 2 = (own copied).sc.number.val ∧ (own copied).sc.state = .run ∧ (own copied).sc.txMuted = false
        ∧ payloadClass (.stop false .b 3) ≠ .cue)
      ∧ ((after (.frameReceived (frameGroups 3 true (.stop true .a 31))) (own copied)).lp.queue.map
          (fun r => (r.kind, r.first, r.second)) = [(.duplicateStation, 0, 3)])
      ∧ (after (.frameReceived (frameGroups 3 false (.stop false .b 3))) (inState .listen (own copied))).sc.txMuted = true
      ∧ (after (.frameReceived (fireFrame 100)) (own copied)).cq.last = some 100
      ∧ (after (.frameReceived (fireFrame 100)) absent).lp.queue.map (fun r => (r.kind, r.second))
          = [(.peerJoined, 0), (.cueFired, 13)]
      ∧ (after (.frameReceived (fireFrame 100)) lost).lp.queue.map (fun r => (r.kind, r.second))
          = [(.peerJoined, 2), (.cueFired, 13)] := by decide

/-- Gap bit times 15 and 16 with a run of 1 before, and each signalling state. -/
theorem witness_BusRunsBreaksAndFaults :
    let s (phase : BusPhase) (gap : Nat) : State := { run with bc := { run.bc with phase := phase, gap := gap } }
    ((s .idle 16).bc.phase = .idle ∧ (s .idle 16).bc.lineHeld = false ∧ 16 ≤ (s .idle 16).bc.gap
      ∧ (s .idle 15).bc.gap < 16)
      ∧ (after .startBit (s .idle 16)).bc.phase = .receiving ∧ (after .startBit (s .idle 15)).bc.run = 1
      ∧ (after .startBit (withBus (fun b => { b with run := 1 }) (s .idle 0))).bc.run = 2
      ∧ (readsFrame (s .idle 15) = false ∧ readsFrame (s .sending 20) = false ∧ readsFrame (s .broken 20) = false)
      ∧ (s .fault 0).bc.phase = .fault ∧ (s .receiving 0).bc.phase = .receiving ∧ (s .broken 0).bc.phase = .broken
      ∧ ({ run.bc with lineHeld := true } : BusController).lineHeld = true
      ∧ (after .busFault (s .broken 0)).lp.queue.map (·.kind) = [.busFault]
      ∧ (let f : State := withBus (fun b => { b with quiet := 1999 }) (s .fault 0)
        (after .busBreak f).bc.quiet = 0 ∧ (after .busBreak f).bc.lineHeld = true
          ∧ (stepped (after .busBreak f)).bc.quiet = 0
          ∧ (stepped (after .busBreakEnd (after .busBreak f))).bc.quiet = 1)
      ∧ (after .busRestored (s .fault 0)).bc.gap = 21 := by decide

/-- A follower with nothing else pending than what the change puts there. -/
def silenced (change : State → State) : State :=
  change { run with
    sc := { run.sc with number := 0 }
    mr := { run.mr with masters := put run.mr.masters 3 { Master.afterReset with since := 0 } } }

/-- One pending frame of each class on a follower, none, and all of them. -/
theorem witness_SilencedStationAbandonsItsFrames :
    let none' := silenced id
    let state := silenced (fun s => { s with sc := { s.sc with stateRequest := true } })
    let cue := silenced (withCues (fun c => { c with outgoing := [request .fire 200] }))
    let stop := silenced (fun s => { s with
      sp := { s.sp with orphan := some (.b, 6) }
      sc := { s.sc with peers := put s.sc.peers 6 { PeerEntry.afterReset with presence := .lost, stopB := true } } })
    let group := silenced (fun s => { s with mr := { s.mr with
      masters := put s.mr.masters 3 { Master.afterReset with since := 250000 } } })
    cannotBid run = false ∧ (∀ s ∈ [none', state, cue, stop, group], cannotBid s = true ∧ cannotSend s = true
        ∧ s.bc.sending = none ∧ s.cq.outgoing.length ≤ 4 ∧ peerNumber 6 ≠ s.sc.number.val)
      ∧ (pendingStops none' = [] ∧ none'.cq.outgoing = [] ∧ supplyMaster none' = none)
      ∧ ((settle state).sc.stateRequest = false)
      ∧ (cue.cq.outgoing = [request .fire 200]
        ∧ (takeCue .fire 200 0 .port { cue with cq := { cue.cq with outgoing := [] } }).cq.outgoing = []
        ∧ (settle cue).cq.last = some 200)
      ∧ (pendingStops stop = [.stop true .b 7] ∧ stop.sp.orphan = some (.b, 6)
        ∧ (settle stop).sc.peers[6].stopB = false ∧ (settle stop).sp.orphan = none)
      ∧ (supplyMaster group = some 3 ∧ group.sc.state = .run ∧ group.sc.stateRequest = false
        ∧ (∀ other : Channel, masterEligible group other = true ↔ other = 3)
        ∧ (settle group).mr.masters[3].since = 0 ∧ (settle group).mr.lastGroup = some 3) := by decide

/-- R138, R139: a frame of each class in flight on a follower with nothing on the bus, and a STOP frame on the bus of a
TX-muted station with another behind it. -/
theorem witness_SilencedStationAbandonsItsFrames_in_flight :
    let flight (p : Payload) : Option Flight := some { payload := p, attempts := 3, repeated := true }
    let s := silenced (fun s => { s with
      bc := { s.bc with
        stopFlight := flight (.stop true .b 7), cueFlight := flight (.cue .fire .port 200)
        groupFlight := flight (.group 0 true 9), stateFlight := flight (.state false false false none) }
      cq := { s.cq with outgoing := [{ request .fire 200 with sent := true }] }
      sp := { s.sp with orphan := some (.b, 6) } })
    let a := frameEnd false (.stop true .b 7) (setFlight s .stop none)
    let b := frameEnd false (.cue .fire .port 200) (setFlight a .cue none)
    let c := frameEnd false (.group 0 true 9) (setFlight b .group none)
    let d := frameEnd false (.state false false false none) (setFlight c .state none)
    let bus : State := { flying (.stop true .b 7) 1 true run with
      sc := { run.sc with txMuted := true }
      sp := { run.sp with orphan := some (.b, 6), machineA := { state := .announcing, ack := false } } }
    cannotBid s = true ∧ s.bc.sending = none ∧ offerOf a .stop = none
      ∧ (offerOf b .stop = none ∧ offerOf b .cue = none)
      ∧ (offerOf c .stop = none ∧ offerOf c .cue = none ∧ offerOf c .group = none)
      ∧ (∀ class' ∈ [FrameClass.stop, .cue, .group, .state], offerOf d class' = none)
      ∧ ((settle s).cq.last = some 200 ∧ (settle s).mr.lastGroup = some 3 ∧ (settle s).sp.orphan = none)
      ∧ (payloadClass (.stop true .b 7) = .stop ∧ (abandonOne bus .stop).map (fun t => t.sp.machineA.state) = some .held
        ∧ (settle bus).sp.machineA.state = .held ∧ (settle bus).bc.stopFlight = bus.bc.stopFlight) := by decide

theorem witness_SilencedStationAbandonsItsFrames_silent : Silent (silenced id) := ⟨rfl, rfl, rfl, rfl, rfl⟩

/-! ## Hypotheses that are met: stations and stops -/

/-- No candidate, and one of each source. -/
theorem witness_ListenExpiryAdoptsTheCandidate :
    let s (c : Option Candidate) : State :=
      { run with sc := { run.sc with state := .listen, listen := some 0, candidate := c } }
    (s none).sc.state = .listen ∧ (s none).sm.image = some image ∧ (s none).sc.candidate = none
      ∧ (after .listenTimerExpiry (s (some { cue := 100, source := .fire, age := 7 }))).cq.since = 7
      ∧ (after .listenTimerExpiry (s (some { cue := 99999, source := .state, age := 7 }))).cq.since = 2000000
      ∧ (after .listenTimerExpiry (s (some { cue := 99999, source := .state, age := 7 }))).cq.standby = none := by decide

/-- Station 5 at the end of the walk, with some cues accepted in CATCHUP, a follow, a standby and requests. -/
def walked (incoming : List CueNumber) (follow : Option FollowTimer) (requests : List CueNumber) : State :=
  inState .catchup { run with
    sc := { run.sc with walkEnded := true, tracked := some (presets image) }
    cq := { run.cq with
      standby := some 100, follow := follow, outgoing := requests.map (request .fire)
      incoming := incoming.map (fun c => { cue := c, expanding := false }) } }

/-- The end of the walk with the standby a cue, touched, PENDING and free motors, and a plain fader. -/
theorem witness_RunEntryInstallsTheTrackedState :
    let s : State := withStrip (withStrip (walked [] none []) 1 { Strip.afterReset 300 true with touch := .touched })
      2 { Strip.afterReset 300 true with touch := .pending 7 }
    s.sc.state = .catchup ∧ s.sc.walkEnded = true ∧ s.sc.tracked = some (presets image)
      ∧ (s.cq.buffer = .empty ∧ s.fe.pool = [] ∧ s.cq.incoming = [] ++ [] ∧ s.cq.standby = some 100)
      ∧ (isMotor s 1 = true ∧ s.st.strips[1].touch = .touched ∧ isMotor s 2 = true ∧ s.st.strips[2].touch = .pending 7
        ∧ isPlain s 0 = true ∧ faderOf s 3 = .absent)
      ∧ ((after .levelPoint s).sc.state = .run ∧ (after .levelPoint s).fe.levels[0] = 256
        ∧ (after .levelPoint s).mr.mute[2] = true ∧ (after .levelPoint s).st.strips[1].hand = 300
        ∧ (after .levelPoint s).st.strips[2].touch = .pending 7 ∧ (after .levelPoint s).cq.buffer = .prefetching 100) := by
  decide

/-- Cues with and without moves accepted in CATCHUP, and a follow armed with 0 and with 1: under a stop, on a follower,
with an equal request, with three and with four. -/
theorem witness_RunEntryInstallsTheTrackedState_queued :
    let entered (s : State) : State := after .runEntry s
    let zero : Option FollowTimer := some { target := 200, left := 0 }
    (movesOf (cueTable run) 99999 = [] ∧ movesOf (cueTable run) 200 ≠ [])
      ∧ ((entered (walked [99999, 200, 99999] none [])).fe.commits.map (·.cue) = [99999]
        ∧ (entered (walked [99999, 200, 99999] none [])).cq.incoming
          = [{ cue := 200, expanding := true }, { cue := 99999, expanding := false }])
      ∧ (entered (walked [99999] none [])).cq.buffer = .prefetching 100
      ∧ ((entered (walked [] (some { target := 200, left := 1 }) [])).cq.outgoing = []
        ∧ (entered (walked [] zero [])).cq.outgoing.map (·.cue) = [200])
      ∧ ((entered (walked [] zero [200])).cq.outgoing = [request .fire 200]
        ∧ (entered (walked [] zero [1, 2, 3])).cq.outgoing.map (·.cue) = [1, 2, 3, 200]
        ∧ (entered (walked [] zero [1, 2, 3, 4])).lp.queue.map (·.kind) = [.catchupDone, .requestRefused])
      ∧ (let held := withStop { walked [] zero [] with sp := { run.sp with machineA := { state := .held, ack := false } } } .a
        (entered held).sp.effective = .a ∧ (entered held).cq.follow = zero)
      ∧ (let follower : State := { walked [] zero [] with sc := { (walked [] zero []).sc with number := 0 } }
        cannotSend follower = true ∧ (entered follower).cq.last = some 200) := by decide

/-- A PRESENT peer with both stop flags that owns LIVE groups and has demoted a master, one with none, and an ABSENT one. -/
theorem witness_PeerLossAndStateRefresh :
    let s (a b : Bool) : State := { mixAt 1 1 with sc := { run.sc with
      peers := put run.sc.peers 2 { PeerEntry.afterReset with presence := .present, stopA := a, stopB := b } } }
    (s true true).sc.peers[2].presence = .present ∧ run.sc.peers[2].presence ≠ .present ∧ run.sc.state = .run
      ∧ (hostOf (s true true) 0 = some 3 ∧ (s true true).mr.masters[3].demoted = true)
      ∧ (after (.peerLost 2) (s true true)).mr.masters[3].demoted = false
      ∧ (after (.peerLost 2) (s true true)).lp.queue.map (·.kind) = [.peerLost, .orphanStop, .groupStale]
      ∧ (after (.peerLost 2) (s false false)).lp.queue.map (·.kind) = [.peerLost, .groupStale]
      ∧ (let live : GroupEntry := .owned { stale := false, owner := 2, position := 5, mute := true, age := 1 }
        let two : State := setGroup (s false false) 9 live
        (after (.peerLost 2) two).lp.queue.map (fun r => (r.kind, r.first))
          = [(.peerLost, 3), (.groupStale, 1), (.groupStale, 10)]) := by decide

/-- STATE with a cue and without one in LISTEN and in RUN, ASSERT, RELEASE of the sender, of a LOST and of a PRESENT
station. -/
theorem witness_StateAndStopFramesWriteThePeer :
    let lost : State := { hearing run with sc := { (hearing run).sc with
      peers := put (hearing run).sc.peers 6 { PeerEntry.afterReset with presence := .lost, stopB := true } } }
    let candidate : State := { inState .listen (hearing run) with sc := { (hearing run).sc with
      state := .listen, candidate := some { cue := 100, source := .fire, age := 3 } } }
    (candidate.sc.state = .listen ∧ candidate.sc.candidate.map (·.cue) = some 100)
      ∧ (after (.frameReceived (frameGroups 3 false (.state true false true (some 100)))) candidate).sc.candidate
          = candidate.sc.candidate
      ∧ (after (.frameReceived (frameGroups 3 false (.state true false true (some 100)))) candidate).sp.effective = .b
      ∧ (after (.frameReceived (frameGroups 3 false (.stop false .b 3))) lost).sc.peers[2].stopB = true
      ∧ (peerNumber 6 ≠ lost.sc.number.val ∧ lost.sc.peers[6].presence = .lost)
      ∧ (after (.frameReceived (frameGroups 3 false (.stop true .b 7))) lost).sc.peers[6].stopB = false
      ∧ ((6 : Peer) ≠ 2 ∧ (hearing run).sc.peers[6].presence ≠ .lost) := by decide

def withLine (raw asserted : Bool) (m : MachineState) (s : State) : State :=
  { s with sp := { s.sp with
    lineA := { raw := raw, asserted := asserted, timer := none }, machineA := { state := m, ack := false }
    lineB := { raw := raw, asserted := asserted, timer := none }, machineB := { state := m, ack := false } } }

/-- An assertion and a release in each machine state, on a station that can announce, one that cannot, and one whose
memory is INVALID; LATCHED (A) and FOLLOW (B). -/
theorem witness_StopLinesReachTheirMachines :
    let up := withLine true false
    let down := withLine false true
    ((lineOf (up .clear run) .a).raw = true ∧ (lineOf (up .clear run) .a).asserted = false)
      ∧ (run.sm.image ≠ none ∧ State.reset.sm.image = none ∧ canAnnounce run = true
        ∧ canAnnounce (inState .listen run) = false)
      ∧ ((machineOf (up .clear run) .a).state = .clear ∧ (machineOf (up .releasing run) .a).state = .releasing
        ∧ ∀ f ∈ (up .releasing run).bc.stopFlight, f.payload ≠ .stop true .a 5)
      ∧ (after (.lineAssertion .a) (up .clear run)).sp.machineA.state = .announcing
      ∧ (after (.lineAssertion .a) (up .clear (inState .listen run))).sp.effective = .a
      ∧ (after (.lineAssertion .a) (up .releasing run)).sp.machineA.state = .held
      ∧ ((lineOf (down .held run) .b).raw = false ∧ (lineOf (down .held run) .b).asserted = true)
      ∧ ((machineOf (down .held run) .b).state = .held ∧ stopModeOf run .b = .follow ∧ stopModeOf run .a = .latched)
      ∧ (after (.lineRelease .b) (down .held run)).sp.machineB.state = .releasing
      ∧ (after (.lineRelease .b) (down .held (inState .listen run))).sp.machineB.state = .clear
      ∧ (after (.lineRelease .a) (down .held run)).sp.machineA.state = .held := by decide

/-- The end of ASSERT with the release condition met and not, and of RELEASE with the line released and asserted, on
stations that can announce and cannot, and of an orphan release. -/
theorem witness_StopFramesMoveTheMachines :
    let s := withLine true true .announcing run
    let r := withLine true true .releasing run
    let o : State := { run with
      sp := { run.sp with orphan := some (.b, 6) }
      sc := { run.sc with peers := put run.sc.peers 6 { PeerEntry.afterReset with presence := .lost, stopB := true } } }
    ((machineOf s .a).state = .announcing ∧ releaseCondition s .a = false)
      ∧ ((machineOf r .a).state = .releasing ∧ canAnnounce r = true ∧ (lineOf r .a).asserted = true)
      ∧ (lineOf (withLine false false .releasing run) .a).asserted = false
      ∧ (frameEnd true (.stop true .a 5) r).sp.machineA.state = .announcing
      ∧ (releaseCondition (withLine false false .announcing run) .b = true
        ∧ canAnnounce (inState .listen run) = false)
      ∧ (frameEnd true (.stop false .b 5) (withLine false false .announcing run)).sp.machineB.state = .releasing
      ∧ ((frameEnd true (.stop false .b 5) (withLine false false .announcing (inState .listen run))).lp.queue.map
          (fun e => e.second) = [2, 0])
      ∧ (frameEnd true (.stop true .a 5) (withLine true true .releasing (inState .listen run))).sp.machineA.state = .held
      ∧ (o.sp.orphan = some (.b, 6) ∧ (6 : Peer).succ ≠ o.sc.number)
      ∧ (frameEnd false (.stop true .b 7) o).sc.peers[6].stopB = false := by decide

/-- Kinds 1 and 2, targets 0, 31 and 32, the own number, and a LOST peer with the flag, without it, and in the slot. -/
theorem witness_StopReleaseAnswersByItsRows :
    let lost (o : Option (StopKind × Peer)) : State := { run with
      sp := { run.sp with orphan := o }
      sc := { run.sc with peers := put run.sc.peers 30 { PeerEntry.afterReset with presence := .lost, stopB := true } } }
    run.lp.port = .reading ∧ ((1 : Byte).toNat ≤ 1 ∧ 1 < (2 : Byte).toNat ∧ (0 : Byte).toNat = 0 ∧ 31 < (32 : Byte).toNat)
      ∧ ((5 : Byte).toNat = run.sc.number.val ∧ (31 : Byte).toNat = peerNumber 30 ∧ peerNumber 30 ≠ run.sc.number.val)
      ∧ (stopModeOf run .b = .follow ∧ stopModeOf run .a = .latched)
      ∧ ((machineOf (withLine false false .held run) .a).state = .held ∧ canAnnounce run = true)
      ∧ (after (.stopRelease 0 5) (withLine false false .held run)).sp.machineA.state = .releasing
      ∧ (after (.stopRelease 0 5) (withLine true true .held run)).sp.machineA.ack = true
      ∧ (canAnnounce (inState .listen run) = false ∧ (inState .listen run).sc.state = .listen
        ∧ (after (.stopRelease 0 5) (withLine false false .held (inState .listen run))).sp.machineA.state = .clear)
      ∧ ((lost none).sc.peers[30].presence = .lost ∧ (lost none).sc.peers[30].stop .b = true
        ∧ (lost none).sc.peers[30].stop .a = false)
      ∧ (after (.stopRelease 1 31) (lost none)).sp.orphan = some (.b, 30)
      ∧ (after (.stopRelease 1 31) (lost (some (.b, 30)))).lp.port = .answered .ok [] 0
      ∧ (after (.stopRelease 1 31) (lost (some (.a, 30)))).lp.port = .answered .full [] 0
      ∧ (after (.stopRelease 2 31) (lost none)).lp.port = .answered .badArgument [] 0 := by decide

/-! ## Hypotheses that are met: the port and every step -/

/-- Each station state, a data count of its length, and the codes about those of the table. -/
theorem witness_PortCommandsAnswerTheStateRows :
    (∀ st, (inState st run).sc.state = st) ∧ run.lp.port = .reading ∧ State.reset.lp.port ≠ .reading ∧ [(5 : Byte)].length = (1 : Byte).toNat
      ∧ unknownCodeOk 0x00 = true ∧ unknownCodeOk 0x06 = true ∧ unknownCodeOk 0xFF = true
      ∧ ((0x33 : Byte) ∉ ([0x01, 0x02, 0x03, 0x04, 0x05, 0x10, 0x11, 0x12, 0x20, 0x21, 0x22, 0x30, 0x31, 0x32] : List Byte)
        ∧ readCommand [0x20] = some .go ∧ readCommand [0x21, 0, 0, 1] = some (.fire 1)
        ∧ readCommand [0x30, 0, 5] = some (.stopRelease 0 5) ∧ readCommand [0x01] = some .readStatus)
      ∧ (after .loadBegin run).lp.port = .answered .wrongState [] 0
      ∧ (after .loadBegin (inState .validating run)).lp.port = .answered .busy [] 0 := by
  refine ⟨fun _ => rfl, rfl, by decide, ?_⟩
  decide

/-- R171: a second command of a transaction, and one in none, does nothing; LOAD DATA cut short is not taken. -/
theorem test_one_command_of_a_transaction :
    after .go (after .readStatus run) = after .readStatus run ∧ after .readStatus State.reset = State.reset
      ∧ after (.loadData 2 [7]) (inState .load run) = inState .load run
      ∧ (after .chipSelectLow (after .readStatus run)).lp.port = .reading
      ∧ responseBytes (after .loadBegin run).lp.port = [1] := by decide

/-- R171, R182: the data output of READ CHANNEL 3 in RUN, of FIRE cut short, and of a LOAD DATA of one byte. -/
theorem test_data_output :
    ((List.range 17).map (dataOutput [0x03, 3, 9] (after (.readChannel 3) run).lp.port)
        = [0, 0, 0, 1, 0, 0, 0, 0, 0, 0, 0, 0, 0, 0, 0, 0, 0])
      ∧ commandSize [0x21, 0, 0] = none ∧ dataOutput [0x21, 0, 0] .reading 2 = 0
      ∧ commandSize [0x11, 1, 7, 7] = some 3
      ∧ (List.range 5).map (dataOutput [0x11, 1, 7, 7] (after (.loadData 1 [7]) run).lp.port) = [0, 0, 0, 1, 0] := by
  decide

/-- Arguments 0, 1, the last and one more of each range. -/
theorem witness_ReadsReturnTheState :
    run.lp.port = .reading ∧ (run.cq.outgoing.length ≤ 4 ∧ run.cq.incoming.length ≤ 4 ∧ run.fe.pool.length ≤ 64 ∧ run.lp.queue.length ≤ 64)
      ∧ ((1 : Byte).toNat = (0 : Channel).val + 1 ∧ (16 : Byte).toNat = (15 : Channel).val + 1 ∧ 16 < (17 : Byte).toNat)
      ∧ ((31 : Byte).toNat = peerNumber 30 ∧ run.sc.peers[30].heard ≤ 65535000 ∧ 31 < (32 : Byte).toNat)
      ∧ ((32 : Byte).toNat = (31 : Group).val + 1 ∧ 32 < (33 : Byte).toNat ∧ (0 : Byte).toNat = 0)
      ∧ run.sc.state = .run := by decide

/-- R182: the bytes of the four reads of station 5 in RUN. -/
theorem test_reads :
    (after .readStatus run).lp.port = .answered .ok [5, 5, 0, 0, 0, 0, 0, 0, 0, 0, 0, 0, 0, 0, 0, 0] 0
      ∧ (after (.readChannel 3) run).lp.port = .answered .ok [1, 0, 0, 0, 0, 0, 0, 0, 0, 0, 0, 0, 0] 0
      ∧ (after (.readPeer 3) (hearing run)).lp.port = .answered .ok [1, 0, 0, 0, 0, 0, 0] 0
      ∧ (after (.readGroup 1) (mixAt 0 385)).lp.port
          = .answered .ok [1, 3, 1, 129, 0, 0, 0, 1, 4, 1, 0, 0, 0, 0, 0, 0, 0, 0, 250] 0 := by decide

/-- A queue empty, of 63 and of 64 records, and a response cut one byte short and not. -/
theorem witness_EventsAreQueuedAndRead :
    let r : EventRecord := { kind := .busFault, gap := false, stamp := 7, first := 0, second := 0 }
    let s (n : Nat) : State := { run with lp := { run.lp with queue := List.replicate n r } }
    (s 0).lp.port = .reading ∧ ((s 0).lp.queue = [] ∧ (s 63).lp.queue.length < 64 ∧ (s 64).lp.queue.length = 64)
      ∧ ((1 : Byte).toNat = 1 ∧ (64 : Byte).toNat ≤ 64 ∧ 64 < (65 : Byte).toNat)
      ∧ ((post .busFault 0 0 (s 64)).lp.queue.length = 64
        ∧ (post .busFault 0 0 (s 64)).lp.queue.head? = some { r with gap := true })
      ∧ (let t := after (.readEvents 2) (s 3)
        t.lp.port = .answered .ok (2 :: recordBytes r ++ recordBytes r) 2
          ∧ (after (.chipSelectHigh 18) t).lp.queue = [r]
            ∧ (after (.chipSelectHigh 17) t).lp.queue = [{ r with gap := true }])
      ∧ (after (.chipSelectHigh 17) (after (.readEvents 2) (s 2))).lp.gapPending = true
      ∧ ((after (.chipSelectHigh 0) (s 3)).lp.queue = (s 3).lp.queue
        ∧ (after (.readEvents 0) (s 3)).lp.port = .answered .badArgument [] 0
        ∧ (after (.chipSelectHigh 0) (after (.readEvents 0) (s 3))).lp.queue = (s 3).lp.queue)
      ∧ ((run.lp.stale = .off)
        ∧ (after .staleTimerExpiry { run with lp := { run.lp with queue := [r], stale := .running 0 } }).lp.attn
          = true) := by decide

/-- Station 5 in RUN with the image its bytes validate to, and with the commands about to run. -/
def inOrder : State :=
  { inState .run (loaded smallBytes) with
    sm := { (loaded smallBytes).sm with image := some smallImage }
    pending := [.levelPoint, .outputPoint] }

theorem inOrder_image : ImageInForce inOrder := by
  refine ⟨by decide, fun im h => ?_⟩
  have h1 : loadedBytes inOrder = smallBytes := by decide +kernel
  have h2 : im = smallImage := (Option.some.inj h).symm
  rw [h1, h2]
  exact witness_ValidatedImageKeepsTheFormat

theorem witness_StepKeepsMemoryQueuesAndAttn :
    (MemoryInOrder inOrder ∧ QueuesBounded inOrder ∧ RequestsDistinct inOrder ∧ ImageInForce inOrder ∧ AttnTrue inOrder)
      ∧ step inOrder = .next (stepped inOrder) :=
  ⟨⟨⟨by decide +kernel, by decide +kernel⟩, ⟨by decide, by decide, by decide, by decide⟩, List.Pairwise.nil, inOrder_image, rfl⟩, rfl⟩

theorem inOrder_quiet : QuietOutsideRun inOrder := fun h => absurd rfl h

theorem inOrder_hands : HandsHaveMotors inOrder := by
  intro ch
  have h0 : inOrder.st.strips[ch] = Strip.afterReset 0 false := by revert ch; decide
  have h1 : isMotor inOrder ch = false := by revert ch; decide
  rw [h0, h1]
  exact ⟨fun _ => ⟨rfl, rfl⟩, (fun h => by cases h), (fun _ h => by cases h)⟩

theorem witness_StepKeepsMotorsFromHands :
    (ImageInForce inOrder ∧ QuietOutsideRun inOrder ∧ HandsHaveMotors inOrder)
      ∧ step inOrder = .next (stepped inOrder) :=
  ⟨⟨inOrder_image, inOrder_quiet, inOrder_hands⟩, rfl⟩

/-- With one fade running and one record waiting. -/
theorem witness_StepKeepsFadesOnTheirLevels :
    let s := withPool inOrder [record 0 (.running 0 100 10 0 .linear), record 0 (.waitingMute 3 true)]
    (ImageInForce s ∧ QuietOutsideRun s ∧ HandsHaveMotors s)
      ∧ (OneRunningRecord s ∧ HeldChannelsFree s ∧ LevelsOnTheirFades s) ∧ step s = .next (stepped s) := by
  refine ⟨⟨inOrder_image, fun h => absurd rfl h, inOrder_hands⟩, ⟨?_, ?_, ?_⟩, rfl⟩
  · show List.Pairwise _ [_, _]
    simp [record, PoolRecord.isRunning]
  · intro r h _
    have : ∀ x ∈ [record 0 (.running 0 100 10 0 .linear), record 0 (.waitingMute 3 true)],
        heldUnderKeep inOrder x.channel = false := by decide
    exact this r h
  · intro r h start target duration elapsed curve hr
    rcases List.mem_cons.mp h with rfl | h
    · injection hr with h1 h2 h3 h4 h5
      subst h1 h2 h3 h4 h5
      decide
    · rcases List.mem_singleton.mp h with rfl
      cases hr

theorem witness_StepKeepsStopsAndSilence :
    (AbsentPeersClear inOrder ∧ OwnEntryUntouched inOrder ∧ StopCovered inOrder ∧ FollowerSilent inOrder
      ∧ SilentOutsideRun inOrder) ∧ step inOrder = .next (stepped inOrder) :=
  ⟨⟨by unfold AbsentPeersClear; decide, by unfold OwnEntryUntouched; decide, by unfold StopCovered; decide,
    fun h => absurd h (by decide), fun h => absurd rfl h⟩, rfl⟩

theorem witness_OnlyTheseCommandsChange :
    exec .levelPoint inOrder = .next (after .levelPoint inOrder) ∧ inOrder.sc.state = .run
      ∧ (∀ straps, Instr.levelPoint ≠ .coldReset straps) ∧ Instr.levelPoint ≠ .restart ∧ Instr.levelPoint ≠ .loadBegin
      ∧ (∀ length data, Instr.levelPoint ≠ .loadData length data)
      ∧ ({ inOrder with sc := { inOrder.sc with txMuted := true } } : State).sc.txMuted = true :=
  ⟨rfl, rfl, by decide, by decide, by decide, (fun _ _ h => by cases h), rfl⟩

end Sys2Proof.Tests.Slice0
end

section
/-!
PROOFS. Positions, tapers and gain (chapter 1): the taper's segments and its rise, the stop level code, and the
HEADROOM flag an output point leaves.
-/

namespace Sys2Proof.Machine

/-! ## The taper's segments (R2)

Each equation holds on the closed segment: at a shared breakpoint the segment below answers, and the two agree. -/

theorem taper_of_le_128 {p : Position} (h : p.val ≤ 128) : taper p = -800 + ((p.val : Int) - 1) * 300 / 127 :=
  if_pos (by omega)

theorem taper_of_128_to_256 {p : Position} (hlo : 128 ≤ p.val) (hhi : p.val ≤ 256) :
    taper p = -500 + ((p.val : Int) - 128) * 200 / 128 := by
  rcases hlo.eq_or_lt with hp | hlt
  · rw [taper_of_le_128 hp.ge, ← hp]; rfl
  · rw [taper, if_neg (by omega), if_pos (by omega)]

theorem taper_of_256_to_512 {p : Position} (hlo : 256 ≤ p.val) (hhi : p.val ≤ 512) :
    taper p = -300 + ((p.val : Int) - 256) * 200 / 256 := by
  rcases hlo.eq_or_lt with hp | hlt
  · rw [taper_of_128_to_256 (by omega) hp.ge, ← hp]; rfl
  · rw [taper, if_neg (by omega), if_neg (by omega), if_pos (by omega)]

theorem taper_of_512_to_768 {p : Position} (hlo : 512 ≤ p.val) (hhi : p.val ≤ 768) :
    taper p = -100 + ((p.val : Int) - 512) * 100 / 256 := by
  rcases hlo.eq_or_lt with hp | hlt
  · rw [taper_of_256_to_512 (by omega) hp.ge, ← hp]; rfl
  · rw [taper, if_neg (by omega), if_neg (by omega), if_neg (by omega), if_pos (by omega)]

theorem taper_of_768_le {p : Position} (h : 768 ≤ p.val) : taper p = 0 + ((p.val : Int) - 768) * 100 / 255 := by
  rcases h.eq_or_lt with hp | hlt
  · rw [taper_of_512_to_768 (by omega) hp.ge, ← hp]; rfl
  · rw [taper, if_neg (by omega), if_neg (by omega), if_neg (by omega), if_neg (by omega), Int.zero_add]

/-! ## The taper rises -/

/-- A stretch of positions on which the taper is the floor of one rising line. -/
theorem monotoneOn_taper_of_line {a b : Position} {d0 p0 rise run : Int} (hrise : 0 ≤ rise) (hrun : 0 < run)
    (hline : ∀ p : Position, a ≤ p → p ≤ b → taper p = d0 + ((p.val : Int) - p0) * rise / run) :
    MonotoneOn taper (Set.Icc a b) := by
  intro p hp q hq hpq
  have hval : (p.val : Int) ≤ q.val := by exact_mod_cast hpq
  rw [hline p hp.1 hp.2, hline q hq.1 hq.2]
  have hscaled : ((p.val : Int) - p0) * rise ≤ ((q.val : Int) - p0) * rise :=
    Int.mul_le_mul_of_nonneg_right (by omega) hrise
  exact Int.add_le_add_left (Int.ediv_le_ediv hrun hscaled) d0

/-- Two rising stretches that share a breakpoint make one. -/
theorem monotoneOn_taper_glue {a b c : Position} (hab : a ≤ b) (hbc : b ≤ c)
    (hlow : MonotoneOn taper (Set.Icc a b)) (hhigh : MonotoneOn taper (Set.Icc b c)) :
    MonotoneOn taper (Set.Icc a c) := by
  rw [← Set.Icc_union_Icc_eq_Icc hab hbc]
  exact hlow.union_right hhigh (isGreatest_Icc hab) (isLeast_Icc hbc)

theorem monotoneOn_taper : MonotoneOn taper (Set.Icc 1 1023) := by
  have h1 : MonotoneOn taper (Set.Icc 1 128) :=
    monotoneOn_taper_of_line (by omega) (by omega) fun _ _ hhi => taper_of_le_128 hhi
  have h2 : MonotoneOn taper (Set.Icc 128 256) :=
    monotoneOn_taper_of_line (by omega) (by omega) fun _ hlo hhi => taper_of_128_to_256 hlo hhi
  have h3 : MonotoneOn taper (Set.Icc 256 512) :=
    monotoneOn_taper_of_line (by omega) (by omega) fun _ hlo hhi => taper_of_256_to_512 hlo hhi
  have h4 : MonotoneOn taper (Set.Icc 512 768) :=
    monotoneOn_taper_of_line (by omega) (by omega) fun _ hlo hhi => taper_of_512_to_768 hlo hhi
  have h5 : MonotoneOn taper (Set.Icc 768 1023) :=
    monotoneOn_taper_of_line (by omega) (by omega) fun _ hlo _ => taper_of_768_le hlo
  have h12 := monotoneOn_taper_glue (by decide) (by decide) h1 h2
  have h13 := monotoneOn_taper_glue (by decide) (by decide) h12 h3
  have h14 := monotoneOn_taper_glue (by decide) (by decide) h13 h4
  exact monotoneOn_taper_glue (by decide) (by decide) h14 h5

theorem mem_Icc_of_one_le {p : Position} (h : 1 ≤ p.val) : p ∈ Set.Icc (1 : Position) 1023 :=
  ⟨h, Nat.le_of_lt_succ p.isLt⟩

theorem taper_le_taper {p q : Position} (hp : 1 ≤ p.val) (hpq : p ≤ q) : taper p ≤ taper q :=
  monotoneOn_taper (mem_Icc_of_one_le hp) (mem_Icc_of_one_le (hp.trans hpq)) hpq

theorem taper_first : taper 1 = -800 := by decide

theorem taper_last : taper 1023 = 100 := by decide

/-- The taper lies between its values at the two ends of travel. -/
theorem taper_bounds {p : Position} (h : 1 ≤ p.val) : -800 ≤ taper p ∧ taper p ≤ 100 := by
  obtain ⟨hfirst, hlast⟩ := mem_Icc_of_one_le h
  exact ⟨taper_first ▸ taper_le_taper le_rfl hfirst, taper_last ▸ taper_le_taper h hlast⟩

/-! ## Sum and codes (R5, R7, R11) -/

theorem channelSum_of_source_off {s : State} {ch : Channel} (h : sourcePosition s ch = 0) : channelSum s ch = none := by
  simp [channelSum, h]

theorem channelCode_of_no_sum {s : State} {ch : Channel} (h : channelSum s ch = none) : channelCode s ch = 0 := by
  simp [channelCode, h]

/-- No part of the sum reads the stop in force. -/
theorem channelSum_of_effective (s : State) (stop : EffectiveStop) (ch : Channel) :
    channelSum { s with sp := { s.sp with effective := stop } } ch = channelSum s ch := rfl

theorem resolvedCode_val_of_mid {sum : Int} (hlo : -900 < sum) (hhi : sum ≤ 100) :
    ((resolvedCode sum).val : Int) = sum + 900 := by
  rw [resolvedCode, if_neg (by omega), if_pos hhi]
  simp only [clampCode]
  omega

@[simp] theorem stopLevelCode_zero : stopLevelCode 0 = 0 := rfl

theorem stopLevelCode_val {p : Position} (h : 1 ≤ p.val) : ((stopLevelCode p).val : Int) = taper p + 900 := by
  have hne : p ≠ 0 := fun h0 => by simp [h0] at h
  obtain ⟨hlo, hhi⟩ := taper_bounds h
  rw [stopLevelCode, if_neg hne, resolvedCode_val_of_mid (by omega) hhi]

/-! ## The aim (R9, R10) -/

theorem aimOf_of_no_stop {s : State} {ch : Channel} (h : s.sp.effective = .none) :
    aimOf s ch = if resolvedMute s ch then 0 else channelCode s ch := by
  simp only [aimOf, h, freeAim]

theorem aimOf_of_stop_a {s : State} {ch : Channel} (h : s.sp.effective = .a) : aimOf s ch = stoppedAim s ch .a := by
  simp only [aimOf, h]

theorem aimOf_of_stop_b {s : State} {ch : Channel} (h : s.sp.effective = .b) : aimOf s ch = stoppedAim s ch .b := by
  simp only [aimOf, h]

theorem stopActionOf_a {s : State} {ch : Channel} {e : ChannelEntry} (h : entryOf s ch = some e) :
    stopActionOf s ch .a = e.stopA := by
  simp only [stopActionOf, h]

theorem stopActionOf_b {s : State} {ch : Channel} {e : ChannelEntry} (h : entryOf s ch = some e) :
    stopActionOf s ch .b = e.stopB := by
  simp only [stopActionOf, h]

theorem stoppedAim_of_level {s : State} {ch : Channel} {k : StopKind} {p : Position}
    (h : stopActionOf s ch k = .level p) : stoppedAim s ch k = stopLevelCode p := by
  simp only [stoppedAim, h]

/-! ## The HEADROOM flag of an output point (R8) -/

/-- Capture and servo leave the flags the gain law set. -/
@[simp] theorem outputPoint_headroom (s : State) : (outputPoint s).mr.headroom = (gainLaw s).mr.headroom := by
  rw [outputPoint, servo_frame]
  rfl

/-- In RUN the flag of an AUDIO channel says that a sum is formed above +100. -/
theorem outputPoint_headroom_iff {s : State} {ch : Channel} (hrun : s.sc.state = .run) (haudio : isAudio s ch = true) :
    (outputPoint s).mr.headroom[ch] = true ↔ ∃ sum, channelSum s ch = some sum ∧ 100 < sum := by
  have hch := gainLaw_channel s hrun ch
  rw [if_pos haudio] at hch
  have hflag : (gainLaw s).mr.headroom[ch] = (channelSum s ch).any (100 < ·) := congrArg Prod.snd hch
  rw [outputPoint_headroom, hflag]
  simp [Option.any_eq_true]

theorem exec_outputPoint (s : State) : exec .outputPoint s = .next (outputPoint s) := rfl

/-! ## The statements -/

/-- Settles O5: an equation per segment, the rise by gluing the segments at their breakpoints, and the bounds from
the rise and the two ends of travel. -/
theorem taperFollowsItsSegments : Obligations.TaperFollowsItsSegments :=
  ⟨fun _ _ hhi => taper_of_le_128 hhi,
    fun _ hlo hhi => taper_of_128_to_256 hlo hhi,
    fun _ hlo hhi => taper_of_256_to_512 hlo hhi,
    fun _ hlo hhi => taper_of_512_to_768 hlo hhi,
    fun _ hlo => taper_of_768_le hlo,
    fun _ _ hp hpq => taper_le_taper hp hpq,
    fun _ hp => taper_bounds hp,
    fun _ _ hoff => ⟨channelSum_of_source_off hoff, channelCode_of_no_sum (channelSum_of_source_off hoff)⟩,
    stopLevelCode_zero⟩

/-- Settles O8: the code by the bounds of the taper, the aim by the stop in force and the channel's action for it, and
the HEADROOM flag by the gain law, whose sum reads no stop. -/
theorem stopLevelCodeStandsAlone : Obligations.StopLevelCodeStandsAlone := by
  refine ⟨stopLevelCode_zero, fun p hp => ?code, by decide, by decide, by decide,
    fun s ch e p he => ⟨?stopA, ?stopB, aimOf_of_no_stop⟩,
    fun s ch stop => channelSum_of_effective s stop ch, fun s t ch hrun haudio ht => ?headroom⟩
  case code =>
    have hpos : 1 ≤ p.val := Nat.one_le_iff_ne_zero.mpr (Fin.val_ne_of_ne hp)
    have hval := stopLevelCode_val hpos
    obtain ⟨hlo, -⟩ := taper_bounds hpos
    exact ⟨hval, by omega⟩
  case stopA =>
    intro hstop hlevel
    rw [aimOf_of_stop_a hstop, stoppedAim_of_level ((stopActionOf_a he).trans hlevel)]
  case stopB =>
    intro hstop hlevel
    rw [aimOf_of_stop_b hstop, stoppedAim_of_level ((stopActionOf_b he).trans hlevel)]
  case headroom =>
    rw [exec_outputPoint] at ht
    cases ht
    exact outputPoint_headroom_iff hrun haudio

end Sys2Proof.Machine
end

section
/-!
PROOFS. The fade engine (chapter 4): the progress of a fade and the fraction of each curve (R68), and the start of a
record of duration 0 (R65).
-/

namespace Sys2Proof.Machine

/-! ## The progress of a fade (R68) -/

theorem progress_start (d : Nat) : progress 0 d = 0 := by simp [progress]

theorem progress_end {d : Nat} (hd : 1 ≤ d) : progress d d = 4096 := Nat.mul_div_cancel 4096 hd

theorem progress_le_progress {e e' : Nat} (d : Nat) (h : e ≤ e') : progress e d ≤ progress e' d :=
  Nat.div_le_div_right (Nat.mul_le_mul_left 4096 h)

theorem progress_le {e d : Nat} (hd : 1 ≤ d) (h : e ≤ d) : progress e d ≤ 4096 :=
  progress_end hd ▸ progress_le_progress d h

/-! ## The fraction of each curve (R68)

Every curve reads the elapsed count and the duration through the progress alone. -/

theorem fadeFraction_linear (e d : Nat) : fadeFraction .linear e d = progress e d := rfl

theorem fadeFraction_scurve (e d : Nat) :
    fadeFraction .scurve e d = progress e d * progress e d * (12288 - 2 * progress e d) / 16777216 := rfl

theorem fadeFraction_early (e d : Nat) :
    fadeFraction .early e d = 4096 - (4096 - progress e d) * (4096 - progress e d) / 4096 := rfl

theorem fadeFraction_late (e d : Nat) : fadeFraction .late e d = progress e d * progress e d / 4096 := rfl

theorem fadeFraction_of_progress_zero {e d : Nat} (curve : Curve) (h : progress e d = 0) :
    fadeFraction curve e d = 0 := by
  cases curve with
  | linear => rw [fadeFraction_linear, h]
  | scurve => rw [fadeFraction_scurve, h]
  | early => rw [fadeFraction_early, h]
  | late => rw [fadeFraction_late, h]

theorem fadeFraction_of_progress_full {e d : Nat} (curve : Curve) (h : progress e d = 4096) :
    fadeFraction curve e d = 4096 := by
  cases curve with
  | linear => rw [fadeFraction_linear, h]
  | scurve => rw [fadeFraction_scurve, h]
  | early => rw [fadeFraction_early, h]
  | late => rw [fadeFraction_late, h]

/-- The SCURVE's product does not decrease up to 4096. With `q = p + k` and `4096 = q + m` its last factor is
`p + 3 * k + 3 * m` at `p` and `q + 3 * m` at `q`, and the difference of the two products has no negative term. -/
theorem scurve_product_le {p q : Nat} (hpq : p ≤ q) (hq : q ≤ 4096) :
    p * p * (12288 - 2 * p) ≤ q * q * (12288 - 2 * q) := by
  obtain ⟨k, rfl⟩ := Nat.exists_eq_add_of_le hpq
  obtain ⟨m, hm⟩ := Nat.exists_eq_add_of_le hq
  have hp : 12288 - 2 * p = p + 3 * k + 3 * m := by omega
  have hpk : 12288 - 2 * (p + k) = p + k + 3 * m := by omega
  rw [hp, hpk]
  calc p * p * (p + 3 * k + 3 * m)
      ≤ p * p * (p + 3 * k + 3 * m) + k * (2 * p * k + 6 * p * m + k * (p + k + 3 * m)) := Nat.le_add_right _ _
    _ = (p + k) * (p + k) * (p + k + 3 * m) := by ring

theorem fadeFraction_le_of_progress_le {e e' d : Nat} (curve : Curve) (h : progress e d ≤ progress e' d)
    (hfull : progress e' d ≤ 4096) : fadeFraction curve e d ≤ fadeFraction curve e' d := by
  cases curve with
  | linear => exact h
  | scurve => exact Nat.div_le_div_right (scurve_product_le h hfull)
  | early =>
    rw [fadeFraction_early, fadeFraction_early]
    gcongr
  | late => exact Nat.div_le_div_right (Nat.mul_self_le_mul_self h)

theorem fadeFraction_start (curve : Curve) (d : Nat) : fadeFraction curve 0 d = 0 :=
  fadeFraction_of_progress_zero curve (progress_start d)

theorem fadeFraction_end {d : Nat} (curve : Curve) (hd : 1 ≤ d) : fadeFraction curve d d = 4096 :=
  fadeFraction_of_progress_full curve (progress_end hd)

theorem fadeFraction_le_fadeFraction {e e' d : Nat} (curve : Curve) (hd : 1 ≤ d) (h : e ≤ e') (hend : e' ≤ d) :
    fadeFraction curve e d ≤ fadeFraction curve e' d :=
  fadeFraction_le_of_progress_le curve (progress_le_progress d h) (progress_le hd hend)

theorem fadeFraction_le {e d : Nat} (curve : Curve) (hd : 1 ≤ d) (h : e ≤ d) : fadeFraction curve e d ≤ 4096 :=
  fadeFraction_end curve hd ▸ fadeFraction_le_fadeFraction curve hd h le_rfl

/-! ## Takeover and a level set at once (R65) -/

theorem mem_takeOver {ch : Channel} {pool : List PoolRecord} {x : PoolRecord} :
    x ∈ takeOver ch pool ↔ x ∈ pool ∧ (x.channel = ch → x.isRunning = false) := by
  cases hx : x.isRunning <;> simp [takeOver, hx]

/-- The notice writes the strip alone. -/
@[simp] theorem levelStartNotice_fe (ch : Channel) (s : State) : (levelStartNotice ch s).fe = s.fe := by
  unfold levelStartNotice
  split
  · dsimp only
    split <;> rfl
  · rfl

@[simp] theorem setLevelAtOnce_levels (ch : Channel) (target : Position) (s : State) :
    (setLevelAtOnce ch target s).fe.levels = put s.fe.levels ch target := by
  simp [setLevelAtOnce]

@[simp] theorem setLevelAtOnce_pool (ch : Channel) (target : Position) (s : State) :
    (setLevelAtOnce ch target s).fe.pool = takeOver ch s.fe.pool := by
  simp [setLevelAtOnce]

/-- R65: a due LEVEL record of duration 0 leaves the pool and its target is set at once. -/
theorem startWaiting_of_duration_zero {r : PoolRecord} {k : Nat} {target : Position} {curve : Curve}
    (before after : List PoolRecord) (s : State) (h : r.state = .waitingLevel k target 0 curve) :
    startWaiting before r after s = setLevelAtOnce r.channel target (setPool s (before ++ after)) := by
  simp [startWaiting, h]

/-! ## The statement -/

/-- Settles O24: the fraction through the progress it reads, the rise curve by curve, the bound by the rise up to the
end, and duration 0 by what a level set at once leaves. -/
theorem fadeFractionOfEachCurve : Obligations.FadeFractionOfEachCurve := by
  refine ⟨fun e d hd he => ⟨rfl, progress_le hd he⟩,
    fun e d _ _ => ⟨fadeFraction_linear e d, fadeFraction_scurve e d, fadeFraction_early e d, fadeFraction_late e d⟩,
    fun curve d hd => ⟨fadeFraction_start curve d, fadeFraction_end curve hd, fun e e' hle hend =>
      ⟨fadeFraction_le_fadeFraction curve hd hle hend, fadeFraction_le curve hd hend⟩⟩,
    fun s before after r k target curve h => ?durationZero⟩
  case durationZero =>
    rw [startWaiting_of_duration_zero before after s h]
    refine ⟨by simp, fun x hx => ?_⟩
    rw [setLevelAtOnce_pool] at hx
    exact (mem_takeOver.mp hx).2

end Sys2Proof.Machine
end

section
/-!
PROOFS. What each operation leaves unchanged, as views: a view blanks the parts a family of operations may write, and
an operation of the family keeps it. A part the view does not blank is unchanged by congruence.
-/

namespace Sys2Proof.Machine

/-! ## The views -/

/-- The state with the event queue blanked: all that a post may write (R176, R178). -/
def sansEvents (s : State) : State :=
  { s with lp := { s.lp with queue := [], gapPending := false, stale := .off, attn := false } }

/-- The state with the event queue and all that the cue sequencer writes blanked (chapter 3). -/
def sansCues (s : State) : State :=
  { sansEvents s with
    cq := CueSequencer.afterReset
    fe := { s.fe with commits := [] }
    sc := { s.sc with candidate := none } }

/-- The state with the event queue, the local stop machines, the effective stop and the STATE request blanked: all
that a turn of a stop machine writes (R160 to R164). -/
def sansMachines (s : State) : State :=
  { sansEvents s with
    sp := { s.sp with machineA := StopMachine.afterReset, machineB := StopMachine.afterReset, effective := .none }
    sc := { s.sc with stateRequest := false } }

/-- The state with all that the owners of frames write at the end of a frame blanked (R134): the cue sequencer, the
stop controller with the peers' flags, the pacing of the masters, the STATE request, and the frames in flight. -/
def sansOwners (s : State) : State :=
  { sansEvents s with
    bc := { s.bc with stopFlight := none, cueFlight := none, groupFlight := none, stateFlight := none }
    cq := CueSequencer.afterReset
    fe := { s.fe with commits := [] }
    sc := { s.sc with candidate := none, stateRequest := false, peers := Vector.replicate 31 PeerEntry.afterReset }
    mr := { s.mr with masters := Vector.replicate 16 Master.afterReset, lastGroup := none }
    sp := { s.sp with
      machineA := StopMachine.afterReset, machineB := StopMachine.afterReset, effective := .none, orphan := none } }

theorem sansOwners_of_sansCues {s t : State} (h : sansCues t = sansCues s) : sansOwners t = sansOwners s :=
  show sansOwners (sansCues t) = sansOwners (sansCues s) from congrArg sansOwners h

theorem sansOwners_of_sansMachines {s t : State} (h : sansMachines t = sansMachines s) :
    sansOwners t = sansOwners s :=
  show sansOwners (sansMachines t) = sansOwners (sansMachines s) from congrArg sansOwners h

/-- A fold keeps a view that every turn keeps. -/
theorem view_foldl {ι β : Type} {f : State → ι → State} {view : State → β} (hf : ∀ s i, view (f s i) = view s)
    (l : List ι) (s : State) : view (l.foldl f s) = view s :=
  foldl_frame view hf l s

variable (s : State)

/-! ## Posts -/

@[simp] theorem sansEvents_post (k : EventKind) (a b : Nat) : sansEvents (post k a b s) = sansEvents s := rfl

@[simp] theorem sansCues_post (k : EventKind) (a b : Nat) : sansCues (post k a b s) = sansCues s := rfl

@[simp] theorem sansMachines_post (k : EventKind) (a b : Nat) : sansMachines (post k a b s) = sansMachines s := rfl

@[simp] theorem sansOwners_post (k : EventKind) (a b : Nat) : sansOwners (post k a b s) = sansOwners s := rfl

/-! ## answer -/

@[simp] theorem answer_period (r : PortResult) (d : List Byte) : (answer r d s).period = s.period := rfl
@[simp] theorem answer_bc (r : PortResult) (d : List Byte) : (answer r d s).bc = s.bc := rfl
@[simp] theorem answer_sc (r : PortResult) (d : List Byte) : (answer r d s).sc = s.sc := rfl
@[simp] theorem answer_cq (r : PortResult) (d : List Byte) : (answer r d s).cq = s.cq := rfl
@[simp] theorem answer_fe (r : PortResult) (d : List Byte) : (answer r d s).fe = s.fe := rfl
@[simp] theorem answer_mr (r : PortResult) (d : List Byte) : (answer r d s).mr = s.mr := rfl
@[simp] theorem answer_st (r : PortResult) (d : List Byte) : (answer r d s).st = s.st := rfl
@[simp] theorem answer_sp (r : PortResult) (d : List Byte) : (answer r d s).sp = s.sp := rfl
@[simp] theorem answer_sm (r : PortResult) (d : List Byte) : (answer r d s).sm = s.sm := rfl
@[simp] theorem answer_pending (r : PortResult) (d : List Byte) : (answer r d s).pending = s.pending := rfl
@[simp] theorem answer_offset (r : PortResult) (d : List Byte) : (answer r d s).lp.offset = s.lp.offset := rfl
@[simp] theorem answer_overflowed (r : PortResult) (d : List Byte) : (answer r d s).lp.overflowed = s.lp.overflowed := rfl
@[simp] theorem answer_lastFault (r : PortResult) (d : List Byte) : (answer r d s).lp.lastFault = s.lp.lastFault := rfl
@[simp] theorem answer_queue (r : PortResult) (d : List Byte) : (answer r d s).lp.queue = s.lp.queue := rfl
@[simp] theorem answer_gapPending (r : PortResult) (d : List Byte) : (answer r d s).lp.gapPending = s.lp.gapPending := rfl
@[simp] theorem answer_stale (r : PortResult) (d : List Byte) : (answer r d s).lp.stale = s.lp.stale := rfl
@[simp] theorem answer_attn (r : PortResult) (d : List Byte) : (answer r d s).lp.attn = s.lp.attn := rfl

/-! ## answerOnly -/

@[simp] theorem answerOnly_period (r : PortResult) : (answerOnly r s).period = s.period := rfl
@[simp] theorem answerOnly_bc (r : PortResult) : (answerOnly r s).bc = s.bc := rfl
@[simp] theorem answerOnly_sc (r : PortResult) : (answerOnly r s).sc = s.sc := rfl
@[simp] theorem answerOnly_cq (r : PortResult) : (answerOnly r s).cq = s.cq := rfl
@[simp] theorem answerOnly_fe (r : PortResult) : (answerOnly r s).fe = s.fe := rfl
@[simp] theorem answerOnly_mr (r : PortResult) : (answerOnly r s).mr = s.mr := rfl
@[simp] theorem answerOnly_st (r : PortResult) : (answerOnly r s).st = s.st := rfl
@[simp] theorem answerOnly_sp (r : PortResult) : (answerOnly r s).sp = s.sp := rfl
@[simp] theorem answerOnly_sm (r : PortResult) : (answerOnly r s).sm = s.sm := rfl
@[simp] theorem answerOnly_pending (r : PortResult) : (answerOnly r s).pending = s.pending := rfl
@[simp] theorem answerOnly_offset (r : PortResult) : (answerOnly r s).lp.offset = s.lp.offset := rfl
@[simp] theorem answerOnly_overflowed (r : PortResult) : (answerOnly r s).lp.overflowed = s.lp.overflowed := rfl
@[simp] theorem answerOnly_lastFault (r : PortResult) : (answerOnly r s).lp.lastFault = s.lp.lastFault := rfl
@[simp] theorem answerOnly_queue (r : PortResult) : (answerOnly r s).lp.queue = s.lp.queue := rfl
@[simp] theorem answerOnly_gapPending (r : PortResult) : (answerOnly r s).lp.gapPending = s.lp.gapPending := rfl
@[simp] theorem answerOnly_stale (r : PortResult) : (answerOnly r s).lp.stale = s.lp.stale := rfl
@[simp] theorem answerOnly_attn (r : PortResult) : (answerOnly r s).lp.attn = s.lp.attn := rfl

/-! ## The stop machines -/

@[simp] theorem sansMachines_setMachine (k : StopKind) (m : StopMachine) :
    sansMachines (setMachine s k m) = sansMachines s := by cases k <;> rfl

@[simp] theorem sansMachines_setEffective (e : EffectiveStop) : sansMachines (setEffective s e) = sansMachines s := rfl

@[simp] theorem sansMachines_requestState : sansMachines (requestState s) = sansMachines s := by
  unfold requestState; split <;> rfl

@[simp] theorem sansMachines_raiseStop : sansMachines (raiseStop s) = sansMachines s := by
  unfold raiseStop; split <;> rfl

@[simp] theorem sansMachines_lowerStop : sansMachines (lowerStop s) = sansMachines s := by
  unfold lowerStop; split <;> rfl

@[simp] theorem sansMachines_enterClear (k : StopKind) : sansMachines (enterClear k s) = sansMachines s := by
  simp [enterClear]

@[simp] theorem sansMachines_testRelease (k : StopKind) : sansMachines (testRelease k s) = sansMachines s := by
  unfold testRelease
  repeat' split
  all_goals simp

@[simp] theorem sansMachines_enterHeld (k : StopKind) : sansMachines (enterHeld k s) = sansMachines s := by
  simp [enterHeld]

@[simp] theorem sansMachines_assertFromClear (k : StopKind) :
    sansMachines (assertFromClear k s) = sansMachines s := by
  unfold assertFromClear; split <;> simp

@[simp] theorem sansMachines_acknowledge (k : StopKind) : sansMachines (acknowledge k s) = sansMachines s := by
  simp [acknowledge]

/-! ## The cue sequencer -/

@[simp] theorem sansCues_requestFire (c : CueNumber) (o : OriginKind) :
    sansCues (requestFire c o s) = sansCues s := by
  unfold requestFire
  rcases offerRequest_cases s .fire c o with ⟨h, -⟩ | ⟨h, -⟩ | ⟨h, -⟩ <;> rw [h] <;> rfl

@[simp] theorem sansCues_withdraw (k : CueKind) (c : CueNumber) : sansCues (withdraw k c s) = sansCues s := rfl

@[simp] theorem sansCues_handOff (c : CueNumber) (ms : List Move) : sansCues (handOff c ms s) = sansCues s := rfl

@[simp] theorem sansCues_beginExpansion (c : CueNumber) : sansCues (beginExpansion c s) = sansCues s := rfl

@[simp] theorem sansCues_startPrefetch (c : CueNumber) : sansCues (startPrefetch c s) = sansCues s := rfl

@[simp] theorem sansCues_serveExpander (n : Nat) : sansCues (serveExpander n s) = sansCues s := by
  induction n generalizing s with
  | zero => rfl
  | succ n ih =>
    unfold serveExpander
    repeat' split
    all_goals simp [ih]

@[simp] theorem sansCues_runExpander : sansCues (runExpander s) = sansCues s := sansCues_serveExpander s _

@[simp] theorem sansCues_bufferOnFire (c : CueNumber) : sansCues (bufferOnFire c s) = sansCues s := by
  unfold bufferOnFire
  repeat' split
  all_goals rfl

@[simp] theorem sansCues_discardPrefetch : sansCues (discardPrefetch s) = sansCues s := by
  unfold discardPrefetch
  split <;> rfl

@[simp] theorem sansCues_setCq (cq : CueSequencer) : sansCues { s with cq := cq } = sansCues s := rfl

@[simp] theorem sansCues_expireAtOnce : sansCues (expireAtOnce s) = sansCues s := by
  unfold expireAtOnce
  repeat' split
  all_goals simp

@[simp] theorem sansCues_acceptFire (c : CueNumber) (n : Nat) (o : OriginKind) :
    sansCues (acceptFire c n o s) = sansCues s := by
  simp [acceptFire]

@[simp] theorem sansCues_takeFire (c : CueNumber) (n : Nat) (o : OriginKind) :
    sansCues (takeFire c n o s) = sansCues s := by
  unfold takeFire
  repeat' split
  all_goals simp

@[simp] theorem sansCues_takeStandby (c : CueNumber) : sansCues (takeStandby c s) = sansCues s := by
  simp [takeStandby]

@[simp] theorem sansCues_takeCue (k : CueKind) (c : CueNumber) (n : Nat) (o : OriginKind) :
    sansCues (takeCue k c n o s) = sansCues s := by
  unfold takeCue
  split <;> first | rfl | simp

@[simp] theorem sansCues_expireFollow (c : CueNumber) : sansCues (expireFollow c s) = sansCues s := by
  unfold expireFollow
  dsimp only
  split <;> simp

@[simp] theorem sansCues_cueFrameEnd (k : CueKind) (o : OriginKind) (c : CueNumber) :
    sansCues (cueFrameEnd k o c s) = sansCues s := by
  simp [cueFrameEnd]

/-! ## The owners of frames -/

@[simp] theorem sansOwners_setFlight (c : FrameClass) (f : Option Flight) :
    sansOwners (setFlight s c f) = sansOwners s := by cases c <;> rfl

@[simp] theorem sansOwners_setPeer (p : Peer) (e : PeerEntry) : sansOwners (setPeer s p e) = sansOwners s := rfl

@[simp] theorem sansOwners_setMaster (ch : Channel) (m : Master) : sansOwners (setMaster s ch m) = sansOwners s := rfl

@[simp] theorem sansOwners_takeCue (k : CueKind) (c : CueNumber) (n : Nat) (o : OriginKind) :
    sansOwners (takeCue k c n o s) = sansOwners s :=
  sansOwners_of_sansCues (sansCues_takeCue s k c n o)

@[simp] theorem sansOwners_cueFrameEnd (k : CueKind) (o : OriginKind) (c : CueNumber) :
    sansOwners (cueFrameEnd k o c s) = sansOwners s :=
  sansOwners_of_sansCues (sansCues_cueFrameEnd s k o c)

@[simp] theorem sansOwners_clearOrphanFlag (k : StopKind) (p : Peer) :
    sansOwners (clearOrphanFlag k p s) = sansOwners s := by
  unfold clearOrphanFlag; split <;> rfl

@[simp] theorem sansOwners_stopFrameEnd (release : Bool) (k : StopKind) (target : Station) :
    sansOwners (stopFrameEnd release k target s) = sansOwners s := by
  unfold stopFrameEnd
  split
  · split
    · exact sansOwners_of_sansMachines (sansMachines_enterHeld s k)
    · refine sansOwners_of_sansMachines ?_
      dsimp only
      split <;> simp
    · rfl
  · split
    · exact sansOwners_clearOrphanFlag _ _ _
    · rfl

@[simp] theorem sansOwners_masterFrameEnd (ch : Channel) (sent : Option (Position × Bool)) :
    sansOwners (masterFrameEnd ch sent s) = sansOwners s := rfl

@[simp] theorem sansOwners_groupFrameEnd (completed : Bool) (g : Group) (mute : Bool) (position : Position) :
    sansOwners (groupFrameEnd completed g mute position s) = sansOwners s := by
  unfold groupFrameEnd; split <;> rfl

@[simp] theorem sansOwners_frameEnd (completed : Bool) (p : Payload) :
    sansOwners (frameEnd completed p s) = sansOwners s := by
  cases p <;> simp [frameEnd]

theorem sansOwners_abandonOne {s t : State} {c : FrameClass} (h : abandonOne s c = some t) :
    sansOwners t = sansOwners s := by
  rcases abandonOne_cases h with ⟨f, -, rfl⟩ | ⟨p, -, rfl⟩ | ⟨r, -, rest, -, rfl⟩ | ⟨ch, -, rfl⟩ | rfl
  · simp
  · simp
  · exact sansOwners_takeCue _ _ _ _ _
  · simp
  · rfl

@[simp] theorem sansOwners_settle : sansOwners (settle s) = sansOwners s :=
  settle_keeps (P := fun t => sansOwners t = sansOwners s)
    (fun _ _ _ _ hone h => (sansOwners_abandonOne hone).trans h) rfl

end Sys2Proof.Machine
end

section
/-!
PROOFS. The parts that each shared operation leaves as they are, one lemma per part, read off its view.
-/

namespace Sys2Proof.Machine

variable (s : State)

/-! ## enterClear -/

@[simp] theorem enterClear_sm (k : StopKind) : (enterClear k s).sm = s.sm :=
  congrArg (·.sm) (sansMachines_enterClear s k)
@[simp] theorem enterClear_bc (k : StopKind) : (enterClear k s).bc = s.bc :=
  congrArg (·.bc) (sansMachines_enterClear s k)
@[simp] theorem enterClear_cq (k : StopKind) : (enterClear k s).cq = s.cq :=
  congrArg (·.cq) (sansMachines_enterClear s k)
@[simp] theorem enterClear_fe (k : StopKind) : (enterClear k s).fe = s.fe :=
  congrArg (·.fe) (sansMachines_enterClear s k)
@[simp] theorem enterClear_mr (k : StopKind) : (enterClear k s).mr = s.mr :=
  congrArg (·.mr) (sansMachines_enterClear s k)
@[simp] theorem enterClear_peers (k : StopKind) : (enterClear k s).sc.peers = s.sc.peers :=
  congrArg (·.sc.peers) (sansMachines_enterClear s k)

/-! ## testRelease -/

@[simp] theorem testRelease_cq (k : StopKind) : (testRelease k s).cq = s.cq :=
  congrArg (·.cq) (sansMachines_testRelease s k)
@[simp] theorem testRelease_fe (k : StopKind) : (testRelease k s).fe = s.fe :=
  congrArg (·.fe) (sansMachines_testRelease s k)

/-! ## enterHeld -/

@[simp] theorem enterHeld_sm (k : StopKind) : (enterHeld k s).sm = s.sm :=
  congrArg (·.sm) (sansMachines_enterHeld s k)
@[simp] theorem enterHeld_pending (k : StopKind) : (enterHeld k s).pending = s.pending :=
  congrArg (·.pending) (sansMachines_enterHeld s k)
@[simp] theorem enterHeld_offset (k : StopKind) : (enterHeld k s).lp.offset = s.lp.offset :=
  congrArg (·.lp.offset) (sansMachines_enterHeld s k)
@[simp] theorem enterHeld_bc (k : StopKind) : (enterHeld k s).bc = s.bc :=
  congrArg (·.bc) (sansMachines_enterHeld s k)
@[simp] theorem enterHeld_cq (k : StopKind) : (enterHeld k s).cq = s.cq :=
  congrArg (·.cq) (sansMachines_enterHeld s k)
@[simp] theorem enterHeld_fe (k : StopKind) : (enterHeld k s).fe = s.fe :=
  congrArg (·.fe) (sansMachines_enterHeld s k)
@[simp] theorem enterHeld_mr (k : StopKind) : (enterHeld k s).mr = s.mr :=
  congrArg (·.mr) (sansMachines_enterHeld s k)
@[simp] theorem enterHeld_number (k : StopKind) : (enterHeld k s).sc.number = s.sc.number :=
  congrArg (·.sc.number) (sansMachines_enterHeld s k)
@[simp] theorem enterHeld_txMuted (k : StopKind) : (enterHeld k s).sc.txMuted = s.sc.txMuted :=
  congrArg (·.sc.txMuted) (sansMachines_enterHeld s k)
@[simp] theorem enterHeld_state (k : StopKind) : (enterHeld k s).sc.state = s.sc.state :=
  congrArg (·.sc.state) (sansMachines_enterHeld s k)
@[simp] theorem enterHeld_peers (k : StopKind) : (enterHeld k s).sc.peers = s.sc.peers :=
  congrArg (·.sc.peers) (sansMachines_enterHeld s k)

/-! ## assertFromClear -/

@[simp] theorem assertFromClear_sm (k : StopKind) : (assertFromClear k s).sm = s.sm :=
  congrArg (·.sm) (sansMachines_assertFromClear s k)
@[simp] theorem assertFromClear_pending (k : StopKind) : (assertFromClear k s).pending = s.pending :=
  congrArg (·.pending) (sansMachines_assertFromClear s k)
@[simp] theorem assertFromClear_offset (k : StopKind) : (assertFromClear k s).lp.offset = s.lp.offset :=
  congrArg (·.lp.offset) (sansMachines_assertFromClear s k)
@[simp] theorem assertFromClear_bc (k : StopKind) : (assertFromClear k s).bc = s.bc :=
  congrArg (·.bc) (sansMachines_assertFromClear s k)
@[simp] theorem assertFromClear_cq (k : StopKind) : (assertFromClear k s).cq = s.cq :=
  congrArg (·.cq) (sansMachines_assertFromClear s k)
@[simp] theorem assertFromClear_fe (k : StopKind) : (assertFromClear k s).fe = s.fe :=
  congrArg (·.fe) (sansMachines_assertFromClear s k)
@[simp] theorem assertFromClear_mr (k : StopKind) : (assertFromClear k s).mr = s.mr :=
  congrArg (·.mr) (sansMachines_assertFromClear s k)
@[simp] theorem assertFromClear_number (k : StopKind) : (assertFromClear k s).sc.number = s.sc.number :=
  congrArg (·.sc.number) (sansMachines_assertFromClear s k)
@[simp] theorem assertFromClear_txMuted (k : StopKind) : (assertFromClear k s).sc.txMuted = s.sc.txMuted :=
  congrArg (·.sc.txMuted) (sansMachines_assertFromClear s k)
@[simp] theorem assertFromClear_state (k : StopKind) : (assertFromClear k s).sc.state = s.sc.state :=
  congrArg (·.sc.state) (sansMachines_assertFromClear s k)
@[simp] theorem assertFromClear_peers (k : StopKind) : (assertFromClear k s).sc.peers = s.sc.peers :=
  congrArg (·.sc.peers) (sansMachines_assertFromClear s k)

/-! ## acknowledge -/

@[simp] theorem acknowledge_sm (k : StopKind) : (acknowledge k s).sm = s.sm :=
  congrArg (·.sm) (sansMachines_acknowledge s k)
@[simp] theorem acknowledge_pending (k : StopKind) : (acknowledge k s).pending = s.pending :=
  congrArg (·.pending) (sansMachines_acknowledge s k)
@[simp] theorem acknowledge_offset (k : StopKind) : (acknowledge k s).lp.offset = s.lp.offset :=
  congrArg (·.lp.offset) (sansMachines_acknowledge s k)
@[simp] theorem acknowledge_cq (k : StopKind) : (acknowledge k s).cq = s.cq :=
  congrArg (·.cq) (sansMachines_acknowledge s k)
@[simp] theorem acknowledge_fe (k : StopKind) : (acknowledge k s).fe = s.fe :=
  congrArg (·.fe) (sansMachines_acknowledge s k)
@[simp] theorem acknowledge_number (k : StopKind) : (acknowledge k s).sc.number = s.sc.number :=
  congrArg (·.sc.number) (sansMachines_acknowledge s k)
@[simp] theorem acknowledge_txMuted (k : StopKind) : (acknowledge k s).sc.txMuted = s.sc.txMuted :=
  congrArg (·.sc.txMuted) (sansMachines_acknowledge s k)
@[simp] theorem acknowledge_state (k : StopKind) : (acknowledge k s).sc.state = s.sc.state :=
  congrArg (·.sc.state) (sansMachines_acknowledge s k)

/-! ## raiseStop -/

@[simp] theorem raiseStop_sm : (raiseStop s).sm = s.sm := congrArg (·.sm) (sansMachines_raiseStop s)
@[simp] theorem raiseStop_bc : (raiseStop s).bc = s.bc := congrArg (·.bc) (sansMachines_raiseStop s)
@[simp] theorem raiseStop_cq : (raiseStop s).cq = s.cq := congrArg (·.cq) (sansMachines_raiseStop s)
@[simp] theorem raiseStop_fe : (raiseStop s).fe = s.fe := congrArg (·.fe) (sansMachines_raiseStop s)
@[simp] theorem raiseStop_txMuted : (raiseStop s).sc.txMuted = s.sc.txMuted :=
  congrArg (·.sc.txMuted) (sansMachines_raiseStop s)
@[simp] theorem raiseStop_peers : (raiseStop s).sc.peers = s.sc.peers :=
  congrArg (·.sc.peers) (sansMachines_raiseStop s)

/-! ## lowerStop -/

@[simp] theorem lowerStop_cq : (lowerStop s).cq = s.cq := congrArg (·.cq) (sansMachines_lowerStop s)
@[simp] theorem lowerStop_fe : (lowerStop s).fe = s.fe := congrArg (·.fe) (sansMachines_lowerStop s)

/-! ## runExpander -/

@[simp] theorem runExpander_st : (runExpander s).st = s.st := congrArg (·.st) (sansCues_runExpander s)
@[simp] theorem runExpander_sm : (runExpander s).sm = s.sm := congrArg (·.sm) (sansCues_runExpander s)
@[simp] theorem runExpander_sp : (runExpander s).sp = s.sp := congrArg (·.sp) (sansCues_runExpander s)
@[simp] theorem runExpander_pool : (runExpander s).fe.pool = s.fe.pool :=
  congrArg (·.fe.pool) (sansCues_runExpander s)
@[simp] theorem runExpander_state : (runExpander s).sc.state = s.sc.state :=
  congrArg (·.sc.state) (sansCues_runExpander s)

/-! ## takeCue -/

@[simp] theorem takeCue_st (k : CueKind) (c : CueNumber) (n : Nat) (o : OriginKind) : (takeCue k c n o s).st = s.st :=
  congrArg (·.st) (sansCues_takeCue s k c n o)
@[simp] theorem takeCue_sm (k : CueKind) (c : CueNumber) (n : Nat) (o : OriginKind) : (takeCue k c n o s).sm = s.sm :=
  congrArg (·.sm) (sansCues_takeCue s k c n o)
@[simp] theorem takeCue_bc (k : CueKind) (c : CueNumber) (n : Nat) (o : OriginKind) : (takeCue k c n o s).bc = s.bc :=
  congrArg (·.bc) (sansCues_takeCue s k c n o)
@[simp] theorem takeCue_mr (k : CueKind) (c : CueNumber) (n : Nat) (o : OriginKind) : (takeCue k c n o s).mr = s.mr :=
  congrArg (·.mr) (sansCues_takeCue s k c n o)
@[simp] theorem takeCue_sp (k : CueKind) (c : CueNumber) (n : Nat) (o : OriginKind) : (takeCue k c n o s).sp = s.sp :=
  congrArg (·.sp) (sansCues_takeCue s k c n o)
@[simp] theorem takeCue_levels (k : CueKind) (c : CueNumber) (n : Nat) (o : OriginKind) :
    (takeCue k c n o s).fe.levels = s.fe.levels :=
  congrArg (·.fe.levels) (sansCues_takeCue s k c n o)
@[simp] theorem takeCue_txMuted (k : CueKind) (c : CueNumber) (n : Nat) (o : OriginKind) :
    (takeCue k c n o s).sc.txMuted = s.sc.txMuted :=
  congrArg (·.sc.txMuted) (sansCues_takeCue s k c n o)
@[simp] theorem takeCue_state (k : CueKind) (c : CueNumber) (n : Nat) (o : OriginKind) :
    (takeCue k c n o s).sc.state = s.sc.state :=
  congrArg (·.sc.state) (sansCues_takeCue s k c n o)
@[simp] theorem takeCue_peers (k : CueKind) (c : CueNumber) (n : Nat) (o : OriginKind) :
    (takeCue k c n o s).sc.peers = s.sc.peers :=
  congrArg (·.sc.peers) (sansCues_takeCue s k c n o)
@[simp] theorem takeCue_stateRequest (k : CueKind) (c : CueNumber) (n : Nat) (o : OriginKind) :
    (takeCue k c n o s).sc.stateRequest = s.sc.stateRequest :=
  congrArg (·.sc.stateRequest) (sansCues_takeCue s k c n o)

/-! ## expireFollow -/

@[simp] theorem expireFollow_st (c : CueNumber) : (expireFollow c s).st = s.st :=
  congrArg (·.st) (sansCues_expireFollow s c)
@[simp] theorem expireFollow_sp (c : CueNumber) : (expireFollow c s).sp = s.sp :=
  congrArg (·.sp) (sansCues_expireFollow s c)
@[simp] theorem expireFollow_pool (c : CueNumber) : (expireFollow c s).fe.pool = s.fe.pool :=
  congrArg (·.fe.pool) (sansCues_expireFollow s c)
@[simp] theorem expireFollow_state (c : CueNumber) : (expireFollow c s).sc.state = s.sc.state :=
  congrArg (·.sc.state) (sansCues_expireFollow s c)

/-! ## bufferOnFire -/

@[simp] theorem bufferOnFire_period (c : CueNumber) : (bufferOnFire c s).period = s.period :=
  congrArg (·.period) (sansCues_bufferOnFire s c)
@[simp] theorem bufferOnFire_st (c : CueNumber) : (bufferOnFire c s).st = s.st :=
  congrArg (·.st) (sansCues_bufferOnFire s c)
@[simp] theorem bufferOnFire_sm (c : CueNumber) : (bufferOnFire c s).sm = s.sm :=
  congrArg (·.sm) (sansCues_bufferOnFire s c)
@[simp] theorem bufferOnFire_pending (c : CueNumber) : (bufferOnFire c s).pending = s.pending :=
  congrArg (·.pending) (sansCues_bufferOnFire s c)
@[simp] theorem bufferOnFire_bc (c : CueNumber) : (bufferOnFire c s).bc = s.bc :=
  congrArg (·.bc) (sansCues_bufferOnFire s c)
@[simp] theorem bufferOnFire_mr (c : CueNumber) : (bufferOnFire c s).mr = s.mr :=
  congrArg (·.mr) (sansCues_bufferOnFire s c)
@[simp] theorem bufferOnFire_sp (c : CueNumber) : (bufferOnFire c s).sp = s.sp :=
  congrArg (·.sp) (sansCues_bufferOnFire s c)
@[simp] theorem bufferOnFire_state (c : CueNumber) : (bufferOnFire c s).sc.state = s.sc.state :=
  congrArg (·.sc.state) (sansCues_bufferOnFire s c)

/-! ## discardPrefetch -/

@[simp] theorem discardPrefetch_state : (discardPrefetch s).sc.state = s.sc.state :=
  congrArg (·.sc.state) (sansCues_discardPrefetch s)

/-! ## cueFrameEnd -/

@[simp] theorem cueFrameEnd_bc (k : CueKind) (o : OriginKind) (c : CueNumber) : (cueFrameEnd k o c s).bc = s.bc :=
  congrArg (·.bc) (sansCues_cueFrameEnd s k o c)
@[simp] theorem cueFrameEnd_mr (k : CueKind) (o : OriginKind) (c : CueNumber) : (cueFrameEnd k o c s).mr = s.mr :=
  congrArg (·.mr) (sansCues_cueFrameEnd s k o c)
@[simp] theorem cueFrameEnd_sp (k : CueKind) (o : OriginKind) (c : CueNumber) : (cueFrameEnd k o c s).sp = s.sp :=
  congrArg (·.sp) (sansCues_cueFrameEnd s k o c)
@[simp] theorem cueFrameEnd_peers (k : CueKind) (o : OriginKind) (c : CueNumber) :
    (cueFrameEnd k o c s).sc.peers = s.sc.peers :=
  congrArg (·.sc.peers) (sansCues_cueFrameEnd s k o c)

/-! ## stopFrameEnd -/

@[simp] theorem stopFrameEnd_state (release : Bool) (k : StopKind) (target : Station) :
    (stopFrameEnd release k target s).sc.state = s.sc.state :=
  congrArg (·.sc.state) (sansOwners_stopFrameEnd s release k target)

/-! ## groupFrameEnd -/

@[simp] theorem groupFrameEnd_state (completed : Bool) (g : Group) (mute : Bool) (position : Position) :
    (groupFrameEnd completed g mute position s).sc.state = s.sc.state :=
  congrArg (·.sc.state) (sansOwners_groupFrameEnd s completed g mute position)

/-! ## masterFrameEnd -/

@[simp] theorem masterFrameEnd_sm (ch : Channel) (sent : Option (Position × Bool)) :
    (masterFrameEnd ch sent s).sm = s.sm :=
  congrArg (·.sm) (sansOwners_masterFrameEnd s ch sent)

/-! ## clearOrphanFlag -/

@[simp] theorem clearOrphanFlag_sm (k : StopKind) (p : Peer) : (clearOrphanFlag k p s).sm = s.sm :=
  congrArg (·.sm) (sansOwners_clearOrphanFlag s k p)
@[simp] theorem clearOrphanFlag_pending (k : StopKind) (p : Peer) : (clearOrphanFlag k p s).pending = s.pending :=
  congrArg (·.pending) (sansOwners_clearOrphanFlag s k p)
@[simp] theorem clearOrphanFlag_number (k : StopKind) (p : Peer) : (clearOrphanFlag k p s).sc.number = s.sc.number :=
  congrArg (·.sc.number) (sansOwners_clearOrphanFlag s k p)
@[simp] theorem clearOrphanFlag_txMuted (k : StopKind) (p : Peer) :
    (clearOrphanFlag k p s).sc.txMuted = s.sc.txMuted :=
  congrArg (·.sc.txMuted) (sansOwners_clearOrphanFlag s k p)
@[simp] theorem clearOrphanFlag_state (k : StopKind) (p : Peer) : (clearOrphanFlag k p s).sc.state = s.sc.state :=
  congrArg (·.sc.state) (sansOwners_clearOrphanFlag s k p)

/-! ## frameEnd -/

@[simp] theorem frameEnd_st (completed : Bool) (p : Payload) : (frameEnd completed p s).st = s.st :=
  congrArg (·.st) (sansOwners_frameEnd s completed p)
@[simp] theorem frameEnd_sm (completed : Bool) (p : Payload) : (frameEnd completed p s).sm = s.sm :=
  congrArg (·.sm) (sansOwners_frameEnd s completed p)
@[simp] theorem frameEnd_levels (completed : Bool) (p : Payload) : (frameEnd completed p s).fe.levels = s.fe.levels :=
  congrArg (·.fe.levels) (sansOwners_frameEnd s completed p)
@[simp] theorem frameEnd_txMuted (completed : Bool) (p : Payload) :
    (frameEnd completed p s).sc.txMuted = s.sc.txMuted :=
  congrArg (·.sc.txMuted) (sansOwners_frameEnd s completed p)
@[simp] theorem frameEnd_state (completed : Bool) (p : Payload) : (frameEnd completed p s).sc.state = s.sc.state :=
  congrArg (·.sc.state) (sansOwners_frameEnd s completed p)

/-! ## settle -/

@[simp] theorem settle_period : (settle s).period = s.period := congrArg (·.period) (sansOwners_settle s)
@[simp] theorem settle_st : (settle s).st = s.st := congrArg (·.st) (sansOwners_settle s)
@[simp] theorem settle_sm : (settle s).sm = s.sm := congrArg (·.sm) (sansOwners_settle s)
@[simp] theorem settle_pending : (settle s).pending = s.pending := congrArg (·.pending) (sansOwners_settle s)
@[simp] theorem settle_port : (settle s).lp.port = s.lp.port := congrArg (·.lp.port) (sansOwners_settle s)
@[simp] theorem settle_offset : (settle s).lp.offset = s.lp.offset := congrArg (·.lp.offset) (sansOwners_settle s)
@[simp] theorem settle_levels : (settle s).fe.levels = s.fe.levels := congrArg (·.fe.levels) (sansOwners_settle s)
@[simp] theorem settle_pool : (settle s).fe.pool = s.fe.pool := congrArg (·.fe.pool) (sansOwners_settle s)
@[simp] theorem settle_number : (settle s).sc.number = s.sc.number := congrArg (·.sc.number) (sansOwners_settle s)
@[simp] theorem settle_state : (settle s).sc.state = s.sc.state := congrArg (·.sc.state) (sansOwners_settle s)
@[simp] theorem settle_sending : (settle s).bc.sending = s.bc.sending := congrArg (·.bc.sending) (sansOwners_settle s)
@[simp] theorem settle_copies : (settle s).bc.copies = s.bc.copies := congrArg (·.bc.copies) (sansOwners_settle s)

end Sys2Proof.Machine
end

section
/-!
PROOFS. The event queue keeps its size and ATTN its condition (R176, R178) through every operation that posts.
-/

namespace Sys2Proof.Machine

/-- The event queue holds at most 64 records, and ATTN stands at its condition under the settings of an image. -/
def EventsOk (lp : LoadPort) (image : Option ShowImage) : Prop :=
  lp.queue.length ≤ 64 ∧ lp.attn = (decide (image.elim 1 (·.header.eventThreshold) ≤ lp.queue.length)
    || (!lp.queue.isEmpty && lp.stale == .expired))

theorem attnCondition_eq (s : State) :
    attnCondition s = (decide (s.sm.image.elim 1 (·.header.eventThreshold) ≤ s.lp.queue.length)
      || (!s.lp.queue.isEmpty && s.lp.stale == .expired)) := by
  unfold attnCondition eventThreshold setting
  cases s.sm.image <;> rfl

theorem eventsOk_iff (s : State) : EventsOk s.lp s.sm.image ↔ s.lp.queue.length ≤ 64 ∧ AttnTrue s := by
  rw [EventsOk, AttnTrue, attnCondition_eq]

variable {s : State} {image : Option ShowImage}

/-! ## Posts -/

/-- ATTN evaluated afresh stands at its condition. -/
theorem evaluateAttn_events (hq : s.lp.queue.length ≤ 64) (hi : s.sm.image = image) :
    EventsOk (evaluateAttn s).lp image := by
  subst hi
  exact (eventsOk_iff (evaluateAttn s)).mpr ⟨hq, rfl⟩

@[simp] theorem post_events (k : EventKind) (a b : Nat) (h : EventsOk s.lp image) (hi : s.sm.image = image) :
    EventsOk (post k a b s).lp image := by
  refine evaluateAttn_events (?_ : (appendRecord s.lp.queue _).length ≤ 64) hi
  rw [length_appendRecord _ _ h.1]
  exact Nat.min_le_right _ _

/-! ## The stop machines -/

@[simp] theorem enterClear_events (k : StopKind) (h : EventsOk s.lp image) (hi : s.sm.image = image) :
    EventsOk (enterClear k s).lp image := by
  simp [enterClear, h, hi]

@[simp] theorem raiseStop_lp : (raiseStop s).lp = s.lp := by rw [raiseStop_eq]; rfl

@[simp] theorem testRelease_events (k : StopKind) (h : EventsOk s.lp image) (hi : s.sm.image = image) :
    EventsOk (testRelease k s).lp image := by
  unfold testRelease
  repeat' split
  all_goals simp [h, hi]

@[simp] theorem enterHeld_events (k : StopKind) (h : EventsOk s.lp image) (hi : s.sm.image = image) :
    EventsOk (enterHeld k s).lp image := by
  simp [enterHeld, h, hi]

@[simp] theorem assertFromClear_events (k : StopKind) (h : EventsOk s.lp image) (hi : s.sm.image = image) :
    EventsOk (assertFromClear k s).lp image := by
  unfold assertFromClear
  split <;> simp [h, hi]

@[simp] theorem acknowledge_events (k : StopKind) (h : EventsOk s.lp image) (hi : s.sm.image = image) :
    EventsOk (acknowledge k s).lp image := by
  simp [acknowledge, h, hi]

@[simp] theorem clearOrphanFlag_lp (k : StopKind) (p : Peer) : (clearOrphanFlag k p s).lp = s.lp := by
  unfold clearOrphanFlag; split <;> rfl

@[simp] theorem stopFrameEnd_events (release : Bool) (k : StopKind) (target : Station) (h : EventsOk s.lp image)
    (hi : s.sm.image = image) : EventsOk (stopFrameEnd release k target s).lp image := by
  unfold stopFrameEnd
  dsimp only
  repeat' split
  all_goals simp [h, hi]

/-! ## The cue sequencer -/

@[simp] theorem requestFire_events (c : CueNumber) (o : OriginKind) (h : EventsOk s.lp image)
    (hi : s.sm.image = image) : EventsOk (requestFire c o s).lp image := by
  unfold requestFire
  rcases offerRequest_cases s .fire c o with ⟨ho, -⟩ | ⟨ho, -⟩ | ⟨ho, -⟩ <;> rw [ho] <;> simp [h, hi]

@[simp] theorem serveExpander_lp (n : Nat) (s : State) : (serveExpander n s).lp = s.lp := by
  induction n generalizing s with
  | zero => rfl
  | succ n ih =>
    unfold serveExpander
    repeat' split
    all_goals first | rfl | exact ih _

@[simp] theorem runExpander_lp (s : State) : (runExpander s).lp = s.lp := serveExpander_lp _ s

@[simp] theorem bufferOnFire_lp (c : CueNumber) (s : State) : (bufferOnFire c s).lp = s.lp := by
  unfold bufferOnFire
  repeat' split
  all_goals rfl

@[simp] theorem discardPrefetch_lp (s : State) : (discardPrefetch s).lp = s.lp := by
  unfold discardPrefetch
  split <;> rfl

@[simp] theorem expireAtOnce_events (h : EventsOk s.lp image) (hi : s.sm.image = image) :
    EventsOk (expireAtOnce s).lp image := by
  unfold expireAtOnce
  repeat' split
  all_goals simp [h, hi]

@[simp] theorem acceptFire_events (c : CueNumber) (n : Nat) (o : OriginKind) (h : EventsOk s.lp image)
    (hi : s.sm.image = image) : EventsOk (acceptFire c n o s).lp image := by
  simp [acceptFire, h, hi]

@[simp] theorem takeFire_events (c : CueNumber) (n : Nat) (o : OriginKind) (h : EventsOk s.lp image)
    (hi : s.sm.image = image) : EventsOk (takeFire c n o s).lp image := by
  unfold takeFire
  repeat' split
  all_goals simp [h, hi]

@[simp] theorem takeStandby_lp (c : CueNumber) (s : State) : (takeStandby c s).lp = s.lp := by
  simp [takeStandby]

@[simp] theorem takeCue_events (k : CueKind) (c : CueNumber) (n : Nat) (o : OriginKind) (h : EventsOk s.lp image)
    (hi : s.sm.image = image) : EventsOk (takeCue k c n o s).lp image := by
  unfold takeCue
  split <;> simp [h, hi]

@[simp] theorem expireFollow_events (c : CueNumber) (h : EventsOk s.lp image) (hi : s.sm.image = image) :
    EventsOk (expireFollow c s).lp image := by
  unfold expireFollow
  dsimp only
  split <;> simp [h, hi]

@[simp] theorem cueFrameEnd_events (k : CueKind) (o : OriginKind) (c : CueNumber) (h : EventsOk s.lp image)
    (hi : s.sm.image = image) : EventsOk (cueFrameEnd k o c s).lp image := by
  simp [cueFrameEnd, h, hi]

/-! ## The owners of frames -/

@[simp] theorem masterFrameEnd_lp (ch : Channel) (sent : Option (Position × Bool)) (s : State) :
    (masterFrameEnd ch sent s).lp = s.lp := rfl

@[simp] theorem groupFrameEnd_lp (completed : Bool) (g : Group) (mute : Bool) (position : Position) (s : State) :
    (groupFrameEnd completed g mute position s).lp = s.lp := by
  unfold groupFrameEnd; split <;> rfl

@[simp] theorem frameEnd_events (completed : Bool) (p : Payload) (h : EventsOk s.lp image)
    (hi : s.sm.image = image) : EventsOk (frameEnd completed p s).lp image := by
  cases p <;> simp [frameEnd, h, hi]

theorem abandonOne_events {t : State} {c : FrameClass} (hone : abandonOne s c = some t)
    (h : EventsOk s.lp s.sm.image) : EventsOk t.lp t.sm.image := by
  rcases abandonOne_cases hone with ⟨f, -, rfl⟩ | ⟨p, -, rfl⟩ | ⟨r, -, rest, -, rfl⟩ | ⟨ch, -, rfl⟩ | rfl
  all_goals simp [h]

@[simp] theorem settle_events (h : EventsOk s.lp image) (hi : s.sm.image = image) :
    EventsOk (settle s).lp image := by
  subst hi
  have := settle_keeps (P := fun t => EventsOk t.lp t.sm.image)
    (fun _ _ _ _ hone hs => abandonOne_events hone hs) h
  rwa [settle_sm] at this

end Sys2Proof.Machine
end

section
/-!
PROOFS. What the commands leave unchanged: a view for the bus, one for the fade engine with the strips it moves, one for
the group table with the peers, and their families.
-/

namespace Sys2Proof.Machine

/-! ## The views -/

/-- The state with all that the bus controller and the owners of received and sent frames write blanked (07). -/
def sansBus (s : State) : State :=
  { sansEvents s with
    bc := BusController.afterReset false
    cq := CueSequencer.afterReset
    fe := { s.fe with commits := [] }
    sc := { s.sc with
      candidate := none, stateRequest := false, peers := Vector.replicate 31 PeerEntry.afterReset, txMuted := false }
    mr := { s.mr with
      groups := Vector.replicate 32 .unowned, masters := Vector.replicate 16 Master.afterReset, lastGroup := none }
    sp := { s.sp with
      machineA := StopMachine.afterReset, machineB := StopMachine.afterReset, effective := .none, orphan := none } }

/-- The state with the event queue, the fade engine, the strips and the mute flags blanked: all that a level point of
RUN, a conversion, a touch and the servo write (chapters 4 and 6). -/
def sansFades (s : State) : State :=
  { sansEvents s with
    fe := FadeEngine.afterReset
    st := { s.st with strips := Vector.replicate 16 (Strip.afterReset 0 false) }
    mr := { s.mr with mute := Vector.replicate 16 false } }

/-- The state with the event queue, the group table, the masters and the peer table blanked (05, 08). -/
def sansGroups (s : State) : State :=
  { sansEvents s with
    sc := { s.sc with peers := Vector.replicate 31 PeerEntry.afterReset }
    mr := { s.mr with groups := Vector.replicate 32 .unowned, masters := Vector.replicate 16 Master.afterReset } }

/-- The state with the event queue, the keys, the mute and solo flags, the STATE request and the requests blanked: all
that a key scan writes (6.3). -/
def sansKeys (s : State) : State :=
  { sansEvents s with
    st := { s.st with
      muteKeys := Vector.replicate 16 Key.afterReset, soloKeys := Vector.replicate 16 Key.afterReset
      goKey := Key.afterReset }
    mr := { s.mr with mute := Vector.replicate 16 false, solo := Vector.replicate 16 false }
    sc := { s.sc with stateRequest := false }
    cq := { s.cq with outgoing := [] } }

theorem sansBus_of_sansOwners {s t : State} (h : sansOwners t = sansOwners s) : sansBus t = sansBus s :=
  show sansBus (sansOwners t) = sansBus (sansOwners s) from congrArg sansBus h

theorem sansBus_of_sansMachines {s t : State} (h : sansMachines t = sansMachines s) : sansBus t = sansBus s :=
  sansBus_of_sansOwners (sansOwners_of_sansMachines h)

theorem sansBus_of_sansCues {s t : State} (h : sansCues t = sansCues s) : sansBus t = sansBus s :=
  sansBus_of_sansOwners (sansOwners_of_sansCues h)

theorem sansBus_of_sansGroups {s t : State} (h : sansGroups t = sansGroups s) : sansBus t = sansBus s :=
  show sansBus (sansGroups t) = sansBus (sansGroups s) from congrArg sansBus h

variable (s : State)

/-! ## The bus -/

@[simp] theorem sansBus_setBc (bc : BusController) : sansBus { s with bc := bc } = sansBus s := rfl

@[simp] theorem sansBus_post (k : EventKind) (a b : Nat) : sansBus (post k a b s) = sansBus s := rfl

@[simp] theorem sansBus_setPeer (p : Peer) (e : PeerEntry) : sansBus (setPeer s p e) = sansBus s := rfl

@[simp] theorem sansBus_setCopy (p : Peer) (c : FrameClass) (x : Option Payload) :
    sansBus (setCopy s p c x) = sansBus s := rfl

@[simp] theorem sansBus_setFlight (c : FrameClass) (f : Option Flight) : sansBus (setFlight s c f) = sansBus s :=
  sansBus_of_sansOwners (sansOwners_setFlight s c f)

@[simp] theorem sansBus_frameEnd (completed : Bool) (p : Payload) : sansBus (frameEnd completed p s) = sansBus s :=
  sansBus_of_sansOwners (sansOwners_frameEnd s completed p)

@[simp] theorem sansBus_settle : sansBus (settle s) = sansBus s := sansBus_of_sansOwners (sansOwners_settle s)

@[simp] theorem sansBus_raiseStop : sansBus (raiseStop s) = sansBus s :=
  sansBus_of_sansMachines (sansMachines_raiseStop s)

/-- A bid point changes the bus controller alone. -/
theorem bidPoint_frame : ∃ bc, bidPoint s = { s with bc := bc } := by
  unfold bidPoint bidOrWait
  repeat' split
  all_goals exact ⟨_, rfl⟩

theorem loseArbitration_frame : ∃ bc, loseArbitration s = { s with bc := bc } := by
  unfold loseArbitration
  repeat' split
  all_goals exact ⟨_, rfl⟩

theorem startBit_frame : ∃ bc, startBit s = { s with bc := bc } := by
  unfold startBit
  repeat' split
  all_goals exact ⟨_, rfl⟩

theorem emptyNamedCopy_frame (first second : BitVec 5) :
    ∃ bc, emptyNamedCopy first second s = { s with bc := bc } := by
  unfold emptyNamedCopy
  dsimp only
  split
  all_goals exact ⟨_, rfl⟩

theorem arbitrationByteRead_frame (first second : BitVec 5) :
    ∃ bc, arbitrationByteRead first second s = { s with bc := bc } := by
  unfold arbitrationByteRead
  obtain ⟨bc, hbc⟩ := emptyNamedCopy_frame s first second
  rw [hbc]
  dsimp only
  repeat' split
  all_goals exact ⟨_, rfl⟩

theorem busBreak_frame : ∃ bc, busBreak s = { s with bc := bc } := by
  unfold busBreak
  split
  all_goals exact ⟨_, rfl⟩

theorem busBreakEnd_frame : ∃ bc, busBreakEnd s = { s with bc := bc } := by
  unfold busBreakEnd
  repeat' split
  all_goals exact ⟨_, rfl⟩

/-- A win marks the head request SENT or clears the STATE request, and changes the bus controller. -/
theorem winArbitration_frame : ∃ bc outgoing request,
    winArbitration s = { s with
      bc := bc, cq := { s.cq with outgoing := outgoing }, sc := { s.sc with stateRequest := request } }
    ∧ (outgoing = s.cq.outgoing ∨ outgoing = markSent s.cq.outgoing)
    ∧ (request = s.sc.stateRequest ∨ request = false) := by
  have quiet : ∀ bc, { s with bc := bc } = { s with
      bc := bc, cq := { s.cq with outgoing := s.cq.outgoing }, sc := { s.sc with stateRequest := s.sc.stateRequest } } :=
    fun _ => rfl
  unfold winArbitration
  split
  case h_1 f _ =>
    split
    · exact ⟨_, _, _, quiet _, .inl rfl, .inl rfl⟩
    · dsimp only
      split
      · exact ⟨_, _, _, quiet _, .inl rfl, .inl rfl⟩
      · cases hp : f.payload with
        | stop r k t => exact ⟨_, _, _, quiet _, .inl rfl, .inl rfl⟩
        | cue k o c => exact ⟨_, _, s.sc.stateRequest, rfl, .inr rfl, .inl rfl⟩
        | group g m p => exact ⟨_, _, _, quiet _, .inl rfl, .inl rfl⟩
        | state x a b l => exact ⟨_, s.cq.outgoing, _, rfl, .inl rfl, .inr rfl⟩
  case h_2 => exact ⟨_, _, _, quiet _, .inl rfl, .inl rfl⟩

@[simp] theorem sansBus_winArbitration : sansBus (winArbitration s) = sansBus s := by
  obtain ⟨bc, o, r, h, -⟩ := winArbitration_frame s
  rw [h]
  rfl

@[simp] theorem sansBus_frameComplete : sansBus (frameComplete s) = sansBus s := by
  unfold frameComplete
  split <;> simp

@[simp] theorem sansBus_attemptFailed (place : FailurePlace) : sansBus (attemptFailed place s) = sansBus s := by
  unfold attemptFailed
  dsimp only
  repeat' split
  all_goals simp

@[simp] theorem sansBus_presenceNotice (p : Peer) : sansBus (presenceNotice p s) = sansBus s := by
  unfold presenceNotice
  dsimp only
  repeat' split
  all_goals simp

@[simp] theorem sansBus_duplicateNotice (c : FrameClass) : sansBus (duplicateNotice c s) = sansBus s := by
  unfold duplicateNotice
  split
  · rfl
  · simp only [sansBus_settle]
    rfl

@[simp] theorem sansBus_applyStop (release : Bool) (k : StopKind) (target : Station) (p : Peer) :
    sansBus (applyStop release k target p s) = sansBus s := by
  unfold applyStop
  repeat' split
  all_goals simp

@[simp] theorem sansBus_applyState (solo a b : Bool) (last : Option CueNumber) (p : Peer) :
    sansBus (applyState solo a b last p s) = sansBus s := by
  unfold applyState
  dsimp only
  repeat' split
  all_goals simp
  rfl

@[simp] theorem sansBus_applyGroup (g : Group) (mute : Bool) (position : Position) (p : Peer) :
    sansBus (applyGroup g mute position p s) = sansBus s := by
  unfold applyGroup
  repeat' split
  all_goals rfl

@[simp] theorem sansBus_handFrame (payload : Payload) (p : Peer) : sansBus (handFrame payload p s) = sansBus s := by
  cases payload with
  | stop => simp [handFrame]
  | cue k o c =>
    exact (sansBus_of_sansCues (sansCues_takeCue _ k c _ o)).trans (sansBus_of_sansCues (sansCues_withdraw s k c))
  | group => simp [handFrame]
  | state => simp [handFrame]

/-- The state after the notices of a valid frame: presence, then the duplicate notice for the own number (R149,
R155). -/
def noticed (p : Peer) (c : FrameClass) (s : State) : State :=
  if isOwn (presenceNotice p s) p then duplicateNotice c (presenceNotice p s) else presenceNotice p s

/-- After the notices a copy is discarded and a new frame recorded and handed on (R129, R130). -/
theorem takeFrame_eq (p : Peer) (repeated : Bool) (payload : Payload) :
    takeFrame p repeated payload s =
      if repeated && (noticed p (payloadClass payload) s).bc.copies[p].get (payloadClass payload) == some payload
      then noticed p (payloadClass payload) s
      else handFrame payload p
        (setCopy (noticed p (payloadClass payload) s) p (payloadClass payload) (some payload)) := rfl

@[simp] theorem sansBus_noticed (p : Peer) (c : FrameClass) : sansBus (noticed p c s) = sansBus s := by
  unfold noticed
  split <;> simp

@[simp] theorem sansBus_takeFrame (p : Peer) (repeated : Bool) (payload : Payload) :
    sansBus (takeFrame p repeated payload s) = sansBus s := by
  rw [takeFrame_eq]
  split <;> simp

@[simp] theorem sansBus_frameReceived (groups : List (BitVec 5)) : sansBus (frameReceived groups s) = sansBus s := by
  cases h : readsFrame s with
  | false => rw [frameReceived_of_not_reads s groups h]
  | true =>
    rcases frameReceived_cases s groups h with ⟨fault, -, ht⟩ | ⟨p, repeated, payload, -, ht⟩ <;> rw [ht]
    · rfl
    · rw [sansBus_takeFrame]
      rfl

@[simp] theorem sansBus_busFault : sansBus (busFault s) = sansBus s := by
  unfold busFault
  split <;> rfl

@[simp] theorem sansBus_busRestored : sansBus (busRestored s) = sansBus s := by
  unfold busRestored
  split <;> rfl

/-! ## The fade engine and the strips -/

@[simp] theorem sansFades_post (k : EventKind) (a b : Nat) : sansFades (post k a b s) = sansFades s := rfl

@[simp] theorem sansFades_setStrip (ch : Channel) (x : Strip) : sansFades (setStrip s ch x) = sansFades s := rfl

@[simp] theorem sansFades_setPool (pool : List PoolRecord) : sansFades (setPool s pool) = sansFades s := rfl

@[simp] theorem sansFades_setLevel (ch : Channel) (p : Position) : sansFades (setLevel s ch p) = sansFades s := rfl

@[simp] theorem sansFades_setMute (ch : Channel) (on : Bool) : sansFades (setMute s ch on) = sansFades s := rfl

@[simp] theorem sansFades_levelStartNotice (ch : Channel) : sansFades (levelStartNotice ch s) = sansFades s := by
  unfold levelStartNotice
  dsimp only
  repeat' split
  all_goals rfl

@[simp] theorem sansFades_setLevelAtOnce (ch : Channel) (target : Position) :
    sansFades (setLevelAtOnce ch target s) = sansFades s := by
  simp [setLevelAtOnce]

@[simp] theorem sansFades_startWaiting (before : List PoolRecord) (r : PoolRecord) (after : List PoolRecord) :
    sansFades (startWaiting before r after s) = sansFades s := by
  unfold startWaiting
  dsimp only
  repeat' split
  all_goals simp

@[simp] theorem sansFades_advance : sansFades (advance s) = sansFades s := rfl

@[simp] theorem sansFades_startDue (n : Nat) : sansFades (startDue n s) = sansFades s := by
  induction n generalizing s with
  | zero => rfl
  | succ n ih =>
    unfold startDue
    split
    · rw [ih, sansFades_startWaiting]
    · rfl

@[simp] theorem sansFades_countDown : sansFades (countDown s) = sansFades s := by
  simp [countDown]

@[simp] theorem sansFades_snap (origin : CueNumber) (m : Move) : sansFades (snap origin m s) = sansFades s := by
  unfold snap
  dsimp only
  split <;> simp

@[simp] theorem sansFades_startMove (origin : CueNumber) (m : Move) : sansFades (startMove origin m s) = sansFades s := by
  unfold startMove
  dsimp only
  repeat' split
  all_goals simp

@[simp] theorem sansFades_commitMove (origin : CueNumber) (m : Move) :
    sansFades (commitMove origin s m) = sansFades s := by
  unfold commitMove
  repeat' split
  all_goals simp

@[simp] theorem sansFades_commitCue (e : ExpandedCue) : sansFades (commitCue s e) = sansFades s :=
  view_foldl (fun t m => sansFades_commitMove t e.cue m) e.moves s

@[simp] theorem sansFades_commit : sansFades (commit s) = sansFades s :=
  view_foldl sansFades_commitCue s.fe.commits _

@[simp] theorem sansFades_fadeSteps : sansFades (fadeSteps s) = sansFades s := by
  simp [fadeSteps]

@[simp] theorem sansFades_delayCountExpiry (slot : Fin 64) : sansFades (delayCountExpiry slot s) = sansFades s := by
  unfold delayCountExpiry
  repeat' split
  all_goals simp

@[simp] theorem sansFades_fadeComplete (slot : Fin 64) : sansFades (fadeComplete slot s) = sansFades s := by
  unfold fadeComplete
  repeat' split
  all_goals simp

@[simp] theorem sansFades_conversion (ch : Channel) (m : Position) : sansFades (conversion ch m s) = sansFades s := by
  unfold conversion
  repeat' split
  all_goals simp

@[simp] theorem sansFades_touchedAct (ch : Channel) : sansFades (touchedAct ch s) = sansFades s := by
  unfold touchedAct touchNotice
  dsimp only
  repeat' split
  all_goals simp

@[simp] theorem sansFades_freeAct (ch : Channel) : sansFades (freeAct ch s) = sansFades s := by
  unfold freeAct releaseNotice
  dsimp only
  repeat' split
  all_goals simp

@[simp] theorem sansFades_setTouch (ch : Channel) (t : Touch) : sansFades (setTouch s ch t) = sansFades s := rfl

@[simp] theorem sansFades_setTouchInput (ch : Channel) (on : Bool) :
    sansFades (setTouchInput s ch on) = sansFades s := rfl

@[simp] theorem sansFades_touchAsserted (ch : Channel) : sansFades (touchAsserted ch s) = sansFades s := by
  unfold touchAsserted
  dsimp only
  repeat' split
  all_goals simp

@[simp] theorem sansFades_touchAbsent (ch : Channel) : sansFades (touchAbsent ch s) = sansFades s := by
  unfold touchAbsent
  dsimp only
  repeat' split
  all_goals simp

@[simp] theorem sansFades_touchedArrival (ch : Channel) : sansFades (touchedArrival ch s) = sansFades s := by
  unfold touchedArrival
  repeat' split
  all_goals simp

@[simp] theorem sansFades_freeArrival (ch : Channel) : sansFades (freeArrival ch s) = sansFades s := by
  unfold freeArrival
  repeat' split
  all_goals simp

@[simp] theorem sansFades_countStall (ch : Channel) (x : Strip) : sansFades (countStall ch x s) = sansFades s := by
  unfold countStall
  repeat' split
  all_goals simp

@[simp] theorem sansFades_servoAct (h : Header) (ch : Channel) (motor : Motor) :
    sansFades (servoAct h ch motor s) = sansFades s :=
  sansFades_countStall s ch _

@[simp] theorem sansFades_restEnd (ch : Channel) : sansFades (restEnd ch s) = sansFades s := by
  unfold restEnd
  repeat' split
  all_goals simp

@[simp] theorem sansFades_motorStall (ch : Channel) : sansFades (motorStall ch s) = sansFades s := by
  unfold motorStall
  dsimp only
  split <;> simp

@[simp] theorem sansFades_servo : sansFades (servo s) = sansFades s := by
  rw [servo_frame]
  rfl

/-! ## The keys -/

@[simp] theorem sansKeys_post (k : EventKind) (a b : Nat) : sansKeys (post k a b s) = sansKeys s := rfl

@[simp] theorem sansKeys_requestFire (c : CueNumber) (o : OriginKind) :
    sansKeys (requestFire c o s) = sansKeys s := by
  unfold requestFire
  rcases offerRequest_cases s .fire c o with ⟨h, -⟩ | ⟨h, -⟩ | ⟨h, -⟩ <;> rw [h] <;> rfl

@[simp] theorem sansKeys_muteKeyPress (ch : Channel) : sansKeys (muteKeyPress ch s) = sansKeys s := by
  unfold muteKeyPress
  split <;> rfl

@[simp] theorem sansKeys_requestState : sansKeys (requestState s) = sansKeys s := by
  unfold requestState
  split <;> rfl

@[simp] theorem sansKeys_soloKeyPress (ch : Channel) : sansKeys (soloKeyPress ch s) = sansKeys s := by
  unfold soloKeyPress
  dsimp only
  repeat' split
  · rfl
  · rw [sansKeys_requestState]
    rfl
  · rfl

@[simp] theorem sansKeys_goKeyPress : sansKeys (goKeyPress s) = sansKeys s := by
  unfold goKeyPress
  repeat' split
  all_goals simp

@[simp] theorem sansKeys_keyScan (mute solo : BitVec 16) (go : Bool) :
    sansKeys (keyScan mute solo go s) = sansKeys s := by
  unfold keyScan
  dsimp only
  repeat' split
  · rw [sansKeys_goKeyPress, view_foldl (fun t ch => sansKeys_soloKeyPress t ch),
      view_foldl (fun t ch => sansKeys_muteKeyPress t ch)]
    rfl
  · rw [view_foldl (fun t ch => sansKeys_soloKeyPress t ch), view_foldl (fun t ch => sansKeys_muteKeyPress t ch)]
    rfl
  · rfl

/-! ## Groups and peers -/

@[simp] theorem sansGroups_post (k : EventKind) (a b : Nat) : sansGroups (post k a b s) = sansGroups s := rfl

@[simp] theorem sansGroups_makeStale (g : Group) : sansGroups (makeStale g s) = sansGroups s := by
  unfold makeStale
  repeat' split
  all_goals rfl

@[simp] theorem sansGroups_promote (ch : Channel) : sansGroups (promote ch s) = sansGroups s := by
  unfold promote
  split <;> rfl

@[simp] theorem sansGroups_groupOwnerLost (p : Peer) (g : Group) :
    sansGroups (groupOwnerLost p s g) = sansGroups s := by
  unfold groupOwnerLost
  repeat' split
  all_goals simp

@[simp] theorem sansGroups_groupAgeLimit (g : Group) : sansGroups (groupAgeLimit g s) = sansGroups s := by
  unfold groupAgeLimit
  repeat' split
  · rfl
  · rw [sansGroups_makeStale]
    rfl
  · rfl

@[simp] theorem sansGroups_groupSendDue (ch : Channel) : sansGroups (groupSendDue ch s) = sansGroups s := by
  unfold groupSendDue
  dsimp only
  split <;> rfl

@[simp] theorem sansGroups_setPeer (p : Peer) (e : PeerEntry) : sansGroups (setPeer s p e) = sansGroups s := rfl

@[simp] theorem sansGroups_peerLost (p : Peer) : sansGroups (peerLost p s) = sansGroups s := by
  unfold peerLost
  dsimp only
  split
  · rw [view_foldl (fun t g => sansGroups_groupOwnerLost t p g)]
    split <;> rfl
  · rfl

/-! ## The end of validation -/

/-- The state with a validated image in force, its masters afresh and its stale timer loaded (R29, R102, R178). -/
def imageLoaded (image : ShowImage) (s : State) : State :=
  { s with
    sm := { s.sm with image := some image }
    mr := { s.mr with masters := Vector.replicate 16 Master.afterReset }
    lp := { s.lp with
      stale := loadedStale { s with
        sm := { s.sm with image := some image }
        mr := { s.mr with masters := Vector.replicate 16 Master.afterReset } } } }

/-- The state in LISTEN with the image in force, before the stop lines are taken. -/
def imageTaken (image : ShowImage) (s : State) : State := enterListen (evaluateAttn (imageLoaded image s))

theorem validationSucceeds_eq (image : ShowImage) :
    validationSucceeds image s = takeHeldLine .b (takeHeldLine .a (imageTaken image s)) := rfl

/-! ## RUN entry and the level point -/

/-- The state with all that RUN entry writes blanked (R147). -/
def sansEntry (s : State) : State :=
  { sansEvents s with
    cq := CueSequencer.afterReset
    fe := FadeEngine.afterReset
    st := { s.st with strips := Vector.replicate 16 (Strip.afterReset 0 false) }
    sc := { s.sc with
      state := .run, stateRequest := false, refresh := none, tracked := none, walkEnded := false, candidate := none }
    mr := { s.mr with
      mute := Vector.replicate 16 false, solo := Vector.replicate 16 false
      masters := Vector.replicate 16 Master.afterReset }
    sp := { s.sp with effective := .none } }

theorem sansEntry_of_sansCues {s t : State} (h : sansCues t = sansCues s) : sansEntry t = sansEntry s :=
  show sansEntry (sansCues t) = sansEntry (sansCues s) from congrArg sansEntry h

theorem sansEntry_of_sansFades {s t : State} (h : sansFades t = sansFades s) : sansEntry t = sansEntry s :=
  show sansEntry (sansFades t) = sansEntry (sansFades s) from congrArg sansEntry h

/-- The strip RUN entry leaves before a touch acts: in AUTO, and a plain fader parked (R111, R114). -/
def entryStrip (s : State) (ch : Channel) : Strip :=
  if isPlain s ch then
    { s.st.strips[ch] with mode := .auto, park := s.st.strips[ch].measured, crossing := none }
  else { s.st.strips[ch] with mode := .auto }

/-- A touch that is TOUCHED or in its release hold: the hand is at the fader (R104). -/
def Touch.atHand : Touch → Bool
  | .touched => true
  | .hold _ => true
  | .free => false
  | .pending _ => false

@[simp] theorem entryStrip_touch (ch : Channel) : (entryStrip s ch).touch = s.st.strips[ch].touch := by
  unfold entryStrip
  split <;> rfl

theorem stripAtRunEntry_eq (ch : Channel) : stripAtRunEntry s ch =
    if isMotor s ch && s.st.strips[ch].touch.atHand then touchedAct ch (setStrip s ch (entryStrip s ch))
    else setStrip s ch (entryStrip s ch) := by
  have heq : stripAtRunEntry s ch =
      if isMotor s ch then
        match (entryStrip s ch).touch with
        | .touched => touchedAct ch (setStrip s ch (entryStrip s ch))
        | .hold _ => touchedAct ch (setStrip s ch (entryStrip s ch))
        | .free => setStrip s ch (entryStrip s ch)
        | .pending _ => setStrip s ch (entryStrip s ch)
      else setStrip s ch (entryStrip s ch) := rfl
  rw [heq, entryStrip_touch]
  cases isMotor s ch <;> cases s.st.strips[ch].touch <;> rfl

@[simp] theorem sansFades_stripAtRunEntry (ch : Channel) : sansFades (stripAtRunEntry s ch) = sansFades s := by
  rw [stripAtRunEntry_eq]
  split <;> simp

/-- The state RUN entry gives the blocks: state RUN, the tracked levels and mutes, the solos clear and the masters
ready (R79, R100, R147). -/
def runInstalled (s : State) : State :=
  mixAtRunEntry (installTracked (s.sc.tracked.getD (Vector.replicate 16 { level := 0, mute := false }))
    { s with sc := { s.sc with
      state := .run, stateRequest := true, refresh := some 0, tracked := none, walkEnded := false } })

/-- RUN entry up to its post: the blocks, the strips, then the expander (R50, R147). -/
def runStarted (s : State) : State :=
  runExpander (channels.foldl stripAtRunEntry (runInstalled s))

/-- RUN entry with its post (R147). -/
def runPosted (s : State) : State :=
  post .catchupDone (cueCode ((runStarted s).sc.candidate.map (·.cue))) (presentPeers (runStarted s)) (runStarted s)

theorem enterRun_eq : enterRun s = match (runPosted s).cq.follow with
    | some f => if f.left = 0 && !stopped (runPosted s) then expireFollow f.target (runPosted s) else runPosted s
    | none => runPosted s := by
  unfold enterRun runPosted runStarted runInstalled
  rfl

@[simp] theorem sansFades_strips (l : List Channel) : sansFades (l.foldl stripAtRunEntry s) = sansFades s :=
  view_foldl sansFades_stripAtRunEntry l s

@[simp] theorem sansEntry_runInstalled : sansEntry (runInstalled s) = sansEntry s := rfl

@[simp] theorem sansEntry_runStarted : sansEntry (runStarted s) = sansEntry s := by
  rw [runStarted, sansEntry_of_sansCues (sansCues_runExpander _), sansEntry_of_sansFades (sansFades_strips _ channels),
    sansEntry_runInstalled]

@[simp] theorem sansEntry_post (k : EventKind) (a b : Nat) : sansEntry (post k a b s) = sansEntry s := rfl

@[simp] theorem sansEntry_runPosted : sansEntry (runPosted s) = sansEntry s := by
  rw [runPosted, sansEntry_post, sansEntry_runStarted]

@[simp] theorem sansEntry_enterRun : sansEntry (enterRun s) = sansEntry s := by
  rw [enterRun_eq]
  repeat' split
  · exact (sansEntry_of_sansCues (sansCues_expireFollow _ _)).trans (sansEntry_runPosted s)
  · exact sansEntry_runPosted s
  · exact sansEntry_runPosted s

/-- RUN entry leaves the station in RUN. -/
@[simp] theorem strips_sc (l : List Channel) : (l.foldl stripAtRunEntry s).sc = s.sc :=
  congrArg (·.sc) (sansFades_strips s l)

@[simp] theorem runStarted_state : (runStarted s).sc.state = .run := by
  rw [runStarted, runExpander_state, strips_sc]
  rfl

@[simp] theorem runPosted_state : (runPosted s).sc.state = .run := by
  rw [runPosted, post_sc, runStarted_state]

@[simp] theorem enterRun_state : (enterRun s).sc.state = .run := by
  have hstarted : (runPosted s).sc.state = .run := runPosted_state s
  rw [enterRun_eq]
  repeat' split
  · rw [expireFollow_state, hstarted]
  · exact hstarted
  · exact hstarted

end Sys2Proof.Machine
end

section
/-!
PROOFS. The parts that each command leaves as they are, one lemma per part, read off its view.
-/

namespace Sys2Proof.Machine

variable (s : State)

/-! ## winArbitration -/

@[simp] theorem winArbitration_period : (winArbitration s).period = s.period :=
  congrArg (·.period) (sansBus_winArbitration s)
@[simp] theorem winArbitration_sm : (winArbitration s).sm = s.sm := congrArg (·.sm) (sansBus_winArbitration s)
@[simp] theorem winArbitration_pending : (winArbitration s).pending = s.pending :=
  congrArg (·.pending) (sansBus_winArbitration s)
@[simp] theorem winArbitration_st : (winArbitration s).st = s.st := congrArg (·.st) (sansBus_winArbitration s)

/-! ## presenceNotice -/

@[simp] theorem presenceNotice_sm (p : Peer) : (presenceNotice p s).sm = s.sm :=
  congrArg (·.sm) (sansBus_presenceNotice s p)
@[simp] theorem presenceNotice_number (p : Peer) : (presenceNotice p s).sc.number = s.sc.number :=
  congrArg (·.sc.number) (sansBus_presenceNotice s p)

/-! ## duplicateNotice -/

@[simp] theorem duplicateNotice_number (c : FrameClass) : (duplicateNotice c s).sc.number = s.sc.number :=
  congrArg (·.sc.number) (sansBus_duplicateNotice s c)

/-! ## noticed -/

@[simp] theorem noticed_period (p : Peer) (c : FrameClass) : (noticed p c s).period = s.period :=
  congrArg (·.period) (sansBus_noticed s p c)
@[simp] theorem noticed_sm (p : Peer) (c : FrameClass) : (noticed p c s).sm = s.sm :=
  congrArg (·.sm) (sansBus_noticed s p c)
@[simp] theorem noticed_pending (p : Peer) (c : FrameClass) : (noticed p c s).pending = s.pending :=
  congrArg (·.pending) (sansBus_noticed s p c)
@[simp] theorem noticed_st (p : Peer) (c : FrameClass) : (noticed p c s).st = s.st :=
  congrArg (·.st) (sansBus_noticed s p c)

/-! ## applyStop -/

@[simp] theorem applyStop_state (release : Bool) (k : StopKind) (target : Station) (p : Peer) :
    (applyStop release k target p s).sc.state = s.sc.state :=
  congrArg (·.sc.state) (sansBus_applyStop s release k target p)

/-! ## applyState -/

@[simp] theorem applyState_state (solo a b : Bool) (last : Option CueNumber) (p : Peer) :
    (applyState solo a b last p s).sc.state = s.sc.state :=
  congrArg (·.sc.state) (sansBus_applyState s solo a b last p)

/-! ## applyGroup -/

@[simp] theorem applyGroup_state (g : Group) (mute : Bool) (position : Position) (p : Peer) :
    (applyGroup g mute position p s).sc.state = s.sc.state :=
  congrArg (·.sc.state) (sansBus_applyGroup s g mute position p)

/-! ## setLevelAtOnce -/

@[simp] theorem setLevelAtOnce_sm (ch : Channel) (target : Position) : (setLevelAtOnce ch target s).sm = s.sm :=
  congrArg (·.sm) (sansFades_setLevelAtOnce s ch target)

/-! ## advance -/

@[simp] theorem advance_sm : (advance s).sm = s.sm := congrArg (·.sm) (sansFades_advance s)

/-! ## countDown -/

@[simp] theorem countDown_sm : (countDown s).sm = s.sm := congrArg (·.sm) (sansFades_countDown s)

/-! ## commitMove -/

@[simp] theorem commitMove_sm (origin : CueNumber) (m : Move) : (commitMove origin s m).sm = s.sm :=
  congrArg (·.sm) (sansFades_commitMove s origin m)

/-! ## commitCue -/

@[simp] theorem commitCue_sm (e : ExpandedCue) : (commitCue s e).sm = s.sm :=
  congrArg (·.sm) (sansFades_commitCue s e)

/-! ## fadeComplete -/

@[simp] theorem fadeComplete_sm (slot : Fin 64) : (fadeComplete slot s).sm = s.sm :=
  congrArg (·.sm) (sansFades_fadeComplete s slot)
@[simp] theorem fadeComplete_sc (slot : Fin 64) : (fadeComplete slot s).sc = s.sc :=
  congrArg (·.sc) (sansFades_fadeComplete s slot)

/-! ## touchedAct -/

@[simp] theorem touchedAct_sm (ch : Channel) : (touchedAct ch s).sm = s.sm :=
  congrArg (·.sm) (sansFades_touchedAct s ch)
@[simp] theorem touchedAct_sc (ch : Channel) : (touchedAct ch s).sc = s.sc :=
  congrArg (·.sc) (sansFades_touchedAct s ch)

/-! ## servo -/

@[simp] theorem servo_sm : (servo s).sm = s.sm := congrArg (·.sm) (sansFades_servo s)
@[simp] theorem servo_sc : (servo s).sc = s.sc := congrArg (·.sc) (sansFades_servo s)

/-! ## stripAtRunEntry -/

@[simp] theorem stripAtRunEntry_sm (ch : Channel) : (stripAtRunEntry s ch).sm = s.sm :=
  congrArg (·.sm) (sansFades_stripAtRunEntry s ch)
@[simp] theorem stripAtRunEntry_sc (ch : Channel) : (stripAtRunEntry s ch).sc = s.sc :=
  congrArg (·.sc) (sansFades_stripAtRunEntry s ch)

/-! ## muteKeyPress -/

@[simp] theorem muteKeyPress_sm (ch : Channel) : (muteKeyPress ch s).sm = s.sm :=
  congrArg (·.sm) (sansKeys_muteKeyPress s ch)

/-! ## soloKeyPress -/

@[simp] theorem soloKeyPress_sm (ch : Channel) : (soloKeyPress ch s).sm = s.sm :=
  congrArg (·.sm) (sansKeys_soloKeyPress s ch)

/-! ## keyScan -/

@[simp] theorem keyScan_sm (mute solo : BitVec 16) (go : Bool) : (keyScan mute solo go s).sm = s.sm :=
  congrArg (·.sm) (sansKeys_keyScan s mute solo go)
@[simp] theorem keyScan_fe (mute solo : BitVec 16) (go : Bool) : (keyScan mute solo go s).fe = s.fe :=
  congrArg (·.fe) (sansKeys_keyScan s mute solo go)
@[simp] theorem keyScan_state (mute solo : BitVec 16) (go : Bool) : (keyScan mute solo go s).sc.state = s.sc.state :=
  congrArg (·.sc.state) (sansKeys_keyScan s mute solo go)
@[simp] theorem keyScan_strips (mute solo : BitVec 16) (go : Bool) :
    (keyScan mute solo go s).st.strips = s.st.strips :=
  congrArg (·.st.strips) (sansKeys_keyScan s mute solo go)
@[simp] theorem keyScan_buffer (mute solo : BitVec 16) (go : Bool) :
    (keyScan mute solo go s).cq.buffer = s.cq.buffer :=
  congrArg (·.cq.buffer) (sansKeys_keyScan s mute solo go)

/-! ## groupOwnerLost -/

@[simp] theorem groupOwnerLost_sm (p : Peer) (g : Group) : (groupOwnerLost p s g).sm = s.sm :=
  congrArg (·.sm) (sansGroups_groupOwnerLost s p g)

/-! ## runStarted -/

@[simp] theorem runStarted_sm : (runStarted s).sm = s.sm := congrArg (·.sm) (sansEntry_runStarted s)

/-! ## runPosted -/

@[simp] theorem runPosted_sm : (runPosted s).sm = s.sm := congrArg (·.sm) (sansEntry_runPosted s)

/-! ## enterRun -/

@[simp] theorem enterRun_sm : (enterRun s).sm = s.sm := congrArg (·.sm) (sansEntry_enterRun s)
@[simp] theorem enterRun_pending : (enterRun s).pending = s.pending := congrArg (·.pending) (sansEntry_enterRun s)
@[simp] theorem enterRun_offset : (enterRun s).lp.offset = s.lp.offset :=
  congrArg (·.lp.offset) (sansEntry_enterRun s)
@[simp] theorem enterRun_number : (enterRun s).sc.number = s.sc.number :=
  congrArg (·.sc.number) (sansEntry_enterRun s)
@[simp] theorem enterRun_txMuted : (enterRun s).sc.txMuted = s.sc.txMuted :=
  congrArg (·.sc.txMuted) (sansEntry_enterRun s)

end Sys2Proof.Machine
end

section
/-!
PROOFS. What only the commands named change (O60): a relation that every other command keeps.
-/

namespace Sys2Proof.Machine

variable {s t u : State}

/-- Show memory with its length, the station number and the queue of commands stand; RUN and TX-muted, once reached,
stand too. -/
structure Steady (s t : State) : Prop where
  bytes : t.sm.bytes = s.sm.bytes
  offset : t.lp.offset = s.lp.offset
  number : t.sc.number = s.sc.number
  pending : t.pending = s.pending
  run : s.sc.state = .run → t.sc.state = .run
  muted : s.sc.txMuted = true → t.sc.txMuted = true

theorem Steady.trans (h : Steady s t) (g : Steady t u) : Steady s u where
  bytes := g.bytes.trans h.bytes
  offset := g.offset.trans h.offset
  number := g.number.trans h.number
  pending := g.pending.trans h.pending
  run hr := g.run (h.run hr)
  muted hm := g.muted (h.muted hm)

/-- What `Steady` reads, with the state and the flag as they stand. -/
def foundation (s : State) : ShowMemory × Nat × Station × List Instr × StationState × Bool :=
  (s.sm, s.lp.offset, s.sc.number, s.pending, s.sc.state, s.sc.txMuted)

theorem Steady.of_foundation (h : foundation t = foundation s) : Steady s t := by
  simp only [foundation, Prod.mk.injEq] at h
  obtain ⟨hm, ho, hn, hp, hs, ht⟩ := h
  exact ⟨by rw [hm], ho, hn, hp, fun hr => hs.trans hr, fun hr => ht.trans hr⟩

theorem Steady.of_sansOwners (h : sansOwners t = sansOwners s) : Steady s t :=
  .of_foundation (show foundation (sansOwners t) = foundation (sansOwners s) from congrArg foundation h)

theorem Steady.of_sansFades (h : sansFades t = sansFades s) : Steady s t :=
  .of_foundation (show foundation (sansFades t) = foundation (sansFades s) from congrArg foundation h)

theorem Steady.of_sansKeys (h : sansKeys t = sansKeys s) : Steady s t :=
  .of_foundation (show foundation (sansKeys t) = foundation (sansKeys s) from congrArg foundation h)

theorem Steady.of_sansGroups (h : sansGroups t = sansGroups s) : Steady s t :=
  .of_foundation (show foundation (sansGroups t) = foundation (sansGroups s) from congrArg foundation h)

theorem Steady.of_setBc (h : ∃ bc, t = { s with bc := bc }) : Steady s t := by
  obtain ⟨bc, rfl⟩ := h
  exact .of_foundation rfl

theorem Steady.settled (h : Steady s t) : Steady s (settle t) := h.trans (.of_sansOwners (sansOwners_settle t))

/-! ## TX-muted (R155) -/

/-- A duplicate notice sets the TX-muted flag, and no other part of a frame's reading touches it. -/
theorem duplicateNotice_muted (c : FrameClass) (h : s.sc.txMuted = true) :
    (duplicateNotice c s).sc.txMuted = true := by
  simp [duplicateNotice, h]

@[simp] theorem presenceNotice_muted (p : Peer) (s : State) :
    (presenceNotice p s).sc.txMuted = s.sc.txMuted := by
  unfold presenceNotice
  dsimp only
  repeat' split
  all_goals rfl

@[simp] theorem handFrame_muted (payload : Payload) (p : Peer) (s : State) :
    (handFrame payload p s).sc.txMuted = s.sc.txMuted := by
  cases payload with
  | stop r k target =>
    simp only [handFrame, applyStop]
    repeat' split
    all_goals simp
  | cue k o c =>
    simp only [handFrame, takeCue_txMuted]
    rfl
  | group g m x =>
    simp only [handFrame, applyGroup]
    repeat' split
    all_goals rfl
  | state solo a b last =>
    simp only [handFrame, applyState]
    repeat' split
    all_goals simp

theorem takeFrame_muted (p : Peer) (repeated : Bool) (payload : Payload) (h : s.sc.txMuted = true) :
    (takeFrame p repeated payload s).sc.txMuted = true := by
  unfold takeFrame
  dsimp only
  repeat' split
  all_goals simp [duplicateNotice_muted, h]

theorem frameReceived_muted (groups : List (BitVec 5)) (h : s.sc.txMuted = true) :
    (frameReceived groups s).sc.txMuted = true := by
  cases hr : readsFrame s with
  | false => rwa [frameReceived_of_not_reads s groups hr]
  | true =>
    rcases frameReceived_cases s groups hr with ⟨fault, -, ht⟩ | ⟨p, repeated, payload, -, ht⟩ <;> rw [ht]
    · exact h
    · exact takeFrame_muted p repeated payload h

/-- A command that keeps the bus view is steady where it keeps the TX-muted flag. -/
theorem Steady.of_sansBus (h : sansBus t = sansBus s) (hm : s.sc.txMuted = true → t.sc.txMuted = true) :
    Steady s t where
  bytes := congrArg (·.sm.bytes) h
  offset := congrArg (·.lp.offset) h
  number := congrArg (·.sc.number) h
  pending := congrArg (·.pending) h
  run hr := (congrArg (·.sc.state) h).trans hr
  muted := hm

@[simp] theorem winArbitration_muted (s : State) : (winArbitration s).sc.txMuted = s.sc.txMuted := by
  obtain ⟨bc, o, r, h, -⟩ := winArbitration_frame s
  rw [h]

theorem frameComplete_muted (s : State) : (frameComplete s).sc.txMuted = s.sc.txMuted := by
  unfold frameComplete
  split <;> simp

theorem attemptFailed_muted (place : FailurePlace) (s : State) :
    (attemptFailed place s).sc.txMuted = s.sc.txMuted := by
  unfold attemptFailed
  dsimp only
  repeat' split
  all_goals simp

theorem busFault_muted (s : State) : (busFault s).sc.txMuted = s.sc.txMuted := by
  unfold busFault
  split <;> rfl

theorem busRestored_muted (s : State) : (busRestored s).sc.txMuted = s.sc.txMuted := by
  unfold busRestored
  split <;> rfl

/-! ## Stop lines and the port -/

@[simp] theorem foundation_setLine (k : StopKind) (l : StopLine) (s : State) :
    foundation (setLine s k l) = foundation s := by cases k <;> rfl

theorem foundation_of_sansMachines (h : sansMachines t = sansMachines s) : foundation t = foundation s :=
  show foundation (sansMachines t) = foundation (sansMachines s) from congrArg foundation h

@[simp] theorem foundation_takeAssertion (k : StopKind) (s : State) :
    foundation (takeAssertion k s) = foundation s := by
  unfold takeAssertion withdrawStop
  repeat' split
  all_goals first | rfl | simp [foundation]

@[simp] theorem foundation_lineAssertion (k : StopKind) (s : State) :
    foundation (lineAssertion k s) = foundation s := by
  unfold lineAssertion
  dsimp only
  repeat' split
  all_goals simp

@[simp] theorem foundation_lineRelease (k : StopKind) (s : State) :
    foundation (lineRelease k s) = foundation s := by
  unfold lineRelease
  dsimp only
  repeat' split
  · rw [foundation_of_sansMachines (sansMachines_testRelease _ k)]
    simp
  · simp
  · rfl

/-- A command that its state row turns away, or that keeps a view, keeps it. -/
theorem view_byStateRow {β : Type} {view : State → β} (row : PortRow) {own : State} (hown : view own = view s)
    (hans : ∀ r, view (answerOnly r s) = view s) : view (byStateRow row s own) = view s := by
  rcases byStateRow_cases row s own with ⟨-, h⟩ | ⟨-, ⟨r, -, h⟩ | ⟨-, h⟩⟩ <;> rw [h]
  · exact hans r
  · exact hown

@[simp] theorem foundation_answer (r : PortResult) (d : List Byte) (s : State) :
    foundation (answer r d s) = foundation s := rfl

@[simp] theorem foundation_answerOnly (r : PortResult) (s : State) : foundation (answerOnly r s) = foundation s := rfl

@[simp] theorem foundation_portRequest (k : CueKind) (c : CueNumber) (s : State) :
    foundation (portRequest k c s) = foundation s := by
  unfold portRequest
  rcases offerRequest_cases s k c .port with ⟨h, -⟩ | ⟨h, -⟩ | ⟨h, -⟩ <;> rw [h] <;> rfl

theorem foundation_portGo (s : State) : foundation (portGo s) = foundation s := by
  refine view_byStateRow _ ?_ fun _ => rfl
  repeat' split
  all_goals first | rfl | simp

theorem foundation_portFire (arg : BitVec 24) (s : State) : foundation (portFire arg s) = foundation s := by
  refine view_byStateRow _ ?_ fun _ => rfl
  repeat' split
  all_goals simp

theorem foundation_portStandby (arg : BitVec 24) (s : State) : foundation (portStandby arg s) = foundation s := by
  refine view_byStateRow _ ?_ fun _ => rfl
  repeat' split
  all_goals simp

theorem foundation_portStopRelease (kind target : Byte) (s : State) :
    foundation (portStopRelease kind target s) = foundation s := by
  refine view_byStateRow _ ?_ fun _ => rfl
  unfold portAcknowledge portOrphan
  repeat' split
  all_goals first | rfl | simp [foundation]

theorem foundation_portClearMotor (arg : Byte) (s : State) : foundation (portClearMotor arg s) = foundation s := by
  refine view_byStateRow _ ?_ fun _ => rfl
  split <;> rfl

theorem foundation_readStatus (s : State) : foundation (readStatus s) = foundation s :=
  view_byStateRow _ rfl fun _ => rfl

theorem foundation_readChannel (arg : Byte) (s : State) : foundation (readChannel arg s) = foundation s := by
  refine view_byStateRow _ ?_ fun _ => rfl
  split <;> rfl

theorem foundation_readPeer (arg : Byte) (s : State) : foundation (readPeer arg s) = foundation s := by
  refine view_byStateRow _ ?_ fun _ => rfl
  split <;> rfl

theorem foundation_readGroup (arg : Byte) (s : State) : foundation (readGroup arg s) = foundation s := by
  refine view_byStateRow _ ?_ fun _ => rfl
  split <;> rfl

theorem foundation_readEvents (arg : Byte) (s : State) : foundation (readEvents arg s) = foundation s := by
  refine view_byStateRow _ ?_ fun _ => rfl
  split <;> rfl

theorem foundation_unknownCommand (s : State) : foundation (unknownCommand s) = foundation s := by
  unfold unknownCommand taken
  split <;> rfl

theorem foundation_chipSelectHigh (n : Nat) (s : State) : foundation (chipSelectHigh n s) = foundation s := by
  unfold chipSelectHigh recordsLost
  dsimp only
  repeat' split
  all_goals rfl

theorem foundation_staleExpiry (s : State) : foundation (staleExpiry s) = foundation s := by
  unfold staleExpiry
  split <;> rfl

/-- LOAD END leaves RUN as it is: its row answers in LOAD alone (R172). -/
theorem loadEnd_steady (s : State) : Steady s (loadEnd s) := by
  unfold loadEnd
  rcases byStateRow_cases .load s (answerOnly .ok { s with sc := { s.sc with state := .validating } }) with
    ⟨-, h⟩ | ⟨-, ⟨r, -, h⟩ | ⟨hrow, h⟩⟩ <;> rw [h]
  · exact .of_foundation rfl
  · exact .of_foundation rfl
  · exact ⟨rfl, rfl, rfl, rfl, fun hr => absurd hrow (by simp [hr, stateRow]), id⟩

/-! ## The station's own events -/

theorem takeHeldLine_steady (k : StopKind) (s : State) : Steady s (takeHeldLine k s) := by
  unfold takeHeldLine
  split
  · exact .of_foundation (foundation_of_sansMachines (sansMachines_assertFromClear s k))
  · exact .of_foundation rfl

theorem validationEnd_steady (s : State) : Steady s (validationEnd s) := by
  unfold validationEnd
  repeat' split
  · rename_i hv _ _ _
    refine Steady.trans ?_ ((takeHeldLine_steady .a _).trans (takeHeldLine_steady .b _))
    exact ⟨rfl, rfl, rfl, rfl, fun hr => absurd hr (by simp [hv]), id⟩
  · rename_i hv _ _ _ _
    exact ⟨rfl, rfl, rfl, rfl, fun hr => absurd hr (by simp [hv]), id⟩
  · exact .of_foundation rfl

theorem listenExpiry_steady (s : State) : Steady s (listenExpiry s) := by
  unfold listenExpiry
  split
  · rename_i hv
    exact ⟨rfl, rfl, rfl, rfl, fun hr => absurd hr (by simp [hv]), id⟩
  · exact .of_foundation rfl

theorem walkEnd_steady (s : State) : Steady s (walkEnd s) := by
  unfold walkEnd
  split <;> exact .of_foundation rfl

theorem enterRun_steady (s : State) : Steady s (enterRun s) :=
  ⟨by rw [enterRun_sm], enterRun_offset s, enterRun_number s, enterRun_pending s, fun _ => enterRun_state s,
    fun h => (enterRun_txMuted s).trans h⟩

theorem lowerStop_steady (s : State) : Steady s (lowerStop s) :=
  .of_foundation (foundation_of_sansMachines (sansMachines_lowerStop s))

theorem runEntry_steady (s : State) : Steady s (runEntry s) := by
  unfold runEntry
  split
  · exact (lowerStop_steady s).trans (enterRun_steady _)
  · exact .of_foundation rfl

theorem levelPoint_steady (s : State) : Steady s (levelPoint s) := by
  refine (lowerStop_steady s).trans ?_
  unfold levelPoint
  dsimp only
  repeat' split
  · exact enterRun_steady _
  · exact .of_sansFades (sansFades_fadeSteps _)
  · exact .of_foundation rfl

theorem stateRefresh_steady (s : State) : Steady s (stateRefresh s) := by
  unfold stateRefresh
  split <;> exact .of_foundation rfl

theorem strobe_steady (s : State) : Steady s (strobe s) := by
  unfold strobe
  split <;> exact .of_foundation rfl

theorem gainLaw_steady (s : State) : Steady s (gainLaw s) := by
  rw [gainLaw_frame]
  exact .of_foundation rfl

theorem outputPoint_steady (s : State) : Steady s (outputPoint s) :=
  ((gainLaw_steady s).trans (t := gainLaw s) (.of_foundation rfl : Steady (gainLaw s) (captureLink (gainLaw s)))).trans
    (.of_sansFades (sansFades_servo _))

theorem prefetchComplete_steady (s : State) : Steady s (prefetchComplete s) := by
  unfold prefetchComplete
  split <;> exact .of_foundation rfl

theorem Steady.of_sansCues (h : sansCues t = sansCues s) : Steady s t := .of_sansOwners (sansOwners_of_sansCues h)

theorem expansionComplete_steady (s : State) : Steady s (expansionComplete s) := by
  unfold expansionComplete
  repeat' split
  · exact .of_sansCues (sansCues_runExpander _)
  all_goals exact .of_foundation rfl

theorem followExpiry_steady (s : State) : Steady s (followExpiry s) := by
  unfold followExpiry
  repeat' split
  · exact .of_sansCues (sansCues_expireFollow s _)
  all_goals exact .of_foundation rfl

/-! ## Every command -/

/-- The resets and the two commands that write show memory. -/
def resetsOrLoads : Instr → Bool
  | .coldReset _ => true
  | .restart => true
  | .loadBegin => true
  | .loadData _ _ => true
  | _ => false

/-- Every command but the resets and the writers of show memory is steady. -/
theorem exec_steady {c : Instr} (hc : resetsOrLoads c = false) (h : exec c s = .next t) : Steady s t := by
  cases c with
  | coldReset straps => cases hc
  | restart => cases hc
  | loadBegin => cases hc
  | loadData length data => cases hc
  | levelPoint => cases h; exact (levelPoint_steady s).settled
  | outputPoint => cases h; exact outputPoint_steady s
  | gainLinkStrobe => cases h; exact strobe_steady s
  | conversionComplete ch value => cases h; exact (Steady.of_sansFades (sansFades_conversion s ch value)).settled
  | touchInputAsserted ch => cases h; exact .of_sansFades (sansFades_touchAsserted s ch)
  | touchInputAbsent ch => cases h; exact (Steady.of_sansFades (sansFades_touchAbsent s ch)).settled
  | touchedArrival ch => cases h; exact (Steady.of_sansFades (sansFades_touchedArrival s ch)).settled
  | freeArrival ch => cases h; exact (Steady.of_sansFades (sansFades_freeArrival s ch)).settled
  | keyScan mute solo go => cases h; exact (Steady.of_sansKeys (sansKeys_keyScan s mute solo go)).settled
  | stopLineInputChange k a => cases h; exact .of_foundation (foundation_setLine k _ s)
  | lineAssertion k => cases h; exact (Steady.of_foundation (foundation_lineAssertion k s)).settled
  | lineRelease k => cases h; exact (Steady.of_foundation (foundation_lineRelease k s)).settled
  | bidPoint => cases h; exact .of_setBc (bidPoint_frame s)
  | arbitrationWon => cases h; exact .of_sansBus (sansBus_winArbitration s) (by simp)
  | arbitrationLost => cases h; exact .of_setBc (loseArbitration_frame s)
  | arbitrationByteRead a b => cases h; exact .of_setBc (arbitrationByteRead_frame s a b)
  | frameReceived groups =>
    cases h; exact (Steady.of_sansBus (sansBus_frameReceived s groups) (frameReceived_muted groups)).settled
  | frameComplete =>
    cases h; exact (Steady.of_sansBus (sansBus_frameComplete s) (frameComplete_muted s).trans).settled
  | attemptFailed place =>
    cases h; exact (Steady.of_sansBus (sansBus_attemptFailed s place) (attemptFailed_muted place s).trans).settled
  | busBreak => cases h; exact .of_setBc (busBreak_frame s)
  | busBreakEnd => cases h; exact .of_setBc (busBreakEnd_frame s)
  | busFault => cases h; exact (Steady.of_sansBus (sansBus_busFault s) (busFault_muted s).trans).settled
  | busRestored => cases h; exact (Steady.of_sansBus (sansBus_busRestored s) (busRestored_muted s).trans).settled
  | readStatus => cases h; exact .of_foundation (foundation_readStatus s)
  | readEvents n => cases h; exact .of_foundation (foundation_readEvents n s)
  | readChannel n => cases h; exact .of_foundation (foundation_readChannel n s)
  | readPeer n => cases h; exact .of_foundation (foundation_readPeer n s)
  | readGroup n => cases h; exact .of_foundation (foundation_readGroup n s)
  | loadEnd => cases h; exact loadEnd_steady s
  | go => cases h; exact (Steady.of_foundation (foundation_portGo s)).settled
  | fire cue => cases h; exact (Steady.of_foundation (foundation_portFire cue s)).settled
  | standby cue => cases h; exact (Steady.of_foundation (foundation_portStandby cue s)).settled
  | stopRelease kind target =>
    cases h; exact (Steady.of_foundation (foundation_portStopRelease kind target s)).settled
  | clearMotor ch => cases h; exact .of_foundation (foundation_portClearMotor ch s)
  | unknownCommand code => cases h; exact .of_foundation (foundation_unknownCommand s)
  | chipSelectHigh n => cases h; exact .of_foundation (foundation_chipSelectHigh n s)
  | validationEnd => cases h; exact validationEnd_steady s
  | listenTimerExpiry => cases h; exact listenExpiry_steady s
  | catchupWalkEnd => cases h; exact walkEnd_steady s
  | runEntry => cases h; exact (runEntry_steady s).settled
  | prefetchComplete => cases h; exact prefetchComplete_steady s
  | expansionComplete => cases h; exact expansionComplete_steady s
  | followExpiry => cases h; exact (followExpiry_steady s).settled
  | delayCountExpiry slot => cases h; exact (Steady.of_sansFades (sansFades_delayCountExpiry s slot)).settled
  | fadeComplete slot => cases h; exact (Steady.of_sansFades (sansFades_fadeComplete s slot)).settled
  | restEnd ch => cases h; exact .of_sansFades (sansFades_restEnd s ch)
  | motorStall ch => cases h; exact .of_sansFades (sansFades_motorStall s ch)
  | groupAgeLimit g => cases h; exact .of_sansGroups (sansGroups_groupAgeLimit s g)
  | groupSendDue ch => cases h; exact (Steady.of_sansGroups (sansGroups_groupSendDue s ch)).settled
  | peerLost p => cases h; exact (Steady.of_sansGroups (sansGroups_peerLost s p)).settled
  | stateRefresh => cases h; exact (stateRefresh_steady s).settled
  | staleTimerExpiry => cases h; exact .of_foundation (foundation_staleExpiry s)
  | startBit => cases h; exact .of_setBc (startBit_frame s)
  | chipSelectLow => cases h; exact .of_foundation rfl

/-! ## The resets and the writers of show memory -/

/-- LOAD BEGIN leaves RUN as it is: its row answers in LOAD and LOADFAULT alone (R172). -/
theorem loadBegin_keeps (s : State) :
    (s.sc.state = .run → (loadBegin s).sc.state = .run) ∧ (loadBegin s).sc.number = s.sc.number
      ∧ (loadBegin s).sc.txMuted = s.sc.txMuted ∧ (loadBegin s).pending = s.pending := by
  unfold loadBegin
  rcases byStateRow_cases .loadBegin s _ with ⟨-, h⟩ | ⟨-, ⟨r, -, h⟩ | ⟨hrow, h⟩⟩ <;> rw [h]
  · exact ⟨id, rfl, rfl, rfl⟩
  · exact ⟨id, rfl, rfl, rfl⟩
  · exact ⟨fun hr => absurd hrow (by simp [hr, stateRow]), rfl, rfl, rfl⟩

/-- LOAD DATA writes show memory's bytes and the load port alone. -/
theorem loadData_frame (length : Byte) (data : List Byte) (s : State) :
    ∃ bytes lp, loadData length data s = { s with sm := { s.sm with bytes := bytes }, lp := lp } := by
  unfold loadData
  split
  · exact ⟨s.sm.bytes, s.lp, rfl⟩
  · rcases byStateRow_cases .load s _ with ⟨-, h⟩ | ⟨-, ⟨r, -, h⟩ | ⟨-, h⟩⟩ <;> rw [h]
    · exact ⟨s.sm.bytes, s.lp, rfl⟩
    · exact ⟨s.sm.bytes, _, rfl⟩
    · unfold storeData
      dsimp only
      repeat' split
      all_goals exact ⟨_, _, rfl⟩

/-- RESTART keeps show memory, the station number and the queue of commands (R157). -/
theorem portRestart_keeps (s : State) : (portRestart s).sm = s.sm ∧ (portRestart s).lp.offset = s.lp.offset
    ∧ (portRestart s).sc.number = s.sc.number ∧ (portRestart s).pending = s.pending := by
  unfold portRestart
  rcases byStateRow_cases .act s _ with ⟨-, h⟩ | ⟨-, ⟨r, -, h⟩ | ⟨-, h⟩⟩ <;> rw [h] <;> exact ⟨rfl, rfl, rfl, rfl⟩

/-- Settles O60: every command is steady but the resets and the writers of show memory, each of which is read off its
own effect. -/
theorem onlyTheseCommandsChange : Obligations.OnlyTheseCommandsChange := by
  intro c s t h
  by_cases hc : resetsOrLoads c = false
  · have hs := exec_steady hc h
    exact ⟨fun hr _ _ => hs.run hr, fun _ _ => ⟨hs.bytes, fun _ => hs.offset⟩, fun _ => hs.number,
      fun hm _ _ => hs.muted hm, hs.pending⟩
  · cases c with
    | coldReset straps =>
      cases h
      exact ⟨fun _ hn => absurd rfl (hn straps), fun _ _ => ⟨rfl, fun hn => absurd rfl (hn straps)⟩,
        fun hn => absurd rfl (hn straps), fun _ hn => absurd rfl (hn straps), rfl⟩
    | restart =>
      cases h
      obtain ⟨hm, ho, hn, hp⟩ := portRestart_keeps s
      exact ⟨fun _ _ hne => absurd rfl hne, fun _ _ => ⟨congrArg ShowMemory.bytes hm, fun _ => ho⟩, fun _ => hn,
        fun _ _ hne => absurd rfl hne, hp⟩
    | loadBegin =>
      cases h
      obtain ⟨hr, hn, hm, hp⟩ := loadBegin_keeps s
      exact ⟨fun hs _ _ => hr hs, fun hne => absurd rfl hne, fun _ => hn, fun hs _ _ => hm.trans hs, hp⟩
    | loadData length data =>
      cases h
      obtain ⟨bytes, lp, hd⟩ := loadData_frame length data s
      rw [hd]
      exact ⟨fun hs _ _ => hs, fun _ hne => absurd rfl (hne length data), fun _ => rfl, fun hs _ _ => hs, rfl⟩
    | _ => exact absurd rfl hc

end Sys2Proof.Machine
end

section
/-!
PROOFS. The event queue keeps its size and ATTN its condition through every command (R176, R178).
-/

namespace Sys2Proof.Machine

variable {s : State} {image : Option ShowImage}

/-! ## The bus -/

@[simp] theorem winArbitration_lp (s : State) : (winArbitration s).lp = s.lp := by
  obtain ⟨bc, o, r, h, -⟩ := winArbitration_frame s
  rw [h]

@[simp] theorem frameComplete_events (h : EventsOk s.lp image) (hi : s.sm.image = image) :
    EventsOk (frameComplete s).lp image := by
  unfold frameComplete
  split <;> simp -implicitDefEqProofs [h, hi]

@[simp] theorem attemptFailed_events (place : FailurePlace) (h : EventsOk s.lp image) (hi : s.sm.image = image) :
    EventsOk (attemptFailed place s).lp image := by
  unfold attemptFailed
  dsimp only
  repeat' split
  all_goals simp -implicitDefEqProofs [h, hi]

@[simp] theorem presenceNotice_events (p : Peer) (h : EventsOk s.lp image) (hi : s.sm.image = image) :
    EventsOk (presenceNotice p s).lp image := by
  unfold presenceNotice
  dsimp only
  repeat' split
  all_goals simp -implicitDefEqProofs [h, hi]

@[simp] theorem duplicateNotice_events (c : FrameClass) (h : EventsOk s.lp image) (hi : s.sm.image = image) :
    EventsOk (duplicateNotice c s).lp image := by
  unfold duplicateNotice
  split <;> simp -implicitDefEqProofs [h, hi]

@[simp] theorem applyStop_lp (release : Bool) (k : StopKind) (target : Station) (p : Peer) (s : State) :
    (applyStop release k target p s).lp = s.lp := by
  unfold applyStop
  repeat' split
  all_goals simp

@[simp] theorem applyState_lp (solo a b : Bool) (last : Option CueNumber) (p : Peer) (s : State) :
    (applyState solo a b last p s).lp = s.lp := by
  unfold applyState
  dsimp only
  repeat' split
  all_goals simp

@[simp] theorem applyGroup_events (g : Group) (mute : Bool) (position : Position) (p : Peer)
    (h : EventsOk s.lp image) (hi : s.sm.image = image) : EventsOk (applyGroup g mute position p s).lp image := by
  unfold applyGroup
  repeat' split
  all_goals simp -implicitDefEqProofs [h, hi]

@[simp] theorem withdraw_lp (k : CueKind) (c : CueNumber) (s : State) : (withdraw k c s).lp = s.lp := rfl

@[simp] theorem withdraw_sm (k : CueKind) (c : CueNumber) (s : State) : (withdraw k c s).sm = s.sm := rfl

@[simp] theorem handFrame_events (payload : Payload) (p : Peer) (h : EventsOk s.lp image)
    (hi : s.sm.image = image) : EventsOk (handFrame payload p s).lp image := by
  cases payload <;> simp -implicitDefEqProofs [handFrame, h, hi]

@[simp] theorem noticed_events (p : Peer) (c : FrameClass) (h : EventsOk s.lp image) (hi : s.sm.image = image) :
    EventsOk (noticed p c s).lp image := by
  unfold noticed
  split <;> simp -implicitDefEqProofs [h, hi]

@[simp] theorem setCopy_events (p : Peer) (c : FrameClass) (x : Option Payload) (s : State) :
    EventsOk (setCopy s p c x).lp image ↔ EventsOk s.lp image := Iff.rfl

@[simp] theorem takeFrame_events (p : Peer) (repeated : Bool) (payload : Payload) (h : EventsOk s.lp image)
    (hi : s.sm.image = image) : EventsOk (takeFrame p repeated payload s).lp image := by
  have hn := noticed_events p (payloadClass payload) h hi
  rw [takeFrame_eq]
  split
  · exact hn
  · exact handFrame_events payload p hn (by simp [hi])

@[simp] theorem frameReceived_events (groups : List (BitVec 5)) (h : EventsOk s.lp image)
    (hi : s.sm.image = image) : EventsOk (frameReceived groups s).lp image := by
  cases hr : readsFrame s with
  | false => rwa [frameReceived_of_not_reads s groups hr]
  | true =>
    rcases frameReceived_cases s groups hr with ⟨fault, -, ht⟩ | ⟨p, repeated, payload, -, ht⟩ <;> rw [ht]
    · exact post_events _ _ _ h hi
    · exact takeFrame_events p repeated payload h hi

@[simp] theorem busFault_events (h : EventsOk s.lp image) (hi : s.sm.image = image) :
    EventsOk (busFault s).lp image := by
  unfold busFault
  split
  · exact post_events _ _ _ h hi
  · exact h

@[simp] theorem busRestored_events (h : EventsOk s.lp image) (hi : s.sm.image = image) :
    EventsOk (busRestored s).lp image := by
  unfold busRestored
  split
  · exact post_events _ _ _ h hi
  · exact h

/-! ## The fade engine and the strips -/

@[simp] theorem levelStartNotice_lp (ch : Channel) (s : State) : (levelStartNotice ch s).lp = s.lp := by
  unfold levelStartNotice
  dsimp only
  repeat' split
  all_goals rfl

@[simp] theorem setLevelAtOnce_lp (ch : Channel) (target : Position) (s : State) :
    (setLevelAtOnce ch target s).lp = s.lp := by
  simp [setLevelAtOnce]

@[simp] theorem startWaiting_lp (before : List PoolRecord) (r : PoolRecord) (after : List PoolRecord) (s : State) :
    (startWaiting before r after s).lp = s.lp := by
  unfold startWaiting
  dsimp only
  repeat' split
  all_goals simp

@[simp] theorem startDue_lp (n : Nat) (s : State) : (startDue n s).lp = s.lp := by
  induction n generalizing s with
  | zero => rfl
  | succ n ih =>
    unfold startDue
    split
    · rw [ih, startWaiting_lp]
    · rfl

@[simp] theorem countDown_lp (s : State) : (countDown s).lp = s.lp := by simp [countDown]

@[simp] theorem advance_lp (s : State) : (advance s).lp = s.lp := rfl

@[simp] theorem snap_events (origin : CueNumber) (m : Move) (h : EventsOk s.lp image) (hi : s.sm.image = image) :
    EventsOk (snap origin m s).lp image := by
  unfold snap
  dsimp only
  split <;> simp -implicitDefEqProofs [h, hi]

@[simp] theorem startMove_events (origin : CueNumber) (m : Move) (h : EventsOk s.lp image)
    (hi : s.sm.image = image) : EventsOk (startMove origin m s).lp image := by
  unfold startMove
  dsimp only
  repeat' split
  all_goals simp -implicitDefEqProofs [h, hi]

@[simp] theorem commitMove_events (origin : CueNumber) (m : Move) (h : EventsOk s.lp image)
    (hi : s.sm.image = image) : EventsOk (commitMove origin s m).lp image := by
  unfold commitMove
  repeat' split
  all_goals simp -implicitDefEqProofs [h, hi]

/-- Turns that keep the image and the events keep both over a fold. -/
theorem foldl_events {ι : Type} {f : State → ι → State} (hm : ∀ t i, (f t i).sm = t.sm)
    (he : ∀ t i, EventsOk t.lp t.sm.image → EventsOk (f t i).lp t.sm.image) (l : List ι)
    (h : EventsOk s.lp image) (hi : s.sm.image = image) : EventsOk (l.foldl f s).lp image := by
  subst hi
  have := foldl_keeps (f := f) (P := fun t : State => EventsOk t.lp t.sm.image)
    (fun t i ht => (congrArg ShowMemory.image (hm t i)).symm ▸ he t i ht) l h
  rwa [foldl_frame (fun t : State => t.sm) hm l s] at this

@[simp] theorem commitCue_events (e : ExpandedCue) (h : EventsOk s.lp image) (hi : s.sm.image = image) :
    EventsOk (commitCue s e).lp image :=
  foldl_events (fun t m => commitMove_sm t e.cue m) (fun _ m ht => commitMove_events e.cue m ht rfl) e.moves h hi

@[simp] theorem commit_events (h : EventsOk s.lp image) (hi : s.sm.image = image) :
    EventsOk (commit s).lp image :=
  foldl_events commitCue_sm (fun _ e ht => commitCue_events e ht rfl) s.fe.commits h hi

@[simp] theorem fadeSteps_events (h : EventsOk s.lp image) (hi : s.sm.image = image) :
    EventsOk (fadeSteps s).lp image := by
  simp [fadeSteps, h, hi]

@[simp] theorem delayCountExpiry_lp (slot : Fin 64) (s : State) : (delayCountExpiry slot s).lp = s.lp := by
  unfold delayCountExpiry
  repeat' split
  all_goals simp

@[simp] theorem fadeComplete_lp (slot : Fin 64) (s : State) : (fadeComplete slot s).lp = s.lp := by
  unfold fadeComplete
  repeat' split
  all_goals simp

@[simp] theorem conversion_lp (ch : Channel) (m : Position) (s : State) : (conversion ch m s).lp = s.lp := by
  unfold conversion
  repeat' split
  all_goals simp

@[simp] theorem touchedAct_lp (ch : Channel) (s : State) : (touchedAct ch s).lp = s.lp := by
  unfold touchedAct touchNotice
  dsimp only
  repeat' split
  all_goals simp

@[simp] theorem freeAct_lp (ch : Channel) (s : State) : (freeAct ch s).lp = s.lp := by
  unfold freeAct releaseNotice
  dsimp only
  repeat' split
  all_goals simp

@[simp] theorem touchAsserted_lp (ch : Channel) (s : State) : (touchAsserted ch s).lp = s.lp := by
  unfold touchAsserted setTouch setTouchInput
  dsimp only
  repeat' split
  all_goals simp

@[simp] theorem touchAbsent_lp (ch : Channel) (s : State) : (touchAbsent ch s).lp = s.lp := by
  unfold touchAbsent setTouch setTouchInput
  dsimp only
  repeat' split
  all_goals simp

@[simp] theorem touchedArrival_lp (ch : Channel) (s : State) : (touchedArrival ch s).lp = s.lp := by
  unfold touchedArrival setTouch
  repeat' split
  all_goals simp

@[simp] theorem freeArrival_lp (ch : Channel) (s : State) : (freeArrival ch s).lp = s.lp := by
  unfold freeArrival setTouch
  repeat' split
  all_goals simp

@[simp] theorem countStall_events (ch : Channel) (x : Strip) (h : EventsOk s.lp image) (hi : s.sm.image = image) :
    EventsOk (countStall ch x s).lp image := by
  unfold countStall
  repeat' split
  all_goals simp -implicitDefEqProofs [h, hi]

theorem servoAct_events (hd : Header) (ch : Channel) (motor : Motor) (h : EventsOk s.lp image)
    (hi : s.sm.image = image) : EventsOk (servoAct hd ch motor s).lp image :=
  countStall_events ch _ h hi

theorem servoChannel_events (hd : Header) (ch : Channel) (h : EventsOk s.lp image) (hi : s.sm.image = image) :
    EventsOk (servoChannel hd s ch).lp image := by
  unfold servoChannel
  dsimp only
  repeat' split
  all_goals simp -implicitDefEqProofs [h, hi, servoAct_events]

@[simp] theorem sansFades_servoChannel (hd : Header) (s : State) (ch : Channel) :
    sansFades (servoChannel hd s ch) = sansFades s := by
  rw [servoChannel_frame]
  rfl

theorem servoChannel_sm (hd : Header) (s : State) (ch : Channel) : (servoChannel hd s ch).sm = s.sm :=
  congrArg (·.sm) (sansFades_servoChannel hd s ch)

@[simp] theorem servo_events (h : EventsOk s.lp image) (hi : s.sm.image = image) : EventsOk (servo s).lp image := by
  unfold servo
  repeat' split
  · exact foldl_events (servoChannel_sm _) (fun _ ch ht => servoChannel_events _ ch ht rfl) channels h hi
  · exact h
  · exact h

@[simp] theorem restEnd_events (ch : Channel) (h : EventsOk s.lp image) (hi : s.sm.image = image) :
    EventsOk (restEnd ch s).lp image := by
  unfold restEnd
  repeat' split
  all_goals simp -implicitDefEqProofs [h, hi, servoAct_events]

@[simp] theorem motorStall_events (ch : Channel) (h : EventsOk s.lp image) (hi : s.sm.image = image) :
    EventsOk (motorStall ch s).lp image := by
  unfold motorStall
  dsimp only
  split <;> simp -implicitDefEqProofs [h, hi]

@[simp] theorem muteKeyPress_lp (ch : Channel) (s : State) : (muteKeyPress ch s).lp = s.lp := by
  unfold muteKeyPress
  split <;> rfl

@[simp] theorem soloKeyPress_lp (ch : Channel) (s : State) : (soloKeyPress ch s).lp = s.lp := by
  unfold soloKeyPress
  dsimp only
  repeat' split
  all_goals simp

@[simp] theorem goKeyPress_events (h : EventsOk s.lp image) (hi : s.sm.image = image) :
    EventsOk (goKeyPress s).lp image := by
  unfold goKeyPress
  repeat' split
  all_goals simp -implicitDefEqProofs [h, hi]

@[simp] theorem keyScan_events (mute solo : BitVec 16) (go : Bool) (h : EventsOk s.lp image)
    (hi : s.sm.image = image) : EventsOk (keyScan mute solo go s).lp image := by
  unfold keyScan
  dsimp only
  have hlp : ∀ (mutes solos : List Channel) (t : State),
      (solos.foldl (fun t ch => soloKeyPress ch t) (mutes.foldl (fun t ch => muteKeyPress ch t) t)).lp = t.lp :=
    fun mutes solos t => (foldl_frame (·.lp) (fun t ch => soloKeyPress_lp ch t) solos _).trans
      (foldl_frame (·.lp) (fun t ch => muteKeyPress_lp ch t) mutes t)
  have hsm : ∀ (mutes solos : List Channel) (t : State),
      (solos.foldl (fun t ch => soloKeyPress ch t) (mutes.foldl (fun t ch => muteKeyPress ch t) t)).sm = t.sm :=
    fun mutes solos t => (foldl_frame (·.sm) (fun t ch => soloKeyPress_sm t ch) solos _).trans
      (foldl_frame (·.sm) (fun t ch => muteKeyPress_sm t ch) mutes t)
  repeat' split
  · exact goKeyPress_events (by rwa [hlp]) (by rwa [hsm])
  · rwa [hlp]
  · exact h

/-! ## The mix and the groups -/

@[simp] theorem followHeadroom_events (ch : Channel) (h : EventsOk s.lp image) (hi : s.sm.image = image) :
    EventsOk (followHeadroom ch s).lp image := by
  unfold followHeadroom
  repeat' split
  all_goals simp -implicitDefEqProofs [h, hi]

theorem mixChannel_events (step : Nat) (ch : Channel) (h : EventsOk s.lp image) (hi : s.sm.image = image) :
    EventsOk (mixChannel step s ch).lp image := by
  unfold mixChannel
  split
  · exact followHeadroom_events ch h hi
  · exact h

theorem mixChannel_sm (step : Nat) (s : State) (ch : Channel) : (mixChannel step s ch).sm = s.sm := by
  rw [mixChannel_frame]

@[simp] theorem gainLaw_sm (s : State) : (gainLaw s).sm = s.sm := by
  rw [gainLaw_frame]

@[simp] theorem gainLaw_events (h : EventsOk s.lp image) (hi : s.sm.image = image) :
    EventsOk (gainLaw s).lp image := by
  unfold gainLaw
  split
  · exact foldl_events (mixChannel_sm _) (fun _ ch ht => mixChannel_events _ ch ht rfl) channels h hi
  · exact h

theorem outputPoint_events (h : EventsOk s.lp image) (hi : s.sm.image = image) :
    EventsOk (outputPoint s).lp image :=
  servo_events (gainLaw_events h hi) ((congrArg ShowMemory.image (gainLaw_sm s)).trans hi)

@[simp] theorem makeStale_events (g : Group) (h : EventsOk s.lp image) (hi : s.sm.image = image) :
    EventsOk (makeStale g s).lp image := by
  unfold makeStale
  repeat' split
  all_goals simp -implicitDefEqProofs [h, hi]

@[simp] theorem promote_lp (ch : Channel) (s : State) : (promote ch s).lp = s.lp := by
  unfold promote
  split <;> rfl

theorem groupOwnerLost_events (p : Peer) (g : Group) (h : EventsOk s.lp image) (hi : s.sm.image = image) :
    EventsOk (groupOwnerLost p s g).lp image := by
  unfold groupOwnerLost
  repeat' split
  all_goals simp -implicitDefEqProofs [h, hi]

@[simp] theorem groupAgeLimit_events (g : Group) (h : EventsOk s.lp image) (hi : s.sm.image = image) :
    EventsOk (groupAgeLimit g s).lp image := by
  unfold groupAgeLimit
  repeat' split
  all_goals simp -implicitDefEqProofs [h, hi]

@[simp] theorem groupSendDue_lp (ch : Channel) (s : State) : (groupSendDue ch s).lp = s.lp := by
  unfold groupSendDue
  dsimp only
  split <;> rfl

@[simp] theorem peerLost_events (p : Peer) (h : EventsOk s.lp image) (hi : s.sm.image = image) :
    EventsOk (peerLost p s).lp image := by
  unfold peerLost
  dsimp only
  split
  · refine foldl_events (fun t g => groupOwnerLost_sm t p g) (fun _ g ht => groupOwnerLost_events p g ht rfl) _ ?_ ?_
    · split <;> simp -implicitDefEqProofs [h, hi]
    · split <;> simp [hi]
  · exact h

/-! ## The station -/

@[simp] theorem stripAtRunEntry_lp (s : State) (ch : Channel) : (stripAtRunEntry s ch).lp = s.lp := by
  rw [stripAtRunEntry_eq]
  split <;> simp

theorem strips_lp (l : List Channel) (s : State) : (l.foldl stripAtRunEntry s).lp = s.lp :=
  foldl_frame (·.lp) stripAtRunEntry_lp l s

theorem runPosted_events (h : EventsOk s.lp image) (hi : s.sm.image = image) :
    EventsOk (runPosted s).lp image := by
  refine post_events _ _ _ ?_ (by rw [runStarted_sm, hi])
  rw [runStarted, runExpander_lp, strips_lp]
  exact h

theorem enterRun_events (h : EventsOk s.lp image) (hi : s.sm.image = image) : EventsOk (enterRun s).lp image := by
  have hp := runPosted_events h hi
  rw [enterRun_eq]
  repeat' split
  · exact expireFollow_events _ hp (by rw [runPosted_sm, hi])
  · exact hp
  · exact hp

@[simp] theorem lowerStop_lp (s : State) : (lowerStop s).lp = s.lp := by rw [lowerStop_eq]; rfl

theorem takeHeldLine_events (k : StopKind) (h : EventsOk s.lp image) (hi : s.sm.image = image) :
    EventsOk (takeHeldLine k s).lp image := by
  unfold takeHeldLine
  split <;> simp -implicitDefEqProofs [h, hi]

@[simp] theorem takeAssertion_events (k : StopKind) (h : EventsOk s.lp image) (hi : s.sm.image = image) :
    EventsOk (takeAssertion k s).lp image := by
  unfold takeAssertion withdrawStop
  repeat' split
  all_goals simp -implicitDefEqProofs [h, hi]

theorem lineAssertion_events (k : StopKind) (h : EventsOk s.lp image) (hi : s.sm.image = image) :
    EventsOk (lineAssertion k s).lp image := by
  unfold lineAssertion
  dsimp only
  repeat' split
  all_goals simp -implicitDefEqProofs [h, hi]

theorem lineRelease_events (k : StopKind) (h : EventsOk s.lp image) (hi : s.sm.image = image) :
    EventsOk (lineRelease k s).lp image := by
  unfold lineRelease
  dsimp only
  repeat' split
  all_goals simp -implicitDefEqProofs [h, hi]

/-! ## The port -/

/-- The answer by a state row keeps the events where the command's own rule keeps them. -/
theorem byStateRow_events (row : PortRow) {own : State} (hown : EventsOk own.lp image) (h : EventsOk s.lp image) :
    EventsOk (byStateRow row s own).lp image := by
  rcases byStateRow_cases row s own with ⟨-, hb⟩ | ⟨-, ⟨r, -, hb⟩ | ⟨-, hb⟩⟩ <;> rw [hb]
  · exact h
  · exact h
  · exact hown

@[simp] theorem answer_events (r : PortResult) (d : List Byte) : EventsOk (answer r d s).lp image ↔ EventsOk s.lp image :=
  Iff.rfl

@[simp] theorem answerOnly_events (r : PortResult) : EventsOk (answerOnly r s).lp image ↔ EventsOk s.lp image :=
  Iff.rfl

theorem portRequest_events (k : CueKind) (c : CueNumber) (h : EventsOk s.lp image) :
    EventsOk (portRequest k c s).lp image := by
  unfold portRequest
  rcases offerRequest_cases s k c .port with ⟨ho, -⟩ | ⟨ho, -⟩ | ⟨ho, -⟩ <;> rw [ho] <;> exact h

theorem portGo_events (h : EventsOk s.lp image) (hi : s.sm.image = image) : EventsOk (portGo s).lp image := by
  refine byStateRow_events _ ?_ h
  repeat' split
  all_goals simp -implicitDefEqProofs [h, hi, portRequest_events]

theorem portFire_events (arg : BitVec 24) (h : EventsOk s.lp image) : EventsOk (portFire arg s).lp image := by
  refine byStateRow_events _ ?_ h
  repeat' split
  all_goals simp [h, portRequest_events]

theorem portStandby_events (arg : BitVec 24) (h : EventsOk s.lp image) :
    EventsOk (portStandby arg s).lp image := by
  refine byStateRow_events _ ?_ h
  repeat' split
  all_goals simp [h, portRequest_events]

theorem portStopRelease_events (kind target : Byte) (h : EventsOk s.lp image) (hi : s.sm.image = image) :
    EventsOk (portStopRelease kind target s).lp image := by
  refine byStateRow_events _ ?_ h
  unfold portAcknowledge portOrphan
  repeat' split
  all_goals simp -implicitDefEqProofs [h, hi]

theorem portClearMotor_events (arg : Byte) (h : EventsOk s.lp image) : EventsOk (portClearMotor arg s).lp image := by
  refine byStateRow_events _ ?_ h
  split <;> exact h

theorem portRestart_events (h : EventsOk s.lp image) (hi : s.sm.image = image) :
    EventsOk (portRestart s).lp image :=
  byStateRow_events _ (post_events (s := { s with
      bc := BusController.afterReset s.bc.lineHeld, sc := warmStation s.sc, cq := CueSequencer.afterReset
      fe := FadeEngine.afterReset, mr := warmMix s.mr
      st := StripController.afterReset (mapTable warmStrip s.st.strips)
      sp := StopController.afterReset s.sp.lineA.raw s.sp.lineB.raw }) _ _ _ h hi) h

theorem readStatus_events (h : EventsOk s.lp image) : EventsOk (readStatus s).lp image := byStateRow_events _ h h

theorem readChannel_events (arg : Byte) (h : EventsOk s.lp image) : EventsOk (readChannel arg s).lp image := by
  refine byStateRow_events _ ?_ h
  split <;> exact h

theorem readPeer_events (arg : Byte) (h : EventsOk s.lp image) : EventsOk (readPeer arg s).lp image := by
  refine byStateRow_events _ ?_ h
  split <;> exact h

theorem readGroup_events (arg : Byte) (h : EventsOk s.lp image) : EventsOk (readGroup arg s).lp image := by
  refine byStateRow_events _ ?_ h
  split <;> exact h

theorem readEvents_events (arg : Byte) (h : EventsOk s.lp image) (hi : s.sm.image = image) :
    EventsOk (readEvents arg s).lp image := by
  refine byStateRow_events _ ?_ h
  split
  · rename_i n _
    refine evaluateAttn_events (?_ : (s.lp.queue.drop n).length ≤ 64) hi
    rw [List.length_drop]
    exact (Nat.sub_le _ _).trans h.1
  · exact h

theorem unknownCommand_events (h : EventsOk s.lp image) : EventsOk (unknownCommand s).lp image := by
  unfold unknownCommand taken
  split <;> exact h

theorem markOldest_length (q : List EventRecord) : (markOldest q).length = q.length := by
  cases q <;> rfl

theorem chipSelectHigh_events (n : Nat) (h : EventsOk s.lp image) : EventsOk (chipSelectHigh n s).lp image := by
  have lost : EventsOk (recordsLost { s with lp := { s.lp with port := .idle } }).lp image := by
    unfold recordsLost
    split
    · exact h
    · simp only [EventsOk, markOldest_length]
      refine ⟨h.1, h.2.trans ?_⟩
      cases s.lp.queue <;> rfl
  unfold chipSelectHigh
  dsimp only
  repeat' split
  all_goals first | exact lost | exact h

theorem staleExpiry_events (h : EventsOk s.lp image) (hi : s.sm.image = image) :
    EventsOk (staleExpiry s).lp image := by
  unfold staleExpiry
  split
  · exact evaluateAttn_events h.1 hi
  · exact h
  · exact h

end Sys2Proof.Machine
end

section
/-!
PROOFS. The queues of the cue sequencer and the fade pool keep their sizes, and the requests stay distinct (R36, R47,
R58).
-/

namespace Sys2Proof.Machine

variable {s t : State}

/-! ## The outgoing requests (R36) -/

/-- At most four requests, no two of equal kind and cue. -/
def RequestsOk (l : List Request) : Prop :=
  l.length ≤ 4 ∧ l.Pairwise (fun x y => ¬(x.kind = y.kind ∧ x.cue = y.cue))

theorem RequestsOk.nil : RequestsOk [] := ⟨Nat.zero_le _, .nil⟩

theorem RequestsOk.sublist {l m : List Request} (h : RequestsOk m) (hs : l.Sublist m) : RequestsOk l :=
  ⟨hs.length_le.trans h.1, h.2.sublist hs⟩

theorem RequestsOk.append {l : List Request} {r : Request} (h : RequestsOk l) (hl : l.length < 4)
    (hn : ∀ x ∈ l, ¬(x.kind = r.kind ∧ x.cue = r.cue)) : RequestsOk (l ++ [r]) := by
  refine ⟨by simp; omega, List.pairwise_append.mpr ⟨h.2, List.pairwise_singleton _ _, fun x hx y hy => ?_⟩⟩
  rw [List.mem_singleton] at hy
  exact hy ▸ hn x hx

theorem RequestsOk.markSent {l : List Request} (h : RequestsOk l) : RequestsOk (markSent l) := by
  cases l with
  | nil => exact h
  | cons r rest =>
    obtain ⟨hl, hp⟩ := h
    rw [List.pairwise_cons] at hp
    exact ⟨hl, List.pairwise_cons.mpr hp⟩

/-- The requests distinct and bounded, and at most four incoming entries (R36, R47). -/
def CuesOk (cq : CueSequencer) : Prop := RequestsOk cq.outgoing ∧ cq.incoming.length ≤ 4

theorem CuesOk.withOutgoing {cq : CueSequencer} {l : List Request} (h : CuesOk cq) (hl : RequestsOk l) :
    CuesOk { cq with outgoing := l } := ⟨hl, h.2⟩

theorem offerRequest_cues (k : CueKind) (c : CueNumber) (o : OriginKind) (h : CuesOk s.cq) :
    CuesOk (offerRequest k c o s).1.cq := by
  rcases offerRequest_cases s k c o with ⟨ho, -⟩ | ⟨ho, -⟩ | ⟨ho, hl, hn⟩ <;> rw [ho]
  · exact h
  · exact h
  · exact h.withOutgoing (h.1.append hl hn)

theorem requestFire_cues (c : CueNumber) (o : OriginKind) (h : CuesOk s.cq) : CuesOk (requestFire c o s).cq := by
  have ho := offerRequest_cues .fire c o h
  unfold requestFire
  split <;> rename_i heq <;> rw [heq] at ho <;> exact ho

/-! ## The incoming queue (R47) -/

theorem length_tail_le (l : List GoEntry) : l.tail.length ≤ l.length := by
  rw [List.length_tail]
  exact Nat.sub_le _ _

theorem markHead_length (l : List GoEntry) : (markHead l).length = l.length := by
  cases l <;> rfl

/-- The expander takes entries from the incoming queue and leaves the requests alone. -/
theorem serveExpander_cues (n : Nat) (h : CuesOk s.cq) : CuesOk (serveExpander n s).cq := by
  induction n generalizing s with
  | zero => exact h
  | succ n ih =>
    unfold serveExpander
    split
    · split
      · split
        · exact ih ⟨h.1, (length_tail_le _).trans h.2⟩
        · exact ⟨h.1, (markHead_length _).trans_le h.2⟩
      · split <;> exact h
    · exact h

theorem runExpander_cues (h : CuesOk s.cq) : CuesOk (runExpander s).cq := serveExpander_cues _ h

theorem bufferOnFire_cues (c : CueNumber) (h : CuesOk s.cq) : CuesOk (bufferOnFire c s).cq := by
  unfold bufferOnFire
  split
  · split
    · exact ⟨h.1, (markHead_length _).trans_le h.2⟩
    · exact h
  · split
    · exact ⟨h.1, (length_tail_le _).trans h.2⟩
    · exact h
  · exact h
  · exact h

theorem expireAtOnce_cues (h : CuesOk s.cq) : CuesOk (expireAtOnce s).cq := by
  unfold expireAtOnce
  split
  · split
    · exact requestFire_cues _ _ h
    · exact h
  · exact h

/-- An accepted FIRE finds room in the incoming queue (R44). -/
theorem takeFire_cues (c : CueNumber) (n : Nat) (o : OriginKind) (h : CuesOk s.cq) :
    CuesOk (takeFire c n o s).cq := by
  unfold takeFire
  split
  · exact h
  · split
    · exact h
    · split
      · exact h
      · rename_i hroom
        have hlen : (s.cq.incoming ++ [({ cue := c, expanding := false } : GoEntry)]).length ≤ 4 := by
          simp [Config.incomingSize] at hroom ⊢
          omega
        exact expireAtOnce_cues (runExpander_cues
          (bufferOnFire_cues (s := { s with cq := { s.cq with
            incoming := s.cq.incoming ++ [{ cue := c, expanding := false }], last := some c, since := 0 } }) c
            ⟨h.1, hlen⟩))

theorem takeStandby_cues (c : CueNumber) (h : CuesOk s.cq) : CuesOk (takeStandby c s).cq := by
  refine runExpander_cues ?_
  unfold discardPrefetch
  split <;> exact h

theorem takeCue_cues (k : CueKind) (c : CueNumber) (n : Nat) (o : OriginKind) (h : CuesOk s.cq) :
    CuesOk (takeCue k c n o s).cq := by
  unfold takeCue
  split
  · exact h
  · exact takeFire_cues c n o h
  · exact takeFire_cues c n o h
  · exact takeStandby_cues c h
  · exact takeStandby_cues c h
  · exact h

theorem expireFollow_cues (c : CueNumber) (h : CuesOk s.cq) : CuesOk (expireFollow c s).cq := by
  unfold expireFollow
  dsimp only
  split
  · exact takeFire_cues _ _ _ h
  · exact requestFire_cues _ _ h

theorem cueFrameEnd_cues (k : CueKind) (o : OriginKind) (c : CueNumber) (h : CuesOk s.cq) :
    CuesOk (cueFrameEnd k o c s).cq :=
  takeCue_cues k c _ o (h.withOutgoing (h.1.sublist List.eraseP_sublist))

/-! ## The owners of frames -/

@[simp] theorem clearOrphanFlag_cq (k : StopKind) (p : Peer) (s : State) : (clearOrphanFlag k p s).cq = s.cq := by
  unfold clearOrphanFlag
  split <;> rfl

@[simp] theorem stopFrameEnd_cq (release : Bool) (k : StopKind) (target : Station) (s : State) :
    (stopFrameEnd release k target s).cq = s.cq := by
  unfold stopFrameEnd
  dsimp only
  repeat' split
  all_goals simp

@[simp] theorem masterFrameEnd_cq (ch : Channel) (sent : Option (Position × Bool)) (s : State) :
    (masterFrameEnd ch sent s).cq = s.cq := rfl

@[simp] theorem groupFrameEnd_cq (completed : Bool) (g : Group) (mute : Bool) (position : Position) (s : State) :
    (groupFrameEnd completed g mute position s).cq = s.cq := by
  unfold groupFrameEnd
  split <;> rfl

theorem frameEnd_cues (completed : Bool) (p : Payload) (h : CuesOk s.cq) : CuesOk (frameEnd completed p s).cq := by
  cases p with
  | stop release k target => simpa [frameEnd] using h
  | cue k o c => exact cueFrameEnd_cues k o c h
  | group g m x => simpa [frameEnd] using h
  | state x a b l => exact h

theorem settle_cues (h : CuesOk s.cq) : CuesOk (settle s).cq := by
  refine settle_keeps (P := fun t => CuesOk t.cq) (fun s c t _ hone hs => ?_) h
  rcases abandonOne_cases hone with ⟨f, -, rfl⟩ | ⟨p, -, rfl⟩ | ⟨r, -, rest, hsub, rfl⟩ | ⟨ch, -, rfl⟩ | rfl
  · exact frameEnd_cues _ _ (by simpa using hs)
  · exact frameEnd_cues _ _ hs
  · exact takeCue_cues _ _ _ _ (hs.withOutgoing (hs.1.sublist hsub))
  · exact hs
  · exact hs

/-! ## The commands of the bus -/

theorem winArbitration_cues (h : CuesOk s.cq) : CuesOk (winArbitration s).cq := by
  obtain ⟨bc, o, r, hw, ho, -⟩ := winArbitration_frame s
  rw [hw]
  rcases ho with rfl | rfl
  · exact h
  · exact h.withOutgoing h.1.markSent

theorem frameComplete_cues (h : CuesOk s.cq) : CuesOk (frameComplete s).cq := by
  have hw := winArbitration_cues h
  unfold frameComplete
  split
  · exact frameEnd_cues _ _ (by simpa using hw)
  · exact h

theorem attemptFailed_cues (place : FailurePlace) (h : CuesOk s.cq) : CuesOk (attemptFailed place s).cq := by
  have hw := winArbitration_cues h
  unfold attemptFailed
  dsimp only
  split
  · split
    · split
      · simpa using hw
      · exact frameEnd_cues _ _ (by simpa using hw)
    · exact hw
  · exact h

theorem presenceNotice_cq (p : Peer) (s : State) : (presenceNotice p s).cq = s.cq := by
  unfold presenceNotice
  dsimp only
  repeat' split
  all_goals rfl

theorem noticed_cues (p : Peer) (c : FrameClass) (h : CuesOk s.cq) : CuesOk (noticed p c s).cq := by
  unfold noticed duplicateNotice
  split
  · split
    · rwa [presenceNotice_cq]
    · refine settle_cues ?_
      rw [post_cq]
      rwa [presenceNotice_cq]
  · rwa [presenceNotice_cq]

@[simp] theorem applyStop_cq (release : Bool) (k : StopKind) (target : Station) (p : Peer) (s : State) :
    (applyStop release k target p s).cq = s.cq := by
  unfold applyStop
  repeat' split
  all_goals simp

@[simp] theorem applyState_cq (solo a b : Bool) (last : Option CueNumber) (p : Peer) (s : State) :
    (applyState solo a b last p s).cq = s.cq := by
  unfold applyState
  dsimp only
  repeat' split
  all_goals simp

@[simp] theorem applyGroup_cq (g : Group) (mute : Bool) (position : Position) (p : Peer) (s : State) :
    (applyGroup g mute position p s).cq = s.cq := by
  unfold applyGroup
  repeat' split
  all_goals rfl

theorem handFrame_cues (payload : Payload) (p : Peer) (h : CuesOk s.cq) : CuesOk (handFrame payload p s).cq := by
  cases payload with
  | stop r k target => simpa [handFrame] using h
  | cue k o c => exact takeCue_cues k c _ o (h.withOutgoing (h.1.sublist List.filter_sublist))
  | group g m x => simpa [handFrame] using h
  | state x a b l => simpa [handFrame] using h

theorem frameReceived_cues (groups : List (BitVec 5)) (h : CuesOk s.cq) : CuesOk (frameReceived groups s).cq := by
  cases hr : readsFrame s with
  | false => rwa [frameReceived_of_not_reads s groups hr]
  | true =>
    rcases frameReceived_cases s groups hr with ⟨fault, -, ht⟩ | ⟨p, repeated, payload, -, ht⟩ <;> rw [ht]
    · exact h
    · have hn := noticed_cues (s := frameOver (lastRun groups) s) p (payloadClass payload) h
      rw [takeFrame_eq]
      split
      · exact hn
      · exact handFrame_cues payload p hn

theorem busFault_cq (s : State) : (busFault s).cq = s.cq := by
  unfold busFault
  split <;> rfl

theorem busRestored_cq (s : State) : (busRestored s).cq = s.cq := by
  unfold busRestored
  split <;> rfl

/-! ## The keys, the port and the station -/

theorem muteKeyPress_cq (ch : Channel) (s : State) : (muteKeyPress ch s).cq = s.cq := by
  unfold muteKeyPress
  split <;> rfl

theorem soloKeyPress_cq (ch : Channel) (s : State) : (soloKeyPress ch s).cq = s.cq := by
  unfold soloKeyPress
  dsimp only
  repeat' split
  all_goals simp

theorem goKeyPress_cues (h : CuesOk s.cq) : CuesOk (goKeyPress s).cq := by
  unfold goKeyPress
  split
  · exact h
  · split
    · exact h
    · split
      · exact h
      · exact requestFire_cues _ _ h

theorem keyScan_cues (mute solo : BitVec 16) (go : Bool) (h : CuesOk s.cq) :
    CuesOk (keyScan mute solo go s).cq := by
  unfold keyScan
  dsimp only
  have hcq : ∀ (mutes solos : List Channel) (t : State),
      (solos.foldl (fun t ch => soloKeyPress ch t) (mutes.foldl (fun t ch => muteKeyPress ch t) t)).cq = t.cq :=
    fun mutes solos t => (foldl_frame (·.cq) (fun t ch => soloKeyPress_cq ch t) solos _).trans
      (foldl_frame (·.cq) (fun t ch => muteKeyPress_cq ch t) mutes t)
  repeat' split
  · exact goKeyPress_cues (by rwa [hcq])
  · rwa [hcq]
  · exact h

theorem byStateRow_cues (row : PortRow) {own : State} (hown : CuesOk own.cq) (h : CuesOk s.cq) :
    CuesOk (byStateRow row s own).cq := by
  rcases byStateRow_cases row s own with ⟨-, hb⟩ | ⟨-, ⟨r, -, hb⟩ | ⟨-, hb⟩⟩ <;> rw [hb]
  · exact h
  · exact h
  · exact hown

theorem portRequest_cues (k : CueKind) (c : CueNumber) (h : CuesOk s.cq) : CuesOk (portRequest k c s).cq := by
  have ho := offerRequest_cues k c .port h
  unfold portRequest
  split <;> rename_i heq <;> rw [heq] at ho <;> exact ho

theorem portGo_cues (h : CuesOk s.cq) : CuesOk (portGo s).cq := by
  refine byStateRow_cues _ ?_ h
  split
  · exact h
  · split
    · exact h
    · split
      · exact h
      · exact portRequest_cues _ _ h

theorem portFire_cues (arg : BitVec 24) (h : CuesOk s.cq) : CuesOk (portFire arg s).cq := by
  refine byStateRow_cues _ ?_ h
  split
  · exact h
  · split
    · exact h
    · split
      · exact h
      · exact portRequest_cues _ _ h

theorem portStandby_cues (arg : BitVec 24) (h : CuesOk s.cq) : CuesOk (portStandby arg s).cq := by
  refine byStateRow_cues _ ?_ h
  split
  · exact h
  · split
    · exact h
    · exact portRequest_cues _ _ h

theorem strips_cq (l : List Channel) (s : State) : (l.foldl stripAtRunEntry s).cq = s.cq :=
  congrArg (·.cq) (sansFades_strips s l)

theorem enterRun_cues (h : CuesOk s.cq) : CuesOk (enterRun s).cq := by
  have hp : CuesOk (runPosted s).cq := by
    refine runExpander_cues ?_
    rw [strips_cq]
    exact h
  rw [enterRun_eq]
  repeat' split
  · exact expireFollow_cues _ hp
  · exact hp
  · exact hp

theorem listenExpiry_cues (h : CuesOk s.cq) : CuesOk (listenExpiry s).cq := by
  unfold listenExpiry cueSequencerCatchup
  split
  · split <;> exact h
  · exact h

theorem expansionComplete_cues (h : CuesOk s.cq) : CuesOk (expansionComplete s).cq := by
  unfold expansionComplete
  split
  · split
    · exact runExpander_cues ⟨h.1, (length_tail_le _).trans h.2⟩
    · exact h
  · exact h
  · exact h
  · exact h

theorem prefetchComplete_cues (h : CuesOk s.cq) : CuesOk (prefetchComplete s).cq := by
  unfold prefetchComplete
  split <;> exact h

/-! ## The fade pool (R58) -/

theorem takeOver_length_le (ch : Channel) (pool : List PoolRecord) : (takeOver ch pool).length ≤ pool.length :=
  List.length_filter_le _ _

/-- A start replaces its record or drops it. -/
theorem startWaiting_pool_length (before : List PoolRecord) (r : PoolRecord) (after : List PoolRecord) (s : State) :
    (startWaiting before r after s).fe.pool.length ≤ max (before ++ r :: after).length s.fe.pool.length := by
  unfold startWaiting
  split
  · simp
  · split
    · have := takeOver_length_le r.channel (before ++ after)
      simp at this ⊢
      omega
    · have h1 := takeOver_length_le r.channel before
      have h2 := takeOver_length_le r.channel after
      simp
      omega
  · exact Nat.le_max_right _ _

theorem splitDue_eq {pool before after : List PoolRecord} {r : PoolRecord}
    (h : splitDue pool = some (before, r, after)) :
    pool = before ++ r :: after ∧ r.isDue = true ∧ ∀ x ∈ before, x.isDue = false := by
  induction pool generalizing before with
  | nil => simp [splitDue] at h
  | cons x rest ih =>
    unfold splitDue at h
    split at h
    · rename_i hx
      cases h
      exact ⟨rfl, hx, by simp⟩
    · rename_i hx
      simp only [Option.map_eq_some_iff] at h
      obtain ⟨⟨b, d, a⟩, hs, he⟩ := h
      cases he
      obtain ⟨hp, hd, hb⟩ := ih hs
      refine ⟨by rw [hp]; rfl, hd, fun y hy => ?_⟩
      rcases List.mem_cons.mp hy with rfl | hy
      · simpa using hx
      · exact hb y hy

theorem startDue_pool_length (n : Nat) (h : s.fe.pool.length ≤ 64) : (startDue n s).fe.pool.length ≤ 64 := by
  induction n generalizing s with
  | zero => exact h
  | succ n ih =>
    unfold startDue
    split
    · rename_i before r after hs
      refine ih ((startWaiting_pool_length before r after s).trans ?_)
      rw [← (splitDue_eq hs).1]
      exact max_le h h
    · exact h

theorem snap_pool_length (origin : CueNumber) (m : Move) (s : State) :
    (snap origin m s).fe.pool.length ≤ s.fe.pool.length := by
  unfold snap
  dsimp only
  rw [post_fe]
  split
  · rw [setLevelAtOnce_pool]
    exact takeOver_length_le _ _
  · exact le_rfl
  · exact le_rfl

theorem hasRoom_iff {pool : List PoolRecord} : hasRoom pool = true ↔ pool.length < 64 := by
  exact decide_eq_true_iff

theorem commitMove_pool_length (origin : CueNumber) (m : Move) (h : s.fe.pool.length ≤ 64) :
    (commitMove origin s m).fe.pool.length ≤ 64 := by
  unfold commitMove
  split
  · exact h
  · split
    · unfold startMove
      split
      · exact h
      · exact h
      · split
        · rw [setLevelAtOnce_pool]
          exact (takeOver_length_le _ _).trans h
        · dsimp only
          split
          · rename_i hroom
            have := hasRoom_iff.mp hroom
            simp
            omega
          · exact (snap_pool_length _ _ _).trans h
    · split
      · rename_i hroom
        have := hasRoom_iff.mp hroom
        simp
        omega
      · exact (snap_pool_length _ _ _).trans h

theorem commit_pool_length (h : s.fe.pool.length ≤ 64) : (commit s).fe.pool.length ≤ 64 :=
  foldl_keeps (P := fun t : State => t.fe.pool.length ≤ 64)
    (fun _ e ht => foldl_keeps (P := fun u : State => u.fe.pool.length ≤ 64)
      (fun _ m hu => commitMove_pool_length e.cue m hu) e.moves ht) s.fe.commits h

theorem fadeSteps_pool_length (h : s.fe.pool.length ≤ 64) : (fadeSteps s).fe.pool.length ≤ 64 := by
  refine commit_pool_length (startDue_pool_length _ ?_)
  rw [setPool_pool, List.length_map]
  exact (List.length_filterMap_le _ _).trans h

theorem splitAt?_eq {pool before after : List PoolRecord} {r : PoolRecord} {i : Nat}
    (h : splitAt? pool i = some (before, r, after)) : pool = before ++ r :: after := by
  unfold splitAt? at h
  simp only [Option.map_eq_some_iff] at h
  obtain ⟨x, hx, he⟩ := h
  cases he
  obtain ⟨hi, rfl⟩ := List.getElem?_eq_some_iff.mp hx
  rw [← List.drop_eq_getElem_cons hi, List.take_append_drop]

theorem delayCountExpiry_pool_length (slot : Fin 64) (h : s.fe.pool.length ≤ 64) :
    (delayCountExpiry slot s).fe.pool.length ≤ 64 := by
  unfold delayCountExpiry
  split
  · split
    · rename_i before r after hs
      refine (startWaiting_pool_length before r after s).trans ?_
      rw [← splitAt?_eq hs]
      exact max_le h h
    · exact h
  · exact h

theorem fadeComplete_pool_length (slot : Fin 64) (h : s.fe.pool.length ≤ 64) :
    (fadeComplete slot s).fe.pool.length ≤ 64 := by
  unfold fadeComplete
  split
  · split
    · rename_i before r after hs
      split
      · have := congrArg List.length (splitAt?_eq hs)
        simp at this ⊢
        omega
      · exact h
      · exact h
    · exact h
  · exact h

theorem touchedAct_pool_length (ch : Channel) (s : State) :
    (touchedAct ch s).fe.pool.length ≤ s.fe.pool.length := by
  unfold touchedAct touchNotice
  dsimp only
  repeat' split
  · exact List.length_filter_le _ _
  · exact le_rfl
  · exact le_rfl

theorem freeAct_pool (ch : Channel) (s : State) : (freeAct ch s).fe.pool = s.fe.pool := by
  unfold freeAct releaseNotice
  dsimp only
  repeat' split
  all_goals rfl

theorem stripAtRunEntry_pool_length (s : State) (ch : Channel) :
    (stripAtRunEntry s ch).fe.pool.length ≤ s.fe.pool.length := by
  rw [stripAtRunEntry_eq]
  split
  · exact touchedAct_pool_length _ _
  · exact le_rfl

theorem enterRun_pool_length (h : s.fe.pool.length ≤ 64) : (enterRun s).fe.pool.length ≤ 64 := by
  have hp : (runPosted s).fe.pool.length ≤ 64 := by
    rw [runPosted, post_fe, runStarted, runExpander_pool]
    exact foldl_keeps (P := fun t : State => t.fe.pool.length ≤ 64)
      (fun t ch ht => (stripAtRunEntry_pool_length t ch).trans ht) channels h
  rw [enterRun_eq]
  repeat' split
  · rwa [expireFollow_pool]
  · exact hp
  · exact hp

end Sys2Proof.Machine
end

section
/-!
PROOFS. Every step keeps show memory, the queues, the image in force and ATTN in order (O55).
-/

namespace Sys2Proof.Machine

variable {s t : State}

/-- Show memory canonical, and the image in force what validation made of it (R17, R29, R143). -/
def MemoryOk (s : State) : Prop := MemoryInOrder s ∧ ImageInForce s

theorem MemoryOk.of_eq (h : MemoryOk s) (hm : t.sm = s.sm) (ho : t.lp.offset = s.lp.offset)
    (hs : t.sc.state = s.sc.state) : MemoryOk t := by
  simpa only [MemoryOk, MemoryInOrder, ImageInForce, loadedBytes, hm, ho, hs] using h

/-- From an image in force to an image in force the station state may change. -/
theorem MemoryOk.of_state (h : MemoryOk s) (hm : t.sm = s.sm) (ho : t.lp.offset = s.lp.offset)
    (hs : (t.sc.state = .listen ∨ t.sc.state = .catchup ∨ t.sc.state = .run) ↔
      (s.sc.state = .listen ∨ s.sc.state = .catchup ∨ s.sc.state = .run)) : MemoryOk t := by
  simpa only [MemoryOk, MemoryInOrder, ImageInForce, loadedBytes, hm, ho, hs] using h

/-- Without an image the station is in LOAD, VALIDATING or LOADFAULT. -/
theorem MemoryOk.of_no_image (hm : MemoryInOrder t) (hn : t.sm.image = none)
    (hs : t.sc.state = .load ∨ t.sc.state = .validating ∨ t.sc.state = .loadFault) : MemoryOk t := by
  refine ⟨hm, ?_, by simp [hn]⟩
  rcases hs with hs | hs | hs <;> simp [hn, hs]

theorem ImageInForce.image_none (h : ImageInForce s) (hl : s.sc.state ≠ .listen) (hc : s.sc.state ≠ .catchup)
    (hr : s.sc.state ≠ .run) : s.sm.image = none := by
  have := h.1
  simpa [hl, hc, hr] using this

/-- What the statement about every step keeps, in its four independent parts. -/
structure InOrder (s : State) : Prop where
  memory : MemoryOk s
  events : EventsOk s.lp s.sm.image
  cues : CuesOk s.cq
  pool : s.fe.pool.length ≤ 64

theorem inOrder_iff : InOrder s ↔
    MemoryInOrder s ∧ QueuesBounded s ∧ RequestsDistinct s ∧ ImageInForce s ∧ AttnTrue s := by
  constructor
  · rintro ⟨⟨hm, hi⟩, he, ⟨⟨ho, hd⟩, hin⟩, hp⟩
    obtain ⟨hq, ha⟩ := (eventsOk_iff s).mp he
    exact ⟨hm, ⟨ho, hin, hp, hq⟩, hd, hi, ha⟩
  · rintro ⟨hm, ⟨ho, hin, hp, hq⟩, hd, hi, ha⟩
    exact ⟨⟨hm, hi⟩, (eventsOk_iff s).mpr ⟨hq, ha⟩, ⟨⟨ho, hd⟩, hin⟩, hp⟩

namespace InOrder

/-! ## Commands of one family -/

theorem settled (h : InOrder s) : InOrder (settle s) where
  memory := h.memory.of_eq (settle_sm s) (settle_offset s) (settle_state s)
  events := by
    rw [settle_sm]
    exact settle_events h.events rfl
  cues := settle_cues h.cues
  pool := (settle_pool s).symm ▸ h.pool

theorem of_setBc (h : InOrder s) (ht : ∃ bc, t = { s with bc := bc }) : InOrder t := by
  obtain ⟨bc, rfl⟩ := ht
  exact ⟨h.memory, h.events, h.cues, h.pool⟩

theorem of_sansBus (h : InOrder s) (hv : sansBus t = sansBus s) (he : EventsOk t.lp s.sm.image) (hc : CuesOk t.cq) :
    InOrder t where
  memory := h.memory.of_eq (congrArg (·.sm) hv) (congrArg (·.lp.offset) hv) (congrArg (·.sc.state) hv)
  events := (show t.sm = s.sm from congrArg (·.sm) hv) ▸ he
  cues := hc
  pool := (show t.fe.pool = s.fe.pool from congrArg (·.fe.pool) hv) ▸ h.pool

theorem of_sansFades (h : InOrder s) (hv : sansFades t = sansFades s) (he : EventsOk t.lp s.sm.image)
    (hp : t.fe.pool.length ≤ 64) : InOrder t where
  memory := h.memory.of_eq (congrArg (·.sm) hv) (congrArg (·.lp.offset) hv) (congrArg (·.sc.state) hv)
  events := (show t.sm = s.sm from congrArg (·.sm) hv) ▸ he
  cues := (show t.cq = s.cq from congrArg (·.cq) hv) ▸ h.cues
  pool := hp

theorem of_sansGroups (h : InOrder s) (hv : sansGroups t = sansGroups s) (he : EventsOk t.lp s.sm.image) :
    InOrder t where
  memory := h.memory.of_eq (congrArg (·.sm) hv) (congrArg (·.lp.offset) hv) (congrArg (·.sc.state) hv)
  events := (show t.sm = s.sm from congrArg (·.sm) hv) ▸ he
  cues := (show t.cq = s.cq from congrArg (·.cq) hv) ▸ h.cues
  pool := (show t.fe.pool = s.fe.pool from congrArg (·.fe.pool) hv) ▸ h.pool

/-- A command that keeps `foundation` and the pool, and the events and the cues in order. -/
theorem of_foundation (h : InOrder s) (hv : foundation t = foundation s) (he : EventsOk t.lp s.sm.image)
    (hc : CuesOk t.cq) (hp : t.fe.pool.length ≤ 64) : InOrder t := by
  simp only [foundation, Prod.mk.injEq] at hv
  obtain ⟨hm, ho, -, -, hs, -⟩ := hv
  exact ⟨h.memory.of_eq hm ho hs, hm ▸ he, hc, hp⟩

/-! ## The strips -/

theorem touchAsserted (h : InOrder s) (ch : Channel) : InOrder (touchAsserted ch s) := by
  refine h.of_sansFades (sansFades_touchAsserted s ch) (by simpa using h.events) (le_of_eq_of_le ?_ h.pool)
  unfold Machine.touchAsserted setTouch setTouchInput
  dsimp only
  repeat' split
  all_goals rfl

theorem touchAbsent (h : InOrder s) (ch : Channel) : InOrder (touchAbsent ch s) := by
  refine h.of_sansFades (sansFades_touchAbsent s ch) (by simpa using h.events) (le_of_eq_of_le ?_ h.pool)
  unfold Machine.touchAbsent
  dsimp only
  repeat' split
  all_goals first | rfl | exact congrArg List.length (freeAct_pool ch _)

theorem touchedArrival (h : InOrder s) (ch : Channel) : InOrder (touchedArrival ch s) := by
  refine h.of_sansFades (sansFades_touchedArrival s ch) (by simpa using h.events) (le_trans ?_ h.pool)
  unfold Machine.touchedArrival
  repeat' split
  · exact touchedAct_pool_length ch (setTouch s ch .touched)
  all_goals exact le_rfl

theorem freeArrival (h : InOrder s) (ch : Channel) : InOrder (freeArrival ch s) := by
  refine h.of_sansFades (sansFades_freeArrival s ch) (by simpa using h.events) (le_of_eq_of_le ?_ h.pool)
  unfold Machine.freeArrival
  repeat' split
  all_goals first | rfl | exact congrArg List.length (freeAct_pool ch _)

theorem conversion (h : InOrder s) (ch : Channel) (m : Position) : InOrder (conversion ch m s) := by
  refine h.of_sansFades (sansFades_conversion s ch m) (by simpa using h.events) (le_of_eq_of_le ?_ h.pool)
  unfold Machine.conversion
  repeat' split
  all_goals rfl

theorem restEnd (h : InOrder s) (ch : Channel) : InOrder (restEnd ch s) := by
  refine h.of_sansFades (sansFades_restEnd s ch) (restEnd_events ch h.events rfl) (le_of_eq_of_le ?_ h.pool)
  unfold Machine.restEnd
  repeat' split
  all_goals first | rfl | rw [servoAct_frame]

theorem motorStall (h : InOrder s) (ch : Channel) : InOrder (motorStall ch s) := by
  refine h.of_sansFades (sansFades_motorStall s ch) (motorStall_events ch h.events rfl) (le_of_eq_of_le ?_ h.pool)
  unfold Machine.motorStall
  dsimp only
  split <;> rfl

theorem keyScan (h : InOrder s) (mute solo : BitVec 16) (go : Bool) : InOrder (keyScan mute solo go s) := by
  have hv := sansKeys_keyScan s mute solo go
  exact h.of_foundation (show foundation (sansKeys _) = foundation (sansKeys _) from congrArg foundation hv)
    (keyScan_events mute solo go h.events rfl) (keyScan_cues mute solo go h.cues)
    ((keyScan_fe s mute solo go).symm ▸ h.pool)

theorem clearMotor (h : InOrder s) (arg : Byte) : InOrder (portClearMotor arg s) := by
  have hcq : (portClearMotor arg s).cq = s.cq :=
    view_byStateRow (view := fun u => u.cq) _ (by split <;> rfl) fun _ => rfl
  have hfe : (portClearMotor arg s).fe = s.fe :=
    view_byStateRow (view := fun u => u.fe) _ (by split <;> rfl) fun _ => rfl
  exact h.of_foundation (foundation_portClearMotor arg s) (portClearMotor_events arg h.events) (hcq ▸ h.cues)
    (hfe ▸ h.pool)

/-! ## The output point -/

theorem outputPoint (h : InOrder s) : InOrder (outputPoint s) := by
  have he := outputPoint_events h.events rfl
  have hv : sansFades (Machine.outputPoint s) = sansFades (captureLink (gainLaw s)) := sansFades_servo _
  refine h.of_foundation ?_ he ?_ ?_
  · refine (show foundation (sansFades _) = foundation (sansFades _) from congrArg foundation hv).trans ?_
    rw [captureLink, gainLaw_frame]
    rfl
  · have hc : (Machine.outputPoint s).cq = s.cq := by
      refine (show _ = (captureLink (gainLaw s)).cq from congrArg (·.cq) hv).trans ?_
      rw [captureLink, gainLaw_frame]
    exact hc ▸ h.cues
  · have hf : (Machine.outputPoint s).fe = s.fe := by
      rw [Machine.outputPoint, servo_frame, captureLink, gainLaw_frame]
    exact hf ▸ h.pool

/-! ## Stop lines and the port -/

/-- A command of the stop lines or the port keeps the cues and the pool with a view of both. -/
theorem of_stops (h : InOrder s) (hv : foundation t = foundation s) (he : EventsOk t.lp s.sm.image)
    (hc : (t.cq, t.fe) = (s.cq, s.fe)) : InOrder t := by
  rw [Prod.mk.injEq] at hc
  exact h.of_foundation hv he (hc.1 ▸ h.cues) (hc.2 ▸ h.pool)

theorem lineAssertion (h : InOrder s) (k : StopKind) : InOrder (lineAssertion k s) := by
  refine h.of_stops (foundation_lineAssertion k s) (lineAssertion_events k h.events rfl) ?_
  unfold Machine.lineAssertion takeAssertion withdrawStop
  dsimp only
  repeat' split
  all_goals simp

theorem lineRelease (h : InOrder s) (k : StopKind) : InOrder (lineRelease k s) := by
  refine h.of_stops (foundation_lineRelease k s) (lineRelease_events k h.events rfl) ?_
  unfold Machine.lineRelease
  dsimp only
  repeat' split
  all_goals simp

theorem clearOrphanFlag_fe (k : StopKind) (p : Peer) (s : State) : (clearOrphanFlag k p s).fe = s.fe := by
  unfold clearOrphanFlag
  split <;> rfl

theorem stopRelease (h : InOrder s) (kind target : Byte) : InOrder (portStopRelease kind target s) := by
  refine h.of_stops (foundation_portStopRelease kind target s) (portStopRelease_events kind target h.events rfl) ?_
  refine view_byStateRow (view := fun u => (u.cq, u.fe)) _ ?_ fun _ => rfl
  unfold portAcknowledge portOrphan
  dsimp only
  repeat' split
  all_goals simp [clearOrphanFlag_fe]

theorem portRequest_fe (k : CueKind) (c : CueNumber) (s : State) : (portRequest k c s).fe = s.fe := by
  unfold portRequest
  rcases offerRequest_cases s k c .port with ⟨ho, -⟩ | ⟨ho, -⟩ | ⟨ho, -⟩ <;> rw [ho] <;> rfl

theorem go (h : InOrder s) : InOrder (portGo s) := by
  refine h.of_foundation (foundation_portGo s) (portGo_events h.events rfl) (portGo_cues h.cues)
    (le_of_eq_of_le (congrArg (fun fe : FadeEngine => fe.pool.length) ?_) h.pool)
  refine view_byStateRow (view := fun u => u.fe) _ ?_ fun _ => rfl
  repeat' split
  all_goals first | rfl | exact portRequest_fe _ _ _

theorem fire (h : InOrder s) (arg : BitVec 24) : InOrder (portFire arg s) := by
  refine h.of_foundation (foundation_portFire arg s) (portFire_events arg h.events) (portFire_cues arg h.cues)
    (le_of_eq_of_le (congrArg (fun fe : FadeEngine => fe.pool.length) ?_) h.pool)
  refine view_byStateRow (view := fun u => u.fe) _ ?_ fun _ => rfl
  repeat' split
  all_goals first | rfl | exact portRequest_fe _ _ _

theorem standby (h : InOrder s) (arg : BitVec 24) : InOrder (portStandby arg s) := by
  refine h.of_foundation (foundation_portStandby arg s) (portStandby_events arg h.events)
    (portStandby_cues arg h.cues) (le_of_eq_of_le (congrArg (fun fe : FadeEngine => fe.pool.length) ?_) h.pool)
  refine view_byStateRow (view := fun u => u.fe) _ ?_ fun _ => rfl
  repeat' split
  all_goals first | rfl | exact portRequest_fe _ _ _

/-- A read changes the load port alone. -/
theorem of_read (h : InOrder s) (hv : foundation t = foundation s) (he : EventsOk t.lp s.sm.image)
    (hl : ∃ lp, t = { s with lp := lp }) : InOrder t := by
  obtain ⟨lp, rfl⟩ := hl
  exact h.of_stops hv he rfl

/-! ## Loading and the resets -/

theorem loadBegin (h : InOrder s) : InOrder (loadBegin s) := by
  unfold Machine.loadBegin
  rcases byStateRow_cases .loadBegin s _ with ⟨-, hb⟩ | ⟨-, ⟨r, -, hb⟩ | ⟨hrow, hb⟩⟩ <;> rw [hb]
  · exact h
  · exact ⟨h.memory, h.events, h.cues, h.pool⟩
  · have hn : s.sm.image = none := by
      refine h.memory.2.image_none ?_ ?_ ?_ <;> intro hs <;> simp [hs, stateRow] at hrow
    refine ⟨.of_no_image ⟨rfl, Nat.zero_le _⟩ rfl (.inl rfl), ?_, h.cues, h.pool⟩
    have he := h.events
    rw [hn] at he
    exact he

/-- A LOAD DATA stores below 65,536 alone. -/
theorem storeData (h : InOrder s) (hs : s.sc.state = .load) (data : List Byte) : InOrder (storeData data s) := by
  have hn : s.sm.image = none := h.memory.2.image_none (by simp [hs]) (by simp [hs]) (by simp [hs])
  unfold Machine.storeData
  dsimp only
  split
  · exact ⟨h.memory, h.events, h.cues, h.pool⟩
  · refine ⟨.of_no_image ⟨writeBytes_wf _ _ h.memory.1.1, ?_⟩ hn (.inl hs), h.events, h.cues, h.pool⟩
    have := h.memory.1.2
    show s.lp.offset + (data.take (Config.memorySize - s.lp.offset)).length ≤ Config.memorySize
    rw [List.length_take]
    omega

theorem loadData (h : InOrder s) (length : Byte) (data : List Byte) : InOrder (loadData length data s) := by
  unfold Machine.loadData
  split
  · exact h
  · rcases byStateRow_cases .load s _ with ⟨-, hb⟩ | ⟨-, ⟨r, -, hb⟩ | ⟨hrow, hb⟩⟩ <;> rw [hb]
    · exact h
    · exact ⟨h.memory, h.events, h.cues, h.pool⟩
    · have hs : s.sc.state = .load := by
        cases hs : s.sc.state <;> simp [hs, stateRow] at hrow ⊢
      split
      · exact ⟨h.memory, h.events, h.cues, h.pool⟩
      · exact h.storeData hs _

theorem loadEnd (h : InOrder s) : InOrder (loadEnd s) := by
  unfold Machine.loadEnd
  rcases byStateRow_cases .load s _ with ⟨-, hb⟩ | ⟨-, ⟨r, -, hb⟩ | ⟨hrow, hb⟩⟩ <;> rw [hb]
  · exact h
  · exact ⟨h.memory, h.events, h.cues, h.pool⟩
  · have hn : s.sm.image = none := by
      refine h.memory.2.image_none ?_ ?_ ?_ <;> intro hs <;> simp [hs, stateRow] at hrow
    exact ⟨.of_no_image h.memory.1 hn (.inr (.inl rfl)), h.events, h.cues, h.pool⟩

theorem coldReset (h : InOrder s) (straps : Station) : InOrder (coldReset straps s) where
  memory := .of_no_image ⟨h.memory.1.1, Nat.zero_le _⟩ rfl (.inl rfl)
  events := ⟨Nat.zero_le _, rfl⟩
  cues := ⟨.nil, Nat.zero_le _⟩
  pool := Nat.zero_le _

theorem restart (h : InOrder s) : InOrder (portRestart s) := by
  have he : EventsOk (portRestart s).lp s.sm.image := portRestart_events h.events rfl
  unfold portRestart at he ⊢
  rcases byStateRow_cases .act s _ with ⟨-, hb⟩ | ⟨-, ⟨r, -, hb⟩ | ⟨hrow, hb⟩⟩ <;> rw [hb] at he ⊢
  · exact h
  · exact ⟨h.memory, h.events, h.cues, h.pool⟩
  · refine ⟨h.memory.of_state rfl rfl ⟨fun _ => ?_, fun _ => .inl rfl⟩, he, ⟨.nil, Nat.zero_le _⟩, Nat.zero_le _⟩
    cases hs : s.sc.state <;> simp [hs, stateRow] at hrow ⊢

/-! ## The station -/

theorem takeHeldLine (h : InOrder s) (k : StopKind) : InOrder (takeHeldLine k s) := by
  have he := takeHeldLine_events k h.events rfl
  unfold Machine.takeHeldLine at he ⊢
  split <;> rename_i hc
  · rw [if_pos hc] at he
    exact h.of_stops (foundation_of_sansMachines (sansMachines_assertFromClear s k)) he (by simp)
  · exact h

theorem validationEnd (h : InOrder s) : InOrder (validationEnd s) := by
  unfold Machine.validationEnd
  split
  · rename_i hs
    have hn : s.sm.image = none := h.memory.2.image_none (by simp [hs]) (by simp [hs]) (by simp [hs])
    split
    · rename_i image hv
      have taken : InOrder (imageTaken image s) := by
        refine ⟨⟨h.memory.1, ⟨fun _ => .inl rfl, fun _ => rfl⟩, ?_⟩, ?_, h.cues, h.pool⟩
        · rintro im ⟨⟩
          exact hv
        · exact evaluateAttn_events (s := imageLoaded image s) h.events.1 rfl
      rw [validationSucceeds_eq]
      exact (taken.takeHeldLine .a).takeHeldLine .b
    · refine ⟨.of_no_image h.memory.1 hn (.inr (.inr rfl)), ?_, h.cues, h.pool⟩
      exact post_events (s := { s with
          lp := { s.lp with lastFault := some _ }, sc := { s.sc with state := .loadFault } }) _ _ _ h.events rfl
  · exact h

theorem listenExpiry (h : InOrder s) : InOrder (listenExpiry s) := by
  have hc := listenExpiry_cues h.cues
  unfold Machine.listenExpiry at hc ⊢
  split <;> rename_i hs
  · rw [if_pos hs] at hc
    exact ⟨h.memory.of_state rfl rfl (by simp [hs]), h.events, hc, h.pool⟩
  · exact h

theorem walkEnd (h : InOrder s) : InOrder (walkEnd s) := by
  unfold Machine.walkEnd
  split
  · exact ⟨h.memory, h.events, h.cues, h.pool⟩
  · exact h

theorem lowerStop (h : InOrder s) : InOrder (lowerStop s) :=
  h.of_stops (foundation_of_sansMachines (sansMachines_lowerStop s)) (by simpa using h.events) (by simp)

theorem enterRun (h : InOrder s) (hs : runDue s = true) : InOrder (enterRun s) where
  memory := by
    have hc : s.sc.state = .catchup := by
      simp only [runDue, Bool.and_eq_true, beq_iff_eq] at hs
      exact hs.1
    exact h.memory.of_state (enterRun_sm s) (enterRun_offset s) (by simp [hc])
  events := (enterRun_sm s).symm ▸ enterRun_events h.events rfl
  cues := enterRun_cues h.cues
  pool := enterRun_pool_length h.pool

theorem runDue_lowerStop (s : State) : runDue (Machine.lowerStop s) = runDue s := by
  rw [lowerStop_eq]
  rfl

theorem runEntry (h : InOrder s) : InOrder (runEntry s) := by
  unfold Machine.runEntry
  split <;> rename_i hd
  · exact h.lowerStop.enterRun ((runDue_lowerStop s).trans hd)
  · exact h

theorem levelPoint (h : InOrder s) : InOrder (levelPoint s) := by
  have hl := h.lowerStop
  unfold Machine.levelPoint
  dsimp only
  split
  · rename_i hd
    exact hl.enterRun hd
  · split
    · exact hl.of_sansFades (sansFades_fadeSteps _) (fadeSteps_events hl.events rfl) (fadeSteps_pool_length hl.pool)
    · exact hl

/-! ## The cue sequencer and the rest -/

theorem of_cues (h : InOrder s) (hv : sansCues t = sansCues s) (he : EventsOk t.lp s.sm.image) (hc : CuesOk t.cq) :
    InOrder t :=
  h.of_sansBus (sansBus_of_sansCues hv) he hc

theorem expansionComplete (h : InOrder s) : InOrder (expansionComplete s) := by
  have hc := expansionComplete_cues h.cues
  have hv : sansCues (Machine.expansionComplete s) = sansCues s ∧ (Machine.expansionComplete s).lp = s.lp := by
    unfold Machine.expansionComplete
    repeat' split
    · exact ⟨sansCues_runExpander _, runExpander_lp _⟩
    all_goals exact ⟨rfl, rfl⟩
  exact h.of_cues hv.1 (hv.2.symm ▸ h.events) hc

theorem prefetchComplete (h : InOrder s) : InOrder (prefetchComplete s) := by
  have hc := prefetchComplete_cues h.cues
  unfold Machine.prefetchComplete at hc ⊢
  split <;> exact ⟨h.memory, h.events, h.cues, h.pool⟩

theorem followExpiry (h : InOrder s) : InOrder (followExpiry s) := by
  unfold Machine.followExpiry
  split
  · split
    · exact h.of_cues (sansCues_expireFollow s _) (expireFollow_events _ h.events rfl) (expireFollow_cues _ h.cues)
    · exact h
  · exact h

theorem stateRefresh (h : InOrder s) : InOrder (stateRefresh s) := by
  unfold Machine.stateRefresh
  split <;> exact ⟨h.memory, h.events, h.cues, h.pool⟩

theorem strobe (h : InOrder s) : InOrder (strobe s) := by
  unfold Machine.strobe
  split <;> exact ⟨h.memory, h.events, h.cues, h.pool⟩

theorem setLine (h : InOrder s) (k : StopKind) (l : StopLine) : InOrder (setLine s k l) :=
  h.of_stops (foundation_setLine k l s) (by simpa using h.events) (by simp)

theorem tickTimers (h : InOrder s) : InOrder (tickTimers s) := by
  refine ⟨h.memory, ⟨h.events.1, h.events.2.trans ?_⟩, h.cues, h.pool⟩
  show _ = (_ || (!s.lp.queue.isEmpty && tickStale s.lp.stale == .expired))
  cases s.lp.stale <;> rfl

end InOrder

/-! ## The reads change the load port alone -/

/-- A port command whose own rule changes the load port alone does so by its state row too. -/
theorem byStateRow_lp (row : PortRow) {own : State} (h : ∃ lp, own = { s with lp := lp }) :
    ∃ lp, byStateRow row s own = { s with lp := lp } := by
  rcases byStateRow_cases row s own with ⟨-, hb⟩ | ⟨-, ⟨r, -, hb⟩ | ⟨-, hb⟩⟩ <;> rw [hb]
  · exact ⟨s.lp, rfl⟩
  · exact ⟨_, rfl⟩
  · exact h

theorem readStatus_frame (s : State) : ∃ lp, readStatus s = { s with lp := lp } := byStateRow_lp _ ⟨_, rfl⟩

theorem readChannel_frame (arg : Byte) (s : State) : ∃ lp, readChannel arg s = { s with lp := lp } :=
  byStateRow_lp _ (by split <;> exact ⟨_, rfl⟩)

theorem readPeer_frame (arg : Byte) (s : State) : ∃ lp, readPeer arg s = { s with lp := lp } :=
  byStateRow_lp _ (by split <;> exact ⟨_, rfl⟩)

theorem readGroup_frame (arg : Byte) (s : State) : ∃ lp, readGroup arg s = { s with lp := lp } :=
  byStateRow_lp _ (by split <;> exact ⟨_, rfl⟩)

theorem readEvents_frame (arg : Byte) (s : State) : ∃ lp, readEvents arg s = { s with lp := lp } :=
  byStateRow_lp _ (by split <;> exact ⟨_, rfl⟩)

theorem unknownCommand_frame (s : State) : ∃ lp, unknownCommand s = { s with lp := lp } := by
  unfold unknownCommand taken
  split <;> exact ⟨_, rfl⟩

theorem chipSelectHigh_frame (n : Nat) (s : State) : ∃ lp, chipSelectHigh n s = { s with lp := lp } := by
  unfold chipSelectHigh recordsLost
  dsimp only
  repeat' split
  all_goals exact ⟨_, rfl⟩

theorem staleExpiry_frame (s : State) : ∃ lp, staleExpiry s = { s with lp := lp } := by
  unfold staleExpiry
  split <;> exact ⟨_, rfl⟩

/-! ## Every command and every step -/

theorem exec_inOrder {c : Instr} (h : InOrder s) (he : exec c s = .next t) : InOrder t := by
  cases c <;> cases he
  case coldReset straps => exact h.coldReset straps
  case levelPoint => exact h.levelPoint.settled
  case outputPoint => exact h.outputPoint
  case gainLinkStrobe => exact h.strobe
  case conversionComplete ch m => exact (h.conversion ch m).settled
  case touchInputAsserted ch => exact h.touchAsserted ch
  case touchInputAbsent ch => exact (h.touchAbsent ch).settled
  case touchedArrival ch => exact (h.touchedArrival ch).settled
  case freeArrival ch => exact (h.freeArrival ch).settled
  case keyScan mute solo go => exact (h.keyScan mute solo go).settled
  case stopLineInputChange k a => exact h.setLine k _
  case lineAssertion k => exact (h.lineAssertion k).settled
  case lineRelease k => exact (h.lineRelease k).settled
  case bidPoint => exact h.of_setBc (bidPoint_frame s)
  case arbitrationWon =>
    exact h.of_sansBus (sansBus_winArbitration s) (by simpa using h.events)
      (winArbitration_cues h.cues)
  case arbitrationLost => exact h.of_setBc (loseArbitration_frame s)
  case arbitrationByteRead a b => exact h.of_setBc (arbitrationByteRead_frame s a b)
  case frameReceived groups =>
    exact (h.of_sansBus (sansBus_frameReceived s groups)
      (frameReceived_events groups h.events rfl) (frameReceived_cues groups h.cues)).settled
  case frameComplete =>
    exact (h.of_sansBus (sansBus_frameComplete s) (frameComplete_events h.events rfl)
      (frameComplete_cues h.cues)).settled
  case attemptFailed place =>
    exact (h.of_sansBus (sansBus_attemptFailed s place)
      (attemptFailed_events place h.events rfl) (attemptFailed_cues place h.cues)).settled
  case busBreak => exact h.of_setBc (busBreak_frame s)
  case busBreakEnd => exact h.of_setBc (busBreakEnd_frame s)
  case busFault =>
    exact (h.of_sansBus (sansBus_busFault s) (busFault_events h.events rfl)
      (busFault_cq s ▸ h.cues)).settled
  case busRestored =>
    exact (h.of_sansBus (sansBus_busRestored s) (busRestored_events h.events rfl)
      (busRestored_cq s ▸ h.cues)).settled
  case readStatus => exact h.of_read (foundation_readStatus s) (readStatus_events h.events) (readStatus_frame s)
  case readEvents n =>
    exact h.of_read (foundation_readEvents n s) (readEvents_events n h.events rfl) (readEvents_frame n s)
  case readChannel n =>
    exact h.of_read (foundation_readChannel n s) (readChannel_events n h.events) (readChannel_frame n s)
  case readPeer n => exact h.of_read (foundation_readPeer n s) (readPeer_events n h.events) (readPeer_frame n s)
  case readGroup n => exact h.of_read (foundation_readGroup n s) (readGroup_events n h.events) (readGroup_frame n s)
  case loadBegin => exact h.loadBegin
  case loadData length data => exact h.loadData length data
  case loadEnd => exact h.loadEnd
  case go => exact h.go.settled
  case fire cue => exact (h.fire cue).settled
  case standby cue => exact (h.standby cue).settled
  case stopRelease kind target => exact (h.stopRelease kind target).settled
  case clearMotor ch => exact h.clearMotor ch
  case restart => exact h.restart
  case unknownCommand code =>
    exact h.of_read (foundation_unknownCommand s) (unknownCommand_events h.events) (unknownCommand_frame s)
  case chipSelectHigh n =>
    exact h.of_read (foundation_chipSelectHigh n s) (chipSelectHigh_events n h.events) (chipSelectHigh_frame n s)
  case validationEnd => exact h.validationEnd
  case listenTimerExpiry => exact h.listenExpiry
  case catchupWalkEnd => exact h.walkEnd
  case runEntry => exact h.runEntry.settled
  case prefetchComplete => exact h.prefetchComplete
  case expansionComplete => exact h.expansionComplete
  case followExpiry => exact h.followExpiry.settled
  case delayCountExpiry slot =>
    exact (h.of_sansFades (sansFades_delayCountExpiry s slot) (by simpa using h.events)
      (delayCountExpiry_pool_length slot h.pool)).settled
  case fadeComplete slot =>
    exact (h.of_sansFades (sansFades_fadeComplete s slot) (by simpa using h.events)
      (fadeComplete_pool_length slot h.pool)).settled
  case restEnd ch => exact h.restEnd ch
  case motorStall ch => exact h.motorStall ch
  case groupAgeLimit g => exact h.of_sansGroups (sansGroups_groupAgeLimit s g) (groupAgeLimit_events g h.events rfl)
  case groupSendDue ch =>
    exact (h.of_sansGroups (sansGroups_groupSendDue s ch) (by simpa using h.events)).settled
  case peerLost p => exact (h.of_sansGroups (sansGroups_peerLost s p) (peerLost_events p h.events rfl)).settled
  case stateRefresh => exact h.stateRefresh.settled
  case staleTimerExpiry =>
    exact h.of_read (foundation_staleExpiry s) (staleExpiry_events h.events rfl) (staleExpiry_frame s)
  case startBit => exact h.of_setBc (startBit_frame s)
  case chipSelectLow => exact h.of_read rfl h.events ⟨_, rfl⟩

/-- A step is the front command on the rest of the queue, or with none waiting a bit time. -/
theorem step_cases (h : step s = .next t) :
    (∃ c rest, s.pending = c :: rest ∧ exec c { s with pending := rest } = .next t)
      ∨ (s.pending = [] ∧ t = tick s) := by
  unfold step at h
  split at h
  · rename_i c rest hp
    exact .inl ⟨c, rest, hp, h⟩
  · rename_i hp
    cases h
    exact .inr ⟨hp, rfl⟩

/-- Settles O55: each command keeps the four parts of `InOrder`, and so does a bit time. -/
theorem stepKeepsMemoryQueuesAndAttn : Obligations.StepKeepsMemoryQueuesAndAttn := by
  intro s t h hstep
  rw [← inOrder_iff] at h ⊢
  rcases step_cases hstep with ⟨c, rest, -, he⟩ | ⟨-, rfl⟩
  · exact exec_inOrder (s := { s with pending := rest }) ⟨h.memory, h.events, h.cues, h.pool⟩ he
  · obtain ⟨hm, he, hc, hp⟩ := h.tickTimers.settled
    exact ⟨hm, he, hc, hp⟩

end Sys2Proof.Machine
end

section
/-!
PROOFS. Every step keeps the mix quiet outside RUN and drive off a motor that is touched (O56).
-/

namespace Sys2Proof.Machine

variable {s t : State}

/-! ## The fader kinds read show memory alone -/

theorem isMotor_of_sm (h : t.sm = s.sm) (ch : Channel) : isMotor t ch = isMotor s ch := by
  simp only [isMotor, faderOf, entryOf, h]

theorem isPlain_of_sm (h : t.sm = s.sm) (ch : Channel) : isPlain t ch = isPlain s ch := by
  simp only [isPlain, faderOf, entryOf, h]

theorem isKeep_of_sm (h : t.sm = s.sm) (ch : Channel) : isKeep t ch = isKeep s ch := by
  simp only [isKeep, faderOf, entryOf, h]

theorem isMotor_of_isPlain {ch : Channel} (h : isPlain s ch = true) : isMotor s ch = false := by
  have : faderOf s ch = .plain := eq_of_beq h
  simp [isMotor, this]

theorem isMotor_of_isKeep {ch : Channel} (h : isKeep s ch = true) : isMotor s ch = true := by
  have : faderOf s ch = .motor .keep := eq_of_beq h
  simp [isMotor, this]

/-! ## One strip -/

/-- The conditions on one strip of a channel that is MOTOR or PLAIN as told, in a station state (R104, R107, R114, R115,
R120). -/
structure StripOk (motor plain : Bool) (state : StationState) (x : Strip) : Prop where
  quiet : state ≠ .run → x.mode = .auto ∧ x.motor = .off
  absent : motor = false → x.motor = .off ∧ x.touch = .free
  handKind : x.mode = .hand → motor = true ∨ plain = true
  handMotor : x.mode = .hand → x.motor = .off ∨ x.motor = .stalled
  touched : state = .run → motor = true → x.touch.atHand = true → x.mode = .hand

theorem atHand_iff (x : Touch) : x.atHand = true ↔ x = .touched ∨ ∃ left, x = .hold left := by
  cases x <;> simp [Touch.atHand]

/-- Every strip of the part meets its conditions. -/
def StripsOk (s : State) : Prop :=
  ∀ ch : Channel, StripOk (isMotor s ch) (isPlain s ch) s.sc.state s.st.strips[ch]

/-- What the strips' conditions read. -/
theorem StripsOk.of_eq (h : StripsOk s) (hm : t.sm = s.sm) (hs : t.sc.state = s.sc.state)
    (hx : t.st.strips = s.st.strips) : StripsOk t := by
  intro ch
  rw [isMotor_of_sm hm, isPlain_of_sm hm, hs, hx]
  exact h ch

theorem strips_setStrip (s : State) (ch j : Channel) (x : Strip) :
    (setStrip s ch x).st.strips[j] = if ch = j then x else s.st.strips[j] := by
  simp [Fin.val_inj]

/-- A strip that meets its conditions may be written. -/
theorem StripsOk.setStrip (h : StripsOk s) {ch : Channel} {x : Strip}
    (hx : StripOk (isMotor s ch) (isPlain s ch) s.sc.state x) : StripsOk (setStrip s ch x) := by
  intro j
  rw [strips_setStrip]
  split
  · rename_i he
    exact he ▸ hx
  · exact h j

namespace StripOk

variable {motor plain : Bool} {state : StationState} {x : Strip}

/-- Positions and counts are free. -/
theorem of_eq {y : Strip} (h : StripOk motor plain state x) (hmode : y.mode = x.mode) (hmotor : y.motor = x.motor)
    (htouch : y.touch = x.touch) : StripOk motor plain state y := by
  obtain ⟨hq, ha, hk, hm, ht⟩ := h
  refine ⟨?_, ?_, ?_, ?_, ?_⟩ <;> simpa only [hmode, hmotor, htouch]

/-- In RUN the servo may move a motor in AUTO that is a MOTOR channel's. -/
theorem withMotor {y : Strip} (h : StripOk motor plain state x) (hrun : state = .run) (hmotor : motor = true)
    (hmode : y.mode = x.mode) (htouch : y.touch = x.touch)
    (hand : y.mode = .hand → y.motor = .off ∨ y.motor = .stalled) : StripOk motor plain state y where
  quiet hs := absurd hrun hs
  absent hm := absurd hm (by simp [hmotor])
  handKind _ := .inl hmotor
  handMotor := hand
  touched hs hm ht := hmode.trans (h.touched hs hm (htouch ▸ ht))

/-- A touch that is at the fader only where it was may change freely on a MOTOR channel. -/
theorem withTouch {y : Strip} (h : StripOk motor plain state x) (hmotor : motor = true) (hmode : y.mode = x.mode)
    (hdrive : y.motor = x.motor) (htouch : y.touch.atHand = true → x.touch.atHand = true) :
    StripOk motor plain state y where
  quiet hs := by
    rw [hmode, hdrive]
    exact h.quiet hs
  absent hm := absurd hm (by simp [hmotor])
  handKind _ := .inl hmotor
  handMotor hm := by
    rw [hdrive]
    exact h.handMotor (hmode ▸ hm)
  touched hs hm ht := hmode.trans (h.touched hs hm (htouch ht))

/-- The strip of a reset. -/
theorem reset (measured : Position) (input : Bool) : StripOk motor plain state (Strip.afterReset measured input) where
  quiet _ := ⟨rfl, rfl⟩
  absent _ := ⟨rfl, rfl⟩
  handKind hm := by cases hm
  handMotor hm := by cases hm
  touched _ _ ht := by cases ht

end StripOk

/-! ## The strip controller's commands -/

namespace StripsOk

theorem conversion (h : StripsOk s) (ch : Channel) (m : Position) : StripsOk (conversion ch m s) := by
  unfold Machine.conversion
  split
  · split
    · rename_i hrun
      refine h.setStrip ?_
      have hx := h ch
      have crossed : ∀ y, StripOk (isMotor s ch) (isPlain s ch) s.sc.state y →
          StripOk (isMotor s ch) (isPlain s ch) s.sc.state
            (if isPlain s ch then { y with crossing := some (m, (m.val : Int) - s.fe.levels[ch].val) } else y) := by
        intro y hy
        split
        · exact hy.of_eq rfl rfl rfl
        · exact hy
      refine crossed _ ?_
      dsimp only
      split
      · split
        · rename_i hp
          have hplain : isPlain s ch = true := by
            simp only [Bool.and_eq_true] at hp
            exact hp.1
          have hnm := isMotor_of_isPlain hplain
          exact ⟨fun hs => absurd hrun hs, fun _ => hx.absent hnm, fun _ => .inr hplain,
            fun _ => .inl (hx.absent hnm).1, fun _ _ _ => rfl⟩
        · exact hx.of_eq rfl rfl rfl
      · exact hx.of_eq rfl rfl rfl
    · exact h.setStrip ((h ch).of_eq rfl rfl rfl)
  · exact h

theorem levelStartNotice (h : StripsOk s) (ch : Channel) : StripsOk (levelStartNotice ch s) := by
  unfold Machine.levelStartNotice
  split
  · rename_i hp
    have hnm := isMotor_of_isPlain hp
    have hx := h ch
    dsimp only
    split
    · refine h.setStrip ⟨fun _ => ⟨rfl, (hx.absent hnm).1⟩, fun _ => hx.absent hnm, fun hm => ?_, fun hm => ?_,
        fun _ hm => absurd hm (by simp [hnm])⟩ <;> cases hm
    · exact h.setStrip (hx.of_eq rfl rfl rfl)
  · exact h

theorem motorReleased_mode (x : Strip) : (motorReleased x).mode = x.mode := by
  unfold motorReleased
  split <;> rfl

theorem motorReleased_motor (x : Strip) : (motorReleased x).motor = .off ∨ (motorReleased x).motor = .stalled := by
  unfold motorReleased
  split
  · rename_i h
    exact .inr h
  · exact .inl rfl

theorem motorReleased_of_off {x : Strip} (h : x.motor = .off) : (motorReleased x).motor = .off := by
  unfold motorReleased
  split
  · exact h
  · rfl

/-- The strip a TOUCHED arrival leaves (R108). -/
def touchedStrip (state : StationState) (x : Strip) : Strip :=
  if state = .run ∧ x.mode = .auto then { motorReleased x with mode := .hand, hand := (motorReleased x).measured }
  else motorReleased x

theorem touchedAct_strips (ch : Channel) (s : State) :
    (touchedAct ch s).st.strips = put s.st.strips ch (touchedStrip s.sc.state s.st.strips[ch]) := by
  have hcond : (decide (s.sc.state = .run) && decide ((motorReleased s.st.strips[ch]).mode = .auto)) =
      decide (s.sc.state = .run ∧ s.st.strips[ch].mode = .auto) := by
    rw [motorReleased_mode, Bool.decide_and]
  unfold touchedAct touchedStrip
  dsimp only
  rw [hcond]
  simp only [decide_eq_true_eq]
  split
  · split <;> rfl
  · rfl

/-- A TOUCHED arrival gives the channel to the hand, its motor OFF or STALLED (R108). -/
theorem touchedStrip_ok {motor plain : Bool} {state : StationState} {x : Strip} (hm : motor = true)
    (hq : state ≠ .run → x.mode = .auto ∧ x.motor = .off) : StripOk motor plain state (touchedStrip state x) := by
  unfold touchedStrip
  split
  · rename_i hc
    exact ⟨fun hs => absurd hc.1 hs, fun hn => absurd hn (by simp [hm]), fun _ => .inl hm,
      fun _ => motorReleased_motor _, fun _ _ _ => rfl⟩
  · rename_i hc
    refine ⟨fun hs => ?_, fun hn => absurd hn (by simp [hm]), fun _ => .inl hm, fun _ => motorReleased_motor _,
      fun hs _ _ => ?_⟩
    · obtain ⟨ha, ho⟩ := hq hs
      exact ⟨(motorReleased_mode _).trans ha, motorReleased_of_off ho⟩
    · rw [motorReleased_mode]
      cases hx : x.mode with
      | auto => exact absurd ⟨hs, hx⟩ hc
      | hand => rfl

theorem stallCleared_touch (x : Strip) : (stallCleared x).touch = x.touch := by
  unfold stallCleared
  split <;> rfl

/-- A STALLED motor that is cleared is OFF, which every strip allows. -/
theorem stallCleared {motor plain : Bool} {state : StationState} {x : Strip} (hx : StripOk motor plain state x) :
    StripOk motor plain state (stallCleared x) := by
  unfold Machine.stallCleared
  split
  · exact ⟨fun hs => ⟨(hx.quiet hs).1, rfl⟩, fun hm => ⟨rfl, (hx.absent hm).2⟩, hx.handKind, fun _ => .inl rfl,
      hx.touched⟩
  · exact hx

/-- A FREE arrival returns the channel to AUTO, its touch FREE before (R110). -/
theorem freeAct {ch : Channel} (h : StripsOk s) (hfree : s.st.strips[ch].touch = .free) :
    StripsOk (freeAct ch s) := by
  have hx := stallCleared (h ch)
  have hf : (Machine.stallCleared s.st.strips[ch]).touch = .free := (stallCleared_touch _).trans hfree
  unfold Machine.freeAct
  dsimp only
  split
  · have hy : StripsOk (Machine.setStrip s ch { Machine.stallCleared s.st.strips[ch] with mode := .auto }) := by
      refine h.setStrip ⟨fun hs => ⟨rfl, (hx.quiet hs).2⟩, hx.absent, fun hm => ?_, fun hm => ?_, fun _ _ ht => ?_⟩
      · cases hm
      · cases hm
      · have : (Machine.stallCleared s.st.strips[ch]).touch.atHand = true := ht
        rw [hf] at this
        cases this
    split
    · exact hy.of_eq rfl rfl rfl
    · exact hy
  · exact h.setStrip hx

theorem setTouchInput (h : StripsOk s) (ch : Channel) (on : Bool) : StripsOk (setTouchInput s ch on) :=
  h.setStrip ((h ch).of_eq rfl rfl rfl)

/-- A touch may change on a MOTOR channel where it comes to the fader from the fader alone. -/
theorem setTouch (h : StripsOk s) {ch : Channel} {x : Touch} (hm : isMotor s ch = true)
    (ht : x.atHand = true → s.st.strips[ch].touch.atHand = true) : StripsOk (setTouch s ch x) :=
  h.setStrip ((h ch).withTouch hm rfl rfl ht)

theorem touchAsserted (h : StripsOk s) (ch : Channel) : StripsOk (touchAsserted ch s) := by
  have hi := h.setTouchInput ch true
  unfold Machine.touchAsserted
  dsimp only
  split
  · rename_i hm
    split
    · exact hi.setTouch hm fun hx => by cases hx
    · rename_i heq
      exact hi.setTouch hm fun _ => by rw [heq]; rfl
    · exact hi
    · exact hi
  · exact hi

theorem touchAbsent (h : StripsOk s) (ch : Channel) : StripsOk (touchAbsent ch s) := by
  have hi := h.setTouchInput ch false
  unfold Machine.touchAbsent
  dsimp only
  split
  · rename_i hm
    split
    · exact hi.setTouch hm fun hx => by cases hx
    · rename_i heq
      split
      · refine (hi.setTouch hm fun hx => by cases hx).freeAct ?_
        simp [Machine.setTouch]
      · exact hi.setTouch hm fun _ => by rw [heq]; rfl
    · exact hi
    · exact hi
  · exact hi

theorem touchedArrival (h : StripsOk s) (ch : Channel) : StripsOk (touchedArrival ch s) := by
  unfold Machine.touchedArrival
  split
  · split
    · rename_i hm
      have hstrips : (Machine.touchedAct ch (Machine.setTouch s ch .touched)).st.strips =
          (Machine.setStrip s ch
            (touchedStrip s.sc.state { s.st.strips[ch] with touch := .touched })).st.strips := by
        rw [touchedAct_strips]
        simp [Machine.setTouch]
      have hy := h.setStrip (touchedStrip_ok (plain := isPlain s ch)
        (x := { s.st.strips[ch] with touch := .touched }) hm (h ch).quiet)
      exact hy.of_eq (touchedAct_sm _ _) (by rw [touchedAct_sc]; rfl) hstrips
    · exact h
  all_goals exact h

theorem freeArrival (h : StripsOk s) (ch : Channel) : StripsOk (freeArrival ch s) := by
  unfold Machine.freeArrival
  split
  · split
    · rename_i hm
      refine (h.setTouch hm fun hx => by cases hx).freeAct ?_
      simp [Machine.setTouch]
    · exact h
  all_goals exact h

/-! ## The servo -/

theorem servoStrip_parts (hd : Header) (level : Position) (limit : Nat) (motor : Motor) (x : Strip) :
    (servoStrip hd level limit motor x).mode = x.mode ∧ (servoStrip hd level limit motor x).touch = x.touch := by
  unfold servoStrip
  dsimp only
  repeat' split
  all_goals exact ⟨rfl, rfl⟩

/-- The servo moves a motor of a MOTOR channel in AUTO alone. -/
theorem servoedStrip_parts (hd : Header) (s : State) (ch : Channel) :
    servoedStrip hd s ch = s.st.strips[ch]
      ∨ (isMotor s ch = true ∧ s.st.strips[ch].mode = .auto
        ∧ (servoedStrip hd s ch).mode = .auto ∧ (servoedStrip hd s ch).touch = s.st.strips[ch].touch) := by
  unfold servoedStrip
  dsimp only
  split
  · rename_i hc
    simp only [Bool.and_eq_true, decide_eq_true_eq] at hc
    have hp := servoStrip_parts hd s.fe.levels[ch] (stallLimit s)
    split
    · exact .inl rfl
    · refine .inr ⟨hc.1, hc.2, ?_⟩
      split
      · exact ⟨(hp _ _).1.trans hc.2, (hp _ _).2⟩
      · split <;> exact ⟨hc.2, rfl⟩
    · exact .inr ⟨hc.1, hc.2, (hp _ _).1.trans hc.2, (hp _ _).2⟩
  · exact .inl rfl

/-- A strip that the servo acts on in RUN keeps its conditions. -/
theorem servoed {motor plain : Bool} {x y : Strip} (h : StripOk motor plain .run x) (hm : motor = true)
    (hx : x.mode = .auto) (hy : y.mode = .auto) (ht : y.touch = x.touch) : StripOk motor plain .run y :=
  h.withMotor rfl hm (hy.trans hx.symm) ht fun hh => by rw [hy] at hh; cases hh

theorem servo (h : StripsOk s) : StripsOk (servo s) := by
  cases him : s.sm.image with
  | none =>
    have : Machine.servo s = s := by simp [Machine.servo, him]
    rwa [this]
  | some im =>
    by_cases hrun : s.sc.state = .run
    · intro ch
      rw [servo_strip s im hrun him ch, isMotor_of_sm (servo_sm s), isPlain_of_sm (servo_sm s),
        show (Machine.servo s).sc.state = s.sc.state by rw [servo_sc], hrun]
      have hx := h ch
      rw [hrun] at hx
      rcases servoedStrip_parts im.header s ch with he | ⟨hm, ha, hy, ht⟩
      · rwa [he]
      · exact servoed hx hm ha hy ht
    · have : Machine.servo s = s := by simp [Machine.servo, him, hrun]
      rwa [this]

theorem restEnd (h : StripsOk s) (ch : Channel) : StripsOk (restEnd ch s) := by
  unfold Machine.restEnd
  split
  · rename_i im _ hrest
    split
    · rename_i hc
      simp only [Bool.and_eq_true, decide_eq_true_eq] at hc
      have hx := h ch
      have ha : s.st.strips[ch].mode = .auto := by
        cases hm : s.st.strips[ch].mode with
        | auto => rfl
        | hand => rcases hx.handMotor hm with ho | ho <;> rw [hrest] at ho <;> cases ho
      have hp := servoStrip_parts im.header s.fe.levels[ch] (stallLimit s) .off s.st.strips[ch]
      have hy : StripsOk (Machine.setStrip s ch
          (servoStrip im.header s.fe.levels[ch] (stallLimit s) .off s.st.strips[ch])) := by
        refine h.setStrip ?_
        rw [hc.1] at hx ⊢
        exact servoed hx hc.2 ha (hp.1.trans ha) hp.2
      refine hy.of_eq ?_ ?_ ?_
      · rw [servoAct_frame]
        rfl
      · rw [servoAct_frame]
        rfl
      · rw [servoAct_strips]
        rfl
    · exact h
  · exact h

theorem motorStall (h : StripsOk s) (ch : Channel) : StripsOk (motorStall ch s) := by
  unfold Machine.motorStall
  dsimp only
  split
  · rename_i hc
    simp only [Bool.and_eq_true, decide_eq_true_eq] at hc
    obtain ⟨⟨hrun, hm⟩, -⟩ := hc
    have hy := h.setStrip (x := { s.st.strips[ch] with motor := .stalled, rest := 0, stall := stallLimit s })
      ((h ch).withMotor hrun hm rfl rfl fun _ => .inr rfl)
    exact hy.of_eq rfl rfl rfl
  · exact h

theorem clearMotor (h : StripsOk s) (arg : Byte) : StripsOk (portClearMotor arg s) := by
  rcases byStateRow_cases .act s _ with ⟨-, hb⟩ | ⟨-, ⟨r, -, hb⟩ | ⟨-, hb⟩⟩ <;> rw [portClearMotor, hb]
  · exact h
  · exact h
  · split
    · exact h.setStrip (stallCleared (h _))
    · exact h

/-! ## The fade engine -/

theorem setLevelAtOnce (h : StripsOk s) (ch : Channel) (target : Position) :
    StripsOk (setLevelAtOnce ch target s) :=
  levelStartNotice (s := setLevel (setPool s (takeOver ch s.fe.pool)) ch target) h ch

theorem startWaiting (h : StripsOk s) (before : List PoolRecord) (r : PoolRecord) (after : List PoolRecord) :
    StripsOk (startWaiting before r after s) := by
  unfold Machine.startWaiting
  split
  · exact h
  · split
    · exact setLevelAtOnce (s := setPool s (before ++ after)) h _ _
    · exact levelStartNotice (s := setPool s (_ ++ _ :: _)) h _
  · exact h

theorem startDue (h : StripsOk s) (n : Nat) : StripsOk (startDue n s) := by
  induction n generalizing s with
  | zero => exact h
  | succ n ih =>
    unfold Machine.startDue
    split
    · exact ih (h.startWaiting _ _ _)
    · exact h

theorem snap (h : StripsOk s) (origin : CueNumber) (m : Move) : StripsOk (snap origin m s) := by
  have hs : StripsOk (match m.kind with
      | .level _ _ target => Machine.setLevelAtOnce m.channel target s
      | .muteOn => setMute s m.channel true
      | .muteOff => setMute s m.channel false) := by
    split
    · exact h.setLevelAtOnce _ _
    · exact h
    · exact h
  exact hs.of_eq rfl rfl rfl

theorem commitMove (h : StripsOk s) (origin : CueNumber) (m : Move) : StripsOk (commitMove origin s m) := by
  unfold Machine.commitMove
  split
  · exact h
  · split
    · unfold startMove
      split
      · exact h
      · exact h
      · split
        · exact h.setLevelAtOnce _ _
        · dsimp only
          split
          · exact levelStartNotice (s := setPool s (_ ++ _)) h _
          · exact h.snap _ _
    · split
      · exact h
      · exact h.snap _ _

theorem fadeSteps (h : StripsOk s) : StripsOk (fadeSteps s) := by
  have hd : StripsOk (countDown (advance s)) := startDue (s := setPool (advance s) _) h _
  exact foldl_keeps (P := StripsOk)
    (fun _ e ht => foldl_keeps (P := StripsOk) (fun _ m hu => hu.commitMove e.cue m) e.moves ht) _
    (s := { countDown (advance s) with fe := { (countDown (advance s)).fe with commits := [] } }) hd

theorem delayCountExpiry (h : StripsOk s) (slot : Fin 64) : StripsOk (delayCountExpiry slot s) := by
  unfold Machine.delayCountExpiry
  split
  · split
    · exact h.startWaiting _ _ _
    · exact h
  · exact h

theorem fadeComplete_strips (slot : Fin 64) (s : State) : (fadeComplete slot s).st = s.st := by
  unfold fadeComplete
  repeat' split
  all_goals rfl

/-! ## RUN entry -/

/-- Before its turn at RUN entry a strip is as it was outside RUN: in AUTO, its motor OFF. -/
def EntryOk (motor : Bool) (x : Strip) : Prop :=
  x.mode = .auto ∧ x.motor = .off ∧ (motor = false → x.touch = .free)

theorem entryStrip_parts (s : State) (ch : Channel) :
    (entryStrip s ch).mode = .auto ∧ (entryStrip s ch).motor = s.st.strips[ch].motor := by
  unfold entryStrip
  split <;> exact ⟨rfl, rfl⟩

/-- A channel's turn at RUN entry leaves its strip in order and every other one alone. -/
theorem stripAtRunEntry (ch : Channel) (hrun : s.sc.state = .run)
    (hx : EntryOk (isMotor s ch) s.st.strips[ch]) :
    StripOk (isMotor s ch) (isPlain s ch) .run (stripAtRunEntry s ch).st.strips[ch]
      ∧ ∀ j, j ≠ ch → (stripAtRunEntry s ch).st.strips[j] = s.st.strips[j] := by
  obtain ⟨hmode, hmotor⟩ := entryStrip_parts s ch
  have htouch := entryStrip_touch s ch
  obtain ⟨-, hoff, hfree⟩ := hx
  rw [stripAtRunEntry_eq]
  by_cases hc : (isMotor s ch && s.st.strips[ch].touch.atHand) = true
  · rw [if_pos hc, touchedAct_strips, setStrip_strips, setStrip_sc, hrun, put_same, put_put]
    refine ⟨?_, fun j hj => put_other _ _ hj.symm⟩
    rw [put_same]
    exact touchedStrip_ok (Bool.and_eq_true _ _ ▸ hc).1 fun hs => absurd rfl hs
  · rw [if_neg hc, setStrip_strips]
    refine ⟨?_, fun j hj => put_other _ _ hj.symm⟩
    rw [put_same]
    refine ⟨fun hs => absurd rfl hs, fun hm => ⟨hmotor.trans hoff, htouch.trans (hfree hm)⟩, fun hm => ?_,
      fun _ => .inl (hmotor.trans hoff), fun _ hm ht => ?_⟩
    · rw [hmode] at hm
      cases hm
    · rw [htouch] at ht
      exact absurd (by rw [hm, ht]; rfl) hc

/-- RUN entry over all channels. -/
theorem strips (hrun : s.sc.state = .run) (h : ∀ ch, EntryOk (isMotor s ch) s.st.strips[ch]) :
    StripsOk (channels.foldl Machine.stripAtRunEntry s) := by
  have turns : ∀ (l : List Channel) (u : State), l.Nodup → u.sm = s.sm → u.sc.state = .run →
      (∀ ch ∈ l, EntryOk (isMotor u ch) u.st.strips[ch]) →
      (∀ ch, ch ∉ l → StripOk (isMotor u ch) (isPlain u ch) .run u.st.strips[ch]) →
      ∀ ch, StripOk (isMotor s ch) (isPlain s ch) .run (l.foldl Machine.stripAtRunEntry u).st.strips[ch] := by
    intro l
    induction l with
    | nil =>
      intro u _ hm _ _ hdone ch
      rw [← isMotor_of_sm hm, ← isPlain_of_sm hm]
      exact hdone ch (by simp)
    | cons c rest ih =>
      intro u hnd hm hu htodo hdone
      rw [List.nodup_cons] at hnd
      obtain ⟨hc, hother⟩ := stripAtRunEntry c hu (htodo c (by simp))
      have hsm := stripAtRunEntry_sm u c
      refine ih (Machine.stripAtRunEntry u c) hnd.2 (hsm.trans hm) (by rw [stripAtRunEntry_sc, hu]) ?_ ?_
      · intro ch hch
        have hne : ch ≠ c := fun he => hnd.1 (he ▸ hch)
        rw [isMotor_of_sm hsm, hother ch hne]
        exact htodo ch (by simp [hch])
      · intro ch hch
        rw [isMotor_of_sm hsm, isPlain_of_sm hsm]
        by_cases he : ch = c
        · exact he ▸ hc
        · rw [hother ch he]
          exact hdone ch (by simp [hch, he])
  intro ch
  have hsm : (channels.foldl Machine.stripAtRunEntry s).sm = s.sm := congrArg (·.sm) (sansFades_strips s channels)
  rw [isMotor_of_sm hsm, isPlain_of_sm hsm, strips_sc, hrun]
  exact turns channels s channels_nodup rfl hrun (fun ch _ => h ch) (fun ch hch => absurd (mem_channels ch) hch) ch

end StripsOk

end Sys2Proof.Machine
end

section
/-!
PROOFS. Outside RUN the expander, the fade engine and the mix stay at rest (O56).
-/

namespace Sys2Proof.Machine

variable {s t : State}

/-! ## The expander -/

/-- Outside RUN nothing is expanded and nothing waits for the fade engine (R60). -/
def CuesQuiet (s : State) : Prop := s.sc.state ≠ .run → s.fe.commits = [] ∧ s.cq.buffer = .empty

theorem CuesQuiet.of_eq (h : CuesQuiet s) (hs : t.sc.state = s.sc.state) (hc : t.fe.commits = s.fe.commits)
    (hb : t.cq.buffer = s.cq.buffer) : CuesQuiet t := by
  simpa only [CuesQuiet, hs, hc, hb] using h

/-- Outside RUN the expander looks for no work (R48). -/
theorem runExpander_of_not_run (h : s.sc.state ≠ .run) : runExpander s = s := by
  simp [runExpander, serveExpander, h]

theorem runExpander_cuesQuiet (h : CuesQuiet s) : CuesQuiet (runExpander s) := by
  intro hs
  rw [runExpander_state] at hs
  rw [runExpander_of_not_run hs]
  exact h hs

theorem bufferOnFire_of_empty (c : CueNumber) (h : s.cq.buffer = .empty) : bufferOnFire c s = s := by
  simp [bufferOnFire, h]

theorem bufferOnFire_cuesQuiet (c : CueNumber) (h : CuesQuiet s) : CuesQuiet (bufferOnFire c s) := by
  intro hs
  rw [bufferOnFire_state] at hs
  rw [bufferOnFire_of_empty c (h hs).2]
  exact h hs

theorem requestFire_frame (c : CueNumber) (o : OriginKind) (s : State) : ∃ outgoing lp,
    requestFire c o s = { s with cq := { s.cq with outgoing := outgoing }, lp := lp } := by
  unfold requestFire
  rcases offerRequest_cases s .fire c o with ⟨h, -⟩ | ⟨h, -⟩ | ⟨h, -⟩ <;> rw [h] <;> exact ⟨_, _, rfl⟩

theorem requestFire_cuesQuiet (c : CueNumber) (o : OriginKind) (h : CuesQuiet s) : CuesQuiet (requestFire c o s) := by
  obtain ⟨out, lp, hr⟩ := requestFire_frame c o s
  rw [hr]
  exact h

theorem expireAtOnce_cuesQuiet (h : CuesQuiet s) : CuesQuiet (expireAtOnce s) := by
  unfold expireAtOnce
  split
  · split
    · exact requestFire_cuesQuiet _ _ h
    · exact h
  · exact h

theorem takeFire_cuesQuiet (c : CueNumber) (n : Nat) (o : OriginKind) (h : CuesQuiet s) :
    CuesQuiet (takeFire c n o s) := by
  unfold takeFire
  split
  · exact h
  · split
    · exact h
    · split
      · exact h
      · refine expireAtOnce_cuesQuiet (runExpander_cuesQuiet ?_)
        exact bufferOnFire_cuesQuiet (s := { s with cq := { s.cq with
          incoming := s.cq.incoming ++ [{ cue := c, expanding := false }], last := some c, since := 0 } }) c h

theorem takeStandby_cuesQuiet (c : CueNumber) (h : CuesQuiet s) : CuesQuiet (takeStandby c s) := by
  refine runExpander_cuesQuiet ?_
  unfold discardPrefetch
  split
  · exact fun hs => ⟨(h hs).1, rfl⟩
  · exact fun hs => ⟨(h hs).1, rfl⟩
  · exact h
  · exact h

theorem takeCue_cuesQuiet (k : CueKind) (c : CueNumber) (n : Nat) (o : OriginKind) (h : CuesQuiet s) :
    CuesQuiet (takeCue k c n o s) := by
  unfold takeCue
  split
  · exact h
  · exact takeFire_cuesQuiet c n o h
  · exact takeFire_cuesQuiet c n o h
  · exact takeStandby_cuesQuiet c h
  · exact takeStandby_cuesQuiet c h
  · exact h

theorem expireFollow_cuesQuiet (c : CueNumber) (h : CuesQuiet s) : CuesQuiet (expireFollow c s) := by
  unfold expireFollow
  dsimp only
  split
  · exact takeFire_cuesQuiet _ _ _ h
  · exact requestFire_cuesQuiet _ _ h

/-! ## The owners of frames -/

theorem CuesQuiet.of_parts (h : CuesQuiet s) (hs : t.sc.state = s.sc.state) (hc : t.cq = s.cq) (hf : t.fe = s.fe) :
    CuesQuiet t :=
  h.of_eq hs (by rw [hf]) (by rw [hc])

@[simp] theorem clearOrphanFlag_fe (k : StopKind) (p : Peer) (s : State) : (clearOrphanFlag k p s).fe = s.fe := by
  unfold clearOrphanFlag
  split <;> rfl

@[simp] theorem stopFrameEnd_fe (release : Bool) (k : StopKind) (target : Station) (s : State) :
    (stopFrameEnd release k target s).fe = s.fe := by
  unfold stopFrameEnd
  dsimp only
  repeat' split
  all_goals simp

@[simp] theorem groupFrameEnd_fe (completed : Bool) (g : Group) (mute : Bool) (position : Position) (s : State) :
    (groupFrameEnd completed g mute position s).fe = s.fe := by
  unfold groupFrameEnd
  split <;> rfl

theorem frameEnd_cuesQuiet (completed : Bool) (p : Payload) (h : CuesQuiet s) : CuesQuiet (frameEnd completed p s) := by
  cases p with
  | stop release k target =>
    exact h.of_parts (stopFrameEnd_state s release k target) (stopFrameEnd_cq release k target s)
      (stopFrameEnd_fe release k target s)
  | cue k o c => exact takeCue_cuesQuiet k c _ o h
  | group g m x =>
    exact h.of_parts (groupFrameEnd_state s completed g m x) (groupFrameEnd_cq completed g m x s)
      (groupFrameEnd_fe completed g m x s)
  | state x a b l => exact h

theorem CuesQuiet.setFlight (h : CuesQuiet s) (c : FrameClass) (f : Option Flight) : CuesQuiet (setFlight s c f) :=
  h.of_parts (by rw [setFlight_sc]) (setFlight_cq s c f) (setFlight_fe s c f)

theorem CuesQuiet.setBc (h : CuesQuiet s) (bc : BusController) : CuesQuiet { s with bc := bc } := h

theorem settle_cuesQuiet (h : CuesQuiet s) : CuesQuiet (settle s) := by
  refine settle_keeps (P := CuesQuiet) (fun s c t _ hone hs => ?_) h
  rcases abandonOne_cases hone with ⟨f, -, rfl⟩ | ⟨p, -, rfl⟩ | ⟨r, -, rest, hsub, rfl⟩ | ⟨ch, -, rfl⟩ | rfl
  · exact frameEnd_cuesQuiet _ _ (hs.setFlight c none)
  · exact frameEnd_cuesQuiet _ _ hs
  · exact takeCue_cuesQuiet _ _ _ _ hs
  · exact hs
  · exact hs

/-! ## The bus -/

theorem winArbitration_cuesQuiet (h : CuesQuiet s) : CuesQuiet (winArbitration s) := by
  obtain ⟨bc, o, r, hw, -⟩ := winArbitration_frame s
  rw [hw]
  exact h

theorem frameComplete_cuesQuiet (h : CuesQuiet s) : CuesQuiet (frameComplete s) := by
  have hw := winArbitration_cuesQuiet h
  unfold frameComplete
  split
  · exact frameEnd_cuesQuiet _ _ (.setFlight (hw.setBc _) _ none)
  · exact h

theorem attemptFailed_cuesQuiet (place : FailurePlace) (h : CuesQuiet s) : CuesQuiet (attemptFailed place s) := by
  have hw := winArbitration_cuesQuiet h
  unfold attemptFailed
  dsimp only
  split
  · split
    · split
      · exact .setFlight (hw.setBc _) _ _
      · exact frameEnd_cuesQuiet _ _ (.setFlight (hw.setBc _) _ none)
    · exact hw
  · exact h

theorem presenceNotice_cuesQuiet (p : Peer) (h : CuesQuiet s) : CuesQuiet (presenceNotice p s) := by
  unfold presenceNotice
  dsimp only
  repeat' split
  all_goals exact h

theorem noticed_cuesQuiet (p : Peer) (c : FrameClass) (h : CuesQuiet s) : CuesQuiet (noticed p c s) := by
  have hp := presenceNotice_cuesQuiet p h
  unfold noticed duplicateNotice
  split
  · split
    · exact hp
    · exact settle_cuesQuiet hp
  · exact hp

@[simp] theorem applyStop_fe (release : Bool) (k : StopKind) (target : Station) (p : Peer) (s : State) :
    (applyStop release k target p s).fe = s.fe := by
  unfold applyStop
  repeat' split
  all_goals simp

@[simp] theorem applyState_fe (solo a b : Bool) (last : Option CueNumber) (p : Peer) (s : State) :
    (applyState solo a b last p s).fe = s.fe := by
  unfold applyState
  dsimp only
  repeat' split
  all_goals simp

@[simp] theorem applyGroup_fe (g : Group) (mute : Bool) (position : Position) (p : Peer) (s : State) :
    (applyGroup g mute position p s).fe = s.fe := by
  unfold applyGroup
  repeat' split
  all_goals rfl

theorem handFrame_cuesQuiet (payload : Payload) (p : Peer) (h : CuesQuiet s) : CuesQuiet (handFrame payload p s) := by
  cases payload with
  | stop r k target =>
    exact h.of_parts (applyStop_state s r k target p) (applyStop_cq r k target p s) (applyStop_fe r k target p s)
  | cue k o c => exact takeCue_cuesQuiet k c _ o h
  | group g m x =>
    exact h.of_parts (applyGroup_state s g m x p) (applyGroup_cq g m x p s) (applyGroup_fe g m x p s)
  | state x a b l =>
    exact h.of_parts (applyState_state s x a b l p) (applyState_cq x a b l p s) (applyState_fe x a b l p s)

theorem frameReceived_cuesQuiet (groups : List (BitVec 5)) (h : CuesQuiet s) : CuesQuiet (frameReceived groups s) := by
  cases hr : readsFrame s with
  | false => rwa [frameReceived_of_not_reads s groups hr]
  | true =>
    rcases frameReceived_cases s groups hr with ⟨fault, -, ht⟩ | ⟨p, repeated, payload, -, ht⟩ <;> rw [ht]
    · exact h
    · have hn := noticed_cuesQuiet (s := frameOver (lastRun groups) s) p (payloadClass payload) h
      rw [takeFrame_eq]
      split
      · exact hn
      · exact handFrame_cuesQuiet payload p hn

/-! ## The whole rest outside RUN -/

/-- The gain law is silent outside RUN (R4, R85). -/
def MixQuiet (s : State) : Prop :=
  s.sc.state ≠ .run → ∀ ch : Channel, s.mr.applied[ch] = 0 ∧ s.mr.headroom[ch] = false ∧ s.mr.solo[ch] = false

/-- What the statement about hands and motors keeps, in its parts; the strips' own conditions hold those on modes and
motors outside RUN. -/
structure AtRest (s : State) : Prop where
  image : s.sm.image.isSome = true ↔ s.sc.state = .listen ∨ s.sc.state = .catchup ∨ s.sc.state = .run
  cues : CuesQuiet s
  pool : s.sc.state ≠ .run → s.fe.pool = []
  mix : MixQuiet s
  strips : StripsOk s

theorem atRest_of (hi : ImageInForce s) (hq : QuietOutsideRun s) (hh : HandsHaveMotors s) : AtRest s where
  image := hi.1
  cues hs := ⟨(hq hs).2.1, (hq hs).2.2.1⟩
  pool hs := (hq hs).1
  mix hs ch := by
    obtain ⟨ha, hr, hsolo, -⟩ := (hq hs).2.2.2 ch
    exact ⟨ha, hr, hsolo⟩
  strips ch := by
    obtain ⟨habsent, hhand, htouched⟩ := hh ch
    refine ⟨fun hs => ?_, habsent, fun hm => (hhand hm).1, fun hm => (hhand hm).2, fun hs hm ht =>
      htouched hs hm ((atHand_iff _).mp ht)⟩
    obtain ⟨-, -, -, hmode, hmotor⟩ := (hq hs).2.2.2 ch
    exact ⟨hmode, hmotor⟩

namespace AtRest

theorem quiet (h : AtRest s) : QuietOutsideRun s := by
  intro hs
  refine ⟨h.pool hs, (h.cues hs).1, (h.cues hs).2, fun ch => ?_⟩
  obtain ⟨ha, hr, hsolo⟩ := h.mix hs ch
  exact ⟨ha, hr, hsolo, (h.strips ch).quiet hs⟩

theorem hands (h : AtRest s) : HandsHaveMotors s := by
  intro ch
  have hx := h.strips ch
  exact ⟨hx.absent, fun hm => ⟨hx.handKind hm, hx.handMotor hm⟩, fun hs hm ht =>
    hx.touched hs hm ((atHand_iff _).mpr ht)⟩

/-- A driven motor is in RUN, and no hand is at it. -/
theorem noDrive (h : AtRest s) : NoDriveAgainstHand s := by
  intro ch hd
  have hx := h.strips ch
  have notOff : ∀ m : Motor, m.driven = true → m ≠ .off ∧ m ≠ .stalled := by
    intro m hm
    cases m <;> simp [Motor.driven] at hm ⊢
  obtain ⟨hoff, hstalled⟩ := notOff _ hd
  have hrun : s.sc.state = .run := by
    by_contra hs
    exact hoff (hx.quiet hs).2
  refine ⟨hrun, fun ht => ?_⟩
  have hm : isMotor s ch = true := by
    cases hm : isMotor s ch with
    | true => rfl
    | false => exact absurd (hx.absent hm).1 hoff
  rcases hx.handMotor (hx.touched hrun hm (by rw [ht]; rfl)) with ho | ho
  · exact hoff ho
  · exact hstalled ho

/-! ## Commands of one family -/

theorem of_sansBus (h : AtRest s) (hv : sansBus t = sansBus s) (hc : CuesQuiet t) : AtRest t := by
  have hs : t.sc.state = s.sc.state := congrArg (·.sc.state) hv
  have hm : t.sm = s.sm := congrArg (·.sm) hv
  have hp : t.fe.pool = s.fe.pool := congrArg (·.fe.pool) hv
  have ha : t.mr.applied = s.mr.applied := congrArg (·.mr.applied) hv
  have hr : t.mr.headroom = s.mr.headroom := congrArg (·.mr.headroom) hv
  have ho : t.mr.solo = s.mr.solo := congrArg (·.mr.solo) hv
  have hx : t.st = s.st := congrArg (·.st) hv
  refine ⟨?_, hc, ?_, ?_, h.strips.of_eq hm hs (by rw [hx])⟩
  · rw [hm, hs]
    exact h.image
  · rw [hs, hp]
    exact h.pool
  · simpa only [MixQuiet, hs, ha, hr, ho] using h.mix

theorem settled (h : AtRest s) : AtRest (settle s) := h.of_sansBus (sansBus_settle s) (settle_cuesQuiet h.cues)

theorem of_setBc (h : AtRest s) (ht : ∃ bc, t = { s with bc := bc }) : AtRest t := by
  obtain ⟨bc, rfl⟩ := ht
  exact ⟨h.image, h.cues, h.pool, h.mix, h.strips⟩

theorem of_setLp (h : AtRest s) (ht : ∃ lp, t = { s with lp := lp }) : AtRest t := by
  obtain ⟨lp, rfl⟩ := ht
  exact ⟨h.image, h.cues, h.pool, h.mix, h.strips⟩

/-- A command of the strips and the fade engine keeps the rest with the strips in order and the pool empty outside
RUN. -/
theorem of_sansFades (h : AtRest s) (hv : sansFades t = sansFades s) (hx : StripsOk t)
    (hp : s.sc.state ≠ .run → t.fe.pool = s.fe.pool ∨ t.fe.pool = [])
    (hc : s.sc.state ≠ .run → t.fe.commits = s.fe.commits) : AtRest t := by
  have hs : t.sc.state = s.sc.state := congrArg (·.sc.state) hv
  have hm : t.sm = s.sm := congrArg (·.sm) hv
  have hq : t.cq = s.cq := congrArg (·.cq) hv
  have ha : t.mr.applied = s.mr.applied := congrArg (·.mr.applied) hv
  have hr : t.mr.headroom = s.mr.headroom := congrArg (·.mr.headroom) hv
  have ho : t.mr.solo = s.mr.solo := congrArg (·.mr.solo) hv
  refine ⟨?_, ?_, ?_, ?_, hx⟩
  · rw [hm, hs]
    exact h.image
  · intro hn
    rw [hs] at hn
    rw [hc hn, hq]
    exact h.cues hn
  · intro hn
    rw [hs] at hn
    rcases hp hn with he | he
    · exact he.trans (h.pool hn)
    · exact he
  · simpa only [MixQuiet, hs, ha, hr, ho] using h.mix

theorem of_sansGroups (h : AtRest s) (hv : sansGroups t = sansGroups s) : AtRest t :=
  h.of_sansBus (sansBus_of_sansGroups hv) (h.cues.of_parts (congrArg (·.sc.state) hv) (congrArg (·.cq) hv)
    (congrArg (·.fe) hv))

theorem of_sansMachines (h : AtRest s) (hv : sansMachines t = sansMachines s) : AtRest t :=
  h.of_sansBus (sansBus_of_sansMachines hv) (h.cues.of_parts (congrArg (·.sc.state) hv) (congrArg (·.cq) hv)
    (congrArg (·.fe) hv))

/-! ## The strips -/

theorem conversion (h : AtRest s) (ch : Channel) (m : Position) : AtRest (conversion ch m s) := by
  have hf : (Machine.conversion ch m s).fe = s.fe := by
    unfold Machine.conversion
    repeat' split
    all_goals rfl
  exact h.of_sansFades (sansFades_conversion s ch m) (h.strips.conversion ch m) (fun _ => .inl (by rw [hf]))
    (fun _ => by rw [hf])

theorem touchAsserted (h : AtRest s) (ch : Channel) : AtRest (touchAsserted ch s) := by
  have hf : (Machine.touchAsserted ch s).fe = s.fe := by
    unfold Machine.touchAsserted setTouch setTouchInput
    dsimp only
    repeat' split
    all_goals rfl
  exact h.of_sansFades (sansFades_touchAsserted s ch) (h.strips.touchAsserted ch) (fun _ => .inl (by rw [hf]))
    (fun _ => by rw [hf])

/-- Outside RUN an arrival writes the strip alone (R108, R110). -/
theorem freeAct_fe (ch : Channel) {s : State} (hs : s.sc.state ≠ .run) : (freeAct ch s).fe = s.fe := by
  simp [freeAct, hs]

theorem touchedAct_fe (ch : Channel) {s : State} (hs : s.sc.state ≠ .run) : (touchedAct ch s).fe = s.fe := by
  simp [touchedAct, hs]

theorem touchAbsent (h : AtRest s) (ch : Channel) : AtRest (touchAbsent ch s) := by
  have hf : s.sc.state ≠ .run → (Machine.touchAbsent ch s).fe = s.fe := by
    intro hs
    unfold Machine.touchAbsent
    dsimp only
    repeat' split
    all_goals first | rfl | exact freeAct_fe ch hs
  exact h.of_sansFades (sansFades_touchAbsent s ch) (h.strips.touchAbsent ch) (fun hs => .inl (by rw [hf hs]))
    (fun hs => by rw [hf hs])

theorem touchedArrival (h : AtRest s) (ch : Channel) : AtRest (touchedArrival ch s) := by
  have hf : s.sc.state ≠ .run → (Machine.touchedArrival ch s).fe = s.fe := by
    intro hs
    unfold Machine.touchedArrival
    repeat' split
    all_goals first | rfl | exact touchedAct_fe ch hs
  exact h.of_sansFades (sansFades_touchedArrival s ch) (h.strips.touchedArrival ch)
    (fun hs => .inl (by rw [hf hs])) (fun hs => by rw [hf hs])

theorem freeArrival (h : AtRest s) (ch : Channel) : AtRest (freeArrival ch s) := by
  have hf : s.sc.state ≠ .run → (Machine.freeArrival ch s).fe = s.fe := by
    intro hs
    unfold Machine.freeArrival
    repeat' split
    all_goals first | rfl | exact freeAct_fe ch hs
  exact h.of_sansFades (sansFades_freeArrival s ch) (h.strips.freeArrival ch)
    (fun hs => .inl (by rw [hf hs])) (fun hs => by rw [hf hs])

theorem restEnd (h : AtRest s) (ch : Channel) : AtRest (restEnd ch s) := by
  have hf : (Machine.restEnd ch s).fe = s.fe := by
    unfold Machine.restEnd
    repeat' split
    all_goals first | rfl | rw [servoAct_frame]
  exact h.of_sansFades (sansFades_restEnd s ch) (h.strips.restEnd ch) (fun _ => .inl (by rw [hf]))
    (fun _ => by rw [hf])

theorem motorStall (h : AtRest s) (ch : Channel) : AtRest (motorStall ch s) := by
  have hf : (Machine.motorStall ch s).fe = s.fe := by
    unfold Machine.motorStall
    dsimp only
    split <;> rfl
  exact h.of_sansFades (sansFades_motorStall s ch) (h.strips.motorStall ch) (fun _ => .inl (by rw [hf]))
    (fun _ => by rw [hf])

theorem clearMotor (h : AtRest s) (arg : Byte) : AtRest (portClearMotor arg s) := by
  have hx := h.strips.clearMotor arg
  rcases byStateRow_cases .act s _ with ⟨-, hb⟩ | ⟨-, ⟨r, -, hb⟩ | ⟨-, hb⟩⟩ <;> rw [portClearMotor, hb] at hx ⊢
  · exact h
  · exact h.of_setLp ⟨_, rfl⟩
  · split <;> rename_i hc <;> rw [hc] at hx
    · exact ⟨h.image, h.cues, h.pool, h.mix, hx⟩
    · exact h.of_setLp ⟨_, rfl⟩

/-! ## The fade engine, which works in RUN alone -/

theorem fadeEngineWorks_run (h : fadeEngineWorks s = true) : s.sc.state = .run := by
  simp only [fadeEngineWorks, Bool.and_eq_true, beq_iff_eq] at h
  exact h.1

theorem delayCountExpiry (h : AtRest s) (slot : Fin 64) : AtRest (delayCountExpiry slot s) := by
  have hf : s.sc.state ≠ .run → Machine.delayCountExpiry slot s = s :=
    fun hs => if_neg fun hw => hs (fadeEngineWorks_run hw)
  exact h.of_sansFades (sansFades_delayCountExpiry s slot) (h.strips.delayCountExpiry slot)
    (fun hs => .inl (by rw [hf hs])) (fun hs => by rw [hf hs])

theorem fadeComplete (h : AtRest s) (slot : Fin 64) : AtRest (fadeComplete slot s) := by
  have hf : s.sc.state ≠ .run → Machine.fadeComplete slot s = s :=
    fun hs => if_neg fun hw => hs (fadeEngineWorks_run hw)
  exact h.of_sansFades (sansFades_fadeComplete s slot)
    (h.strips.of_eq (fadeComplete_sm s slot) (by rw [fadeComplete_sc])
      (congrArg StripController.strips (StripsOk.fadeComplete_strips slot s)))
    (fun hs => .inl (by rw [hf hs])) (fun hs => by rw [hf hs])

theorem lowerStop (h : AtRest s) : AtRest (lowerStop s) := h.of_sansMachines (sansMachines_lowerStop s)

/-- RUN entry from CATCHUP with the station at rest. -/
theorem enterRun (h : AtRest s) (hd : runDue s = true) : AtRest (enterRun s) := by
  have hc : s.sc.state = .catchup := by
    simp only [runDue, Bool.and_eq_true, beq_iff_eq] at hd
    exact hd.1
  have hnr : s.sc.state ≠ .run := by simp [hc]
  have hsm := enterRun_sm s
  have hstate := enterRun_state s
  have hposted : StripsOk (runPosted s) := by
    have hstrips : StripsOk (channels.foldl stripAtRunEntry (runInstalled s)) := by
      refine StripsOk.strips rfl fun ch => ?_
      have hx := h.strips ch
      exact ⟨(hx.quiet hnr).1, (hx.quiet hnr).2, fun hm => (hx.absent hm).2⟩
    exact hstrips.of_eq (congrArg (·.sm) (sansCues_runExpander _)) (congrArg (·.sc.state) (sansCues_runExpander _))
      (congrArg (·.st.strips) (sansCues_runExpander _))
  have hst : (Machine.enterRun s).st = (runPosted s).st := by
    rw [enterRun_eq]
    repeat' split
    · rw [expireFollow_st]
    · rfl
    · rfl
  refine ⟨?_, fun hs => absurd hstate hs, fun hs => absurd hstate hs, fun hs => absurd hstate hs, ?_⟩
  · rw [hsm, hstate]
    simpa [hc] using h.image
  · exact hposted.of_eq (hsm.trans (runPosted_sm s).symm) (hstate.trans (runPosted_state s).symm) (by rw [hst])

theorem runEntry (h : AtRest s) : AtRest (runEntry s) := by
  unfold Machine.runEntry
  split <;> rename_i hd
  · exact h.lowerStop.enterRun ((InOrder.runDue_lowerStop s).trans hd)
  · exact h

theorem levelPoint (h : AtRest s) : AtRest (levelPoint s) := by
  have hl := h.lowerStop
  unfold Machine.levelPoint
  dsimp only
  split
  · rename_i hd
    exact hl.enterRun hd
  · split
    · rename_i hw
      have hrun := fadeEngineWorks_run hw
      exact hl.of_sansFades (sansFades_fadeSteps _) hl.strips.fadeSteps (fun hs => absurd hrun hs)
        (fun hs => absurd hrun hs)
    · exact hl

/-! ## The output point -/

theorem outputPoint (h : AtRest s) : AtRest (outputPoint s) := by
  have hlaw : AtRest (captureLink (gainLaw s)) := by
    have hframe := gainLaw_frame s
    refine ⟨?_, ?_, ?_, fun hs => ?_, ?_⟩
    · rw [captureLink, hframe]
      exact h.image
    · rw [captureLink, hframe]
      exact h.cues
    · rw [captureLink, hframe]
      exact h.pool
    · have hn : s.sc.state ≠ .run := by
        rw [captureLink, hframe] at hs
        exact hs
      rw [captureLink, gainLaw, if_neg hn]
      exact h.mix hn
    · rw [captureLink, hframe]
      exact h.strips
  rw [Machine.outputPoint]
  have hf : (servo (captureLink (gainLaw s))).fe = (captureLink (gainLaw s)).fe := by rw [servo_frame]
  exact hlaw.of_sansFades (sansFades_servo _) hlaw.strips.servo (fun _ => .inl (by rw [hf])) (fun _ => by rw [hf])

/-! ## The keys, which act in RUN alone -/

theorem keyScan (h : AtRest s) (mute solo : BitVec 16) (go : Bool) : AtRest (keyScan mute solo go s) := by
  have hv := sansKeys_keyScan s mute solo go
  have hs : (Machine.keyScan mute solo go s).sc.state = s.sc.state := keyScan_state s mute solo go
  refine ⟨?_, ?_, ?_, fun hn => ?_, h.strips.of_eq (keyScan_sm s mute solo go) hs (keyScan_strips s mute solo go)⟩
  · rw [keyScan_sm, hs]
    exact h.image
  · exact h.cues.of_eq hs (by rw [keyScan_fe]) (keyScan_buffer s mute solo go)
  · rw [hs, keyScan_fe]
    exact h.pool
  · rw [hs] at hn
    have : (Machine.keyScan mute solo go s).mr = s.mr := by simp [Machine.keyScan, hn]
    rw [this]
    exact h.mix hn

/-! ## Stop lines and the port -/

theorem setLine (h : AtRest s) (k : StopKind) (l : StopLine) : AtRest (setLine s k l) := by
  cases k <;> exact ⟨h.image, h.cues, h.pool, h.mix, h.strips⟩

theorem takeAssertion (h : AtRest s) (k : StopKind) : AtRest (takeAssertion k s) := by
  unfold Machine.takeAssertion
  split
  · exact h.of_sansMachines (sansMachines_assertFromClear s k)
  · exact h
  · exact h
  · split
    · exact h
    · refine AtRest.of_sansMachines (s := withdrawStop (.stop true k s.sc.number) s) ?_ (sansMachines_enterHeld _ k)
      unfold withdrawStop
      split
      · exact h.of_setBc ⟨_, rfl⟩
      · exact h

theorem lineAssertion (h : AtRest s) (k : StopKind) : AtRest (lineAssertion k s) := by
  have hl := h.setLine k { lineOf s k with asserted := true, timer := none }
  unfold Machine.lineAssertion
  dsimp only
  split
  · split
    · exact hl.takeAssertion k
    · exact hl
  · exact h

theorem lineRelease (h : AtRest s) (k : StopKind) : AtRest (lineRelease k s) := by
  have hl := h.setLine k { lineOf s k with asserted := false, timer := none }
  unfold Machine.lineRelease
  dsimp only
  split
  · split
    · exact hl.of_sansMachines (sansMachines_testRelease _ k)
    · exact hl
  · exact h

theorem answerOnly (h : AtRest s) (r : PortResult) : AtRest (answerOnly r s) := h.of_setLp ⟨_, rfl⟩

theorem byStateRow (row : PortRow) {own : State} (hown : AtRest own) (h : AtRest s) :
    AtRest (byStateRow row s own) := by
  rcases byStateRow_cases row s own with ⟨-, hb⟩ | ⟨-, ⟨r, -, hb⟩ | ⟨-, hb⟩⟩ <;> rw [hb]
  · exact h
  · exact h.answerOnly r
  · exact hown

theorem portRequest (h : AtRest s) (k : CueKind) (c : CueNumber) : AtRest (portRequest k c s) := by
  unfold Machine.portRequest
  rcases offerRequest_cases s k c .port with ⟨ho, -⟩ | ⟨ho, -⟩ | ⟨ho, -⟩ <;> rw [ho] <;>
    exact ⟨h.image, h.cues, h.pool, h.mix, h.strips⟩

theorem go (h : AtRest s) : AtRest (portGo s) := by
  refine byStateRow _ ?_ h
  split
  · exact h.answerOnly _
  · split
    · exact h.answerOnly _
    · split
      · exact ⟨h.image, h.cues, h.pool, h.mix, h.strips⟩
      · exact h.portRequest _ _

theorem fire (h : AtRest s) (arg : BitVec 24) : AtRest (portFire arg s) := by
  refine byStateRow _ ?_ h
  split
  · exact h.answerOnly _
  · split
    · exact h.answerOnly _
    · split
      · exact h.answerOnly _
      · exact h.portRequest _ _

theorem standby (h : AtRest s) (arg : BitVec 24) : AtRest (portStandby arg s) := by
  refine byStateRow _ ?_ h
  split
  · exact h.answerOnly _
  · split
    · exact h.answerOnly _
    · exact h.portRequest _ _

theorem clearOrphanFlag (h : AtRest s) (k : StopKind) (p : Peer) : AtRest (clearOrphanFlag k p s) := by
  unfold Machine.clearOrphanFlag
  split
  · exact ⟨h.image, h.cues, h.pool, h.mix, h.strips⟩
  · exact h

theorem stopRelease (h : AtRest s) (kind target : Byte) : AtRest (portStopRelease kind target s) := by
  refine byStateRow _ ?_ h
  have hack : ∀ k, AtRest (acknowledge k s) := fun k => h.of_sansMachines (sansMachines_acknowledge s k)
  unfold portAcknowledge portOrphan
  repeat' split
  all_goals first | exact h.answerOnly _ | exact (hack _).answerOnly _ | exact (h.clearOrphanFlag _ _).answerOnly _ | skip
  exact ⟨h.image, h.cues, h.pool, h.mix, h.strips⟩

/-! ## Loading and the resets -/

theorem no_image (h : AtRest s) (hl : s.sc.state ≠ .listen) (hc : s.sc.state ≠ .catchup) (hr : s.sc.state ≠ .run) :
    s.sm.image = none := by
  simpa [hl, hc, hr] using h.image

/-- Between the states without an image the station stays at rest. -/
theorem of_loading (h : AtRest s) (hn : s.sm.image = none) (hs : s.sc.state ≠ .run)
    (ht : t.sc.state = .load ∨ t.sc.state = .validating ∨ t.sc.state = .loadFault) (hi : t.sm.image = none)
    (hrest : (t.fe, t.cq, t.mr, t.st) = (s.fe, s.cq, s.mr, s.st)) : AtRest t := by
  simp only [Prod.mk.injEq] at hrest
  obtain ⟨hf, hq, hm, hst⟩ := hrest
  have htr : t.sc.state ≠ .run := by rcases ht with ht | ht | ht <;> simp [ht]
  refine ⟨?_, fun _ => ?_, fun _ => ?_, fun _ => ?_, fun ch => ?_⟩
  · rcases ht with ht | ht | ht <;> simp [hi, ht]
  · rw [hf, hq]
    exact h.cues hs
  · rw [hf]
    exact h.pool hs
  · rw [hm]
    exact h.mix hs
  · have hx := h.strips ch
    have hmotor : isMotor t ch = isMotor s ch := by simp only [isMotor, faderOf, entryOf, hi, hn]
    have hplain : isPlain t ch = isPlain s ch := by simp only [isPlain, faderOf, entryOf, hi, hn]
    rw [hmotor, hplain, hst]
    exact ⟨fun _ => hx.quiet hs, hx.absent, hx.handKind, hx.handMotor, fun hr => absurd hr htr⟩

theorem loadBegin (h : AtRest s) : AtRest (loadBegin s) := by
  unfold Machine.loadBegin
  rcases byStateRow_cases .loadBegin s _ with ⟨-, hb⟩ | ⟨-, ⟨r, -, hb⟩ | ⟨hrow, hb⟩⟩ <;> rw [hb]
  · exact h
  · exact h.answerOnly r
  · have hr : s.sc.state ≠ .run := fun hs => by simp [hs, stateRow] at hrow
    have hn : s.sm.image = none := by
      refine h.no_image ?_ ?_ hr <;> intro hs <;> simp [hs, stateRow] at hrow
    exact h.of_loading hn hr (.inl rfl) rfl rfl

theorem loadEnd (h : AtRest s) : AtRest (loadEnd s) := by
  unfold Machine.loadEnd
  rcases byStateRow_cases .load s _ with ⟨-, hb⟩ | ⟨-, ⟨r, -, hb⟩ | ⟨hrow, hb⟩⟩ <;> rw [hb]
  · exact h
  · exact h.answerOnly r
  · have hr : s.sc.state ≠ .run := fun hs => by simp [hs, stateRow] at hrow
    have hn : s.sm.image = none := by
      refine h.no_image ?_ ?_ hr <;> intro hs <;> simp [hs, stateRow] at hrow
    exact h.of_loading hn hr (.inr (.inl rfl)) hn rfl

theorem loadData (h : AtRest s) (length : Byte) (data : List Byte) : AtRest (loadData length data s) := by
  obtain ⟨bytes, lp, hd⟩ := loadData_frame length data s
  rw [hd]
  exact ⟨h.image, h.cues, h.pool, h.mix, h.strips⟩

theorem replicate_getElem {α : Type} {n : Nat} (x : α) (i : Fin n) : (Vector.replicate n x)[i] = x := by
  simp

/-- The state of a reset is at rest. -/
theorem of_reset (hi : t.sm.image.isSome = true ↔ t.sc.state = .listen ∨ t.sc.state = .catchup ∨ t.sc.state = .run)
    (hf : t.fe = FadeEngine.afterReset) (hb : t.cq.buffer = .empty)
    (ha : t.mr.applied = Vector.replicate 16 0) (hh : t.mr.headroom = Vector.replicate 16 false)
    (ho : t.mr.solo = Vector.replicate 16 false)
    (hx : ∀ ch : Channel, ∃ m i, t.st.strips[ch] = Strip.afterReset m i) : AtRest t := by
  refine ⟨hi, fun _ => ?_, fun _ => ?_, fun _ ch => ?_, fun ch => ?_⟩
  · exact ⟨by rw [hf]; rfl, hb⟩
  · rw [hf]
    rfl
  · rw [ha, hh, ho]
    simp only [replicate_getElem, and_self]
  · obtain ⟨m, i, he⟩ := hx ch
    rw [he]
    exact .reset m i

theorem coldReset (straps : Station) (s : State) : AtRest (coldReset straps s) := by
  refine of_reset ?_ rfl rfl rfl rfl rfl fun ch => ⟨0, s.st.strips[ch].touchInput, ?_⟩
  · simp [Machine.coldReset, StationController.afterReset]
  · simp [Machine.coldReset, StripController.afterReset, coldStrip]

theorem restart (h : AtRest s) : AtRest (portRestart s) := by
  unfold portRestart
  rcases byStateRow_cases .act s _ with ⟨-, hb⟩ | ⟨-, ⟨r, -, hb⟩ | ⟨hrow, hb⟩⟩ <;> rw [hb]
  · exact h
  · exact h.answerOnly r
  · refine of_reset ⟨fun _ => .inl rfl, fun _ => h.image.mpr ?_⟩ rfl rfl rfl rfl rfl
      fun ch => ⟨s.st.strips[ch].measured, s.st.strips[ch].touchInput, ?_⟩
    · cases hs : s.sc.state <;> simp [hs, stateRow] at hrow ⊢
    · simp [warmReset, StripController.afterReset, warmStrip]

/-! ## The station -/

theorem takeHeldLine (h : AtRest s) (k : StopKind) : AtRest (takeHeldLine k s) := by
  unfold Machine.takeHeldLine
  split
  · exact h.of_sansMachines (sansMachines_assertFromClear s k)
  · exact h

theorem validationEnd (h : AtRest s) : AtRest (validationEnd s) := by
  unfold Machine.validationEnd
  split
  · rename_i hs
    have hr : s.sc.state ≠ .run := by simp [hs]
    have hn : s.sm.image = none := h.no_image (by simp [hs]) (by simp [hs]) hr
    split
    · rename_i image hv
      have taken : AtRest (imageTaken image s) := by
        refine ⟨⟨fun _ => .inl rfl, fun _ => rfl⟩, fun _ => h.cues hr, fun _ => h.pool hr, fun _ => h.mix hr,
          fun ch => ?_⟩
        have hx := h.strips ch
        have hm : isMotor s ch = false := by simp [isMotor, faderOf, entryOf, hn]
        obtain ⟨ha, ho⟩ := hx.quiet hr
        exact ⟨fun _ => ⟨ha, ho⟩, fun _ => hx.absent hm, fun hh => absurd (ha.symm.trans hh) (by simp),
          fun _ => .inl ho, fun hrun => by cases hrun⟩
      rw [validationSucceeds_eq]
      exact (taken.takeHeldLine .a).takeHeldLine .b
    · exact h.of_loading hn hr (.inr (.inr rfl)) hn rfl
  · exact h

/-- Between LISTEN, CATCHUP and a state of the same rest the station stays at rest. -/
theorem of_waiting (h : AtRest s) (hs : s.sc.state ≠ .run) (ht : t.sc.state ≠ .run)
    (hi : (t.sc.state = .listen ∨ t.sc.state = .catchup ∨ t.sc.state = .run) ↔
      (s.sc.state = .listen ∨ s.sc.state = .catchup ∨ s.sc.state = .run))
    (hb : t.cq.buffer = s.cq.buffer) (hrest : (t.sm, t.fe, t.mr, t.st) = (s.sm, s.fe, s.mr, s.st)) : AtRest t := by
  simp only [Prod.mk.injEq] at hrest
  obtain ⟨hm, hf, hmr, hst⟩ := hrest
  refine ⟨?_, fun _ => ?_, fun _ => ?_, fun _ => ?_, fun ch => ?_⟩
  · rw [hm, hi]
    exact h.image
  · rw [hf, hb]
    exact h.cues hs
  · rw [hf]
    exact h.pool hs
  · rw [hmr]
    exact h.mix hs
  · have hx := h.strips ch
    rw [isMotor_of_sm hm, isPlain_of_sm hm, hst]
    exact ⟨fun _ => hx.quiet hs, hx.absent, hx.handKind, hx.handMotor, fun hr => absurd hr ht⟩

theorem listenExpiry (h : AtRest s) : AtRest (listenExpiry s) := by
  unfold Machine.listenExpiry
  split
  · rename_i hs
    refine h.of_waiting (by simp [hs]) (by simp) (by simp [hs]) ?_ rfl
    unfold cueSequencerCatchup
    dsimp only
    split <;> rfl
  · exact h

theorem walkEnd (h : AtRest s) : AtRest (walkEnd s) := by
  unfold Machine.walkEnd
  split
  · exact ⟨h.image, h.cues, h.pool, h.mix, h.strips⟩
  · exact h

theorem prefetchComplete (h : AtRest s) : AtRest (prefetchComplete s) := by
  unfold Machine.prefetchComplete
  split
  · rename_i hb
    refine ⟨h.image, fun hs => ?_, h.pool, h.mix, h.strips⟩
    have := (h.cues hs).2
    rw [hb] at this
    cases this
  all_goals exact h

theorem expansionComplete (h : AtRest s) : AtRest (expansionComplete s) := by
  unfold Machine.expansionComplete
  split
  · split
    · rename_i hrun
      refine h.of_sansBus (sansBus_of_sansCues (sansCues_runExpander (handOff _ _ s))) fun hs => ?_
      rw [runExpander_state] at hs
      exact absurd hrun hs
    · exact h
  all_goals exact h

theorem followExpiry (h : AtRest s) : AtRest (followExpiry s) := by
  unfold Machine.followExpiry
  split
  · split
    · exact h.of_sansBus (sansBus_of_sansCues (sansCues_expireFollow s _)) (expireFollow_cuesQuiet _ h.cues)
    · exact h
  · exact h

theorem stateRefresh (h : AtRest s) : AtRest (stateRefresh s) := by
  unfold Machine.stateRefresh
  split
  · exact ⟨h.image, h.cues, h.pool, h.mix, h.strips⟩
  · exact h

theorem strobe (h : AtRest s) : AtRest (strobe s) := by
  unfold Machine.strobe
  split
  · exact ⟨h.image, h.cues, h.pool, h.mix, h.strips⟩
  · exact h

theorem busFault (h : AtRest s) : AtRest (busFault s) := by
  refine h.of_sansBus (sansBus_busFault s) ?_
  unfold Machine.busFault
  split <;> exact h.cues

theorem busRestored (h : AtRest s) : AtRest (busRestored s) := by
  refine h.of_sansBus (sansBus_busRestored s) ?_
  unfold Machine.busRestored
  split <;> exact h.cues

theorem tickTouch_atHand (x : Touch) : (tickTouch x).atHand = x.atHand := by cases x <;> rfl

theorem tickTimers (h : AtRest s) : AtRest (tickTimers s) := by
  refine ⟨h.image, h.cues, h.pool, h.mix, fun ch => ?_⟩
  obtain ⟨hq, ha, hk, hm, ht⟩ := h.strips ch
  have hx : (Machine.tickTimers s).st.strips[ch] = tickStrip s.st.strips[ch] := by
    simp [Machine.tickTimers]
  rw [hx]
  refine ⟨hq, fun hn => ⟨(ha hn).1, ?_⟩, hk, hm, fun hs hmotor hh => ht hs hmotor ?_⟩
  · show tickTouch s.st.strips[ch].touch = .free
    rw [(ha hn).2]
    rfl
  · rw [← tickTouch_atHand]
    exact hh

end AtRest

/-! ## Every command and every step -/

theorem exec_atRest {c : Instr} (h : AtRest s) (he : exec c s = .next t) : AtRest t := by
  cases c <;> cases he
  case coldReset straps => exact .coldReset straps s
  case levelPoint => exact h.levelPoint.settled
  case outputPoint => exact h.outputPoint
  case gainLinkStrobe => exact h.strobe
  case conversionComplete ch m => exact (h.conversion ch m).settled
  case touchInputAsserted ch => exact h.touchAsserted ch
  case touchInputAbsent ch => exact (h.touchAbsent ch).settled
  case touchedArrival ch => exact (h.touchedArrival ch).settled
  case freeArrival ch => exact (h.freeArrival ch).settled
  case keyScan mute solo go => exact (h.keyScan mute solo go).settled
  case stopLineInputChange k a => exact h.setLine k _
  case lineAssertion k => exact (h.lineAssertion k).settled
  case lineRelease k => exact (h.lineRelease k).settled
  case bidPoint => exact h.of_setBc (bidPoint_frame s)
  case arbitrationWon => exact h.of_sansBus (sansBus_winArbitration s) (winArbitration_cuesQuiet h.cues)
  case arbitrationLost => exact h.of_setBc (loseArbitration_frame s)
  case arbitrationByteRead a b => exact h.of_setBc (arbitrationByteRead_frame s a b)
  case frameReceived groups =>
    exact (h.of_sansBus (sansBus_frameReceived s groups) (frameReceived_cuesQuiet groups h.cues)).settled
  case frameComplete => exact (h.of_sansBus (sansBus_frameComplete s) (frameComplete_cuesQuiet h.cues)).settled
  case attemptFailed place =>
    exact (h.of_sansBus (sansBus_attemptFailed s place) (attemptFailed_cuesQuiet place h.cues)).settled
  case busBreak => exact h.of_setBc (busBreak_frame s)
  case busBreakEnd => exact h.of_setBc (busBreakEnd_frame s)
  case busFault => exact h.busFault.settled
  case busRestored => exact h.busRestored.settled
  case readStatus => exact h.of_setLp (readStatus_frame s)
  case readEvents n => exact h.of_setLp (readEvents_frame n s)
  case readChannel n => exact h.of_setLp (readChannel_frame n s)
  case readPeer n => exact h.of_setLp (readPeer_frame n s)
  case readGroup n => exact h.of_setLp (readGroup_frame n s)
  case loadBegin => exact h.loadBegin
  case loadData length data => exact h.loadData length data
  case loadEnd => exact h.loadEnd
  case go => exact h.go.settled
  case fire cue => exact (h.fire cue).settled
  case standby cue => exact (h.standby cue).settled
  case stopRelease kind target => exact (h.stopRelease kind target).settled
  case clearMotor ch => exact h.clearMotor ch
  case restart => exact h.restart
  case unknownCommand code => exact h.of_setLp (unknownCommand_frame s)
  case chipSelectHigh n => exact h.of_setLp (chipSelectHigh_frame n s)
  case validationEnd => exact h.validationEnd
  case listenTimerExpiry => exact h.listenExpiry
  case catchupWalkEnd => exact h.walkEnd
  case runEntry => exact h.runEntry.settled
  case prefetchComplete => exact h.prefetchComplete
  case expansionComplete => exact h.expansionComplete
  case followExpiry => exact h.followExpiry.settled
  case delayCountExpiry slot => exact (h.delayCountExpiry slot).settled
  case fadeComplete slot => exact (h.fadeComplete slot).settled
  case restEnd ch => exact h.restEnd ch
  case motorStall ch => exact h.motorStall ch
  case groupAgeLimit g => exact h.of_sansGroups (sansGroups_groupAgeLimit s g)
  case groupSendDue ch => exact (h.of_sansGroups (sansGroups_groupSendDue s ch)).settled
  case peerLost p => exact (h.of_sansGroups (sansGroups_peerLost s p)).settled
  case stateRefresh => exact h.stateRefresh.settled
  case staleTimerExpiry => exact h.of_setLp (staleExpiry_frame s)
  case startBit => exact h.of_setBc (startBit_frame s)
  case chipSelectLow => exact h.of_setLp ⟨_, rfl⟩

/-- Every step keeps the station at rest outside RUN and the hands to the channels that may have them. -/
theorem step_atRest (h : AtRest s) (hstep : step s = .next t) : AtRest t := by
  rcases step_cases hstep with ⟨c, rest, -, he⟩ | ⟨-, rfl⟩
  · exact exec_atRest (s := { s with pending := rest }) ⟨h.image, h.cues, h.pool, h.mix, h.strips⟩ he
  · obtain ⟨hi, hc, hp, hm, hx⟩ := h.tickTimers.settled
    exact ⟨hi, hc, hp, hm, hx⟩

/-- Settles O56: the parts of `AtRest` are kept by every step, and a driven motor contradicts a hand at it. -/
theorem stepKeepsMotorsFromHands : Obligations.StepKeepsMotorsFromHands := by
  rintro s t ⟨hi, hq, hh⟩ hstep
  have h := step_atRest (atRest_of hi hq hh) hstep
  exact ⟨h.quiet, h.hands, h.noDrive⟩

end Sys2Proof.Machine
end

section
/-!
PROOFS. Every step keeps one fade on a channel, held channels free, and cue levels on their fades (O57).
-/

namespace Sys2Proof.Machine

variable {s t : State}

/-! ## The pool against the held channels and the cue levels -/

/-- No two of the records are RUNNING on one channel. -/
def NotBothRunning (x y : PoolRecord) : Prop :=
  ¬(x.isRunning = true ∧ y.isRunning = true ∧ x.channel = y.channel)

/-- What the fade engine keeps of its pool, given the channels held under KEEP and the cue levels (R58, R62, R69,
R73). -/
structure PoolOk (held : Channel → Bool) (levels : Vector Position 16) (pool : List PoolRecord) : Prop where
  one : pool.Pairwise NotBothRunning
  free : ∀ r ∈ pool, r.isLevel = true → held r.channel = false
  onFade : ∀ r ∈ pool, ∀ start target duration elapsed curve, r.state = .running start target duration elapsed curve →
    elapsed < duration ∧ levels[r.channel] = fadeLevel start target curve elapsed duration

theorem isLevel_of_isRunning {r : PoolRecord} (h : r.isRunning = true) : r.isLevel = true := by
  unfold PoolRecord.isRunning at h
  unfold PoolRecord.isLevel
  split at h <;> simp_all

theorem isRunning_of_state {r : PoolRecord} {start target : Position} {duration elapsed : Nat} {curve : Curve}
    (h : r.state = .running start target duration elapsed curve) : r.isRunning = true := by
  simp [PoolRecord.isRunning, h]

theorem notBothRunning_of_left {x y : PoolRecord} (h : x.isRunning = false) : NotBothRunning x y := by
  simp [NotBothRunning, h]

theorem notBothRunning_of_channel {x y : PoolRecord} (h : y.isRunning = true → y.channel ≠ x.channel) :
    NotBothRunning x y := fun ⟨_, hy, hc⟩ => h hy hc.symm

theorem notBothRunning_comm {x y : PoolRecord} (h : NotBothRunning x y) : NotBothRunning y x :=
  fun ⟨hy, hx, hc⟩ => h ⟨hx, hy, hc.symm⟩

theorem clampPosition_val (p : Position) : clampPosition p.val = p := by
  ext
  simp only [clampPosition]
  omega

/-- A fade begins at its start (R68, R69). -/
theorem fadeLevel_start (start target : Position) (curve : Curve) (duration : Nat) :
    fadeLevel start target curve 0 duration = start := by
  rw [fadeLevel, fadeFraction_start, Nat.cast_zero, mul_zero, Int.zero_tdiv, add_zero]
  exact clampPosition_val start

/-- No record of the pool is RUNNING on the channel. -/
def NoneRunning (ch : Channel) (pool : List PoolRecord) : Prop := ∀ r ∈ pool, r.isRunning = true → r.channel ≠ ch

theorem noneRunning_takeOver (ch : Channel) (pool : List PoolRecord) : NoneRunning ch (takeOver ch pool) := by
  intro r hr hrun hc
  simp [takeOver, hrun, hc] at hr

theorem takeOver_sublist (ch : Channel) (pool : List PoolRecord) : (takeOver ch pool).Sublist pool :=
  List.filter_sublist

theorem takeOver_append (ch : Channel) (l m : List PoolRecord) : takeOver ch (l ++ m) = takeOver ch l ++ takeOver ch m :=
  List.filter_append _ _

namespace PoolOk

variable {held held' : Channel → Bool} {levels : Vector Position 16} {pool pool' before after : List PoolRecord}

theorem nil : PoolOk held levels [] := ⟨.nil, by simp, by simp⟩

theorem sublist (h : PoolOk held levels pool) (hs : pool'.Sublist pool) : PoolOk held levels pool' :=
  ⟨h.one.sublist hs, fun r hr => h.free r (hs.subset hr), fun r hr => h.onFade r (hs.subset hr)⟩

/-- The pool stands where no channel that has a LEVEL record becomes held. -/
theorem withHeld (h : PoolOk held levels pool)
    (hh : ∀ r ∈ pool, r.isLevel = true → held' r.channel = true → held r.channel = true) :
    PoolOk held' levels pool := by
  refine ⟨h.one, fun r hr hl => ?_, h.onFade⟩
  have hfree := h.free r hr hl
  cases hb : held' r.channel with
  | false => rfl
  | true => exact absurd (hh r hr hl hb) (by simp [hfree])

/-- The cue level of a channel with no fade may be set. -/
theorem setLevel (h : PoolOk held levels pool) {ch : Channel} (x : Position) (hn : NoneRunning ch pool) :
    PoolOk held (put levels ch x) pool := by
  refine ⟨h.one, h.free, fun r hr start target duration elapsed curve hst => ?_⟩
  rw [put_other _ _ (hn r hr (isRunning_of_state hst)).symm]
  exact h.onFade r hr start target duration elapsed curve hst

/-- A fade that starts from the cue level as it stands may join where none runs on its channel. -/
theorem insertRunning (h : PoolOk held levels (before ++ after)) {r : PoolRecord} {target : Position} {duration : Nat}
    {curve : Curve} (hst : r.state = .running levels[r.channel] target duration 0 curve) (hd : 0 < duration)
    (hheld : held r.channel = false) (hn : NoneRunning r.channel (before ++ after)) :
    PoolOk held levels (before ++ r :: after) := by
  have hperm : (before ++ r :: after).Perm (r :: (before ++ after)) := List.perm_middle
  refine ⟨?_, fun x hx hl => ?_, fun x hx start tgt dur elapsed c hs => ?_⟩
  · rw [hperm.pairwise_iff notBothRunning_comm]
    refine .cons (fun x hx => notBothRunning_of_channel (hn x hx)) h.one
  · rcases List.mem_cons.mp (hperm.subset hx) with rfl | hx
    · exact hheld
    · exact h.free x hx hl
  · rcases List.mem_cons.mp (hperm.subset hx) with rfl | hx
    · rw [hst] at hs
      cases hs
      refine ⟨hd, ?_⟩
      exact (fadeLevel_start _ _ _ _).symm
    · exact h.onFade x hx start tgt dur elapsed c hs

/-- A WAITING record may join at the end, a LEVEL record where its channel is not held. -/
theorem appendWaiting (h : PoolOk held levels pool) {r : PoolRecord} (hr : r.isRunning = false)
    (hheld : r.isLevel = true → held r.channel = false) : PoolOk held levels (pool ++ [r]) := by
  refine ⟨?_, fun x hx hl => ?_, fun x hx start target duration elapsed curve hs => ?_⟩
  · refine List.pairwise_append.mpr ⟨h.one, List.pairwise_singleton _ _, fun x _ y hy => ?_⟩
    rw [List.mem_singleton.mp hy]
    exact notBothRunning_comm (notBothRunning_of_left hr)
  · rcases List.mem_append.mp hx with hx | hx
    · exact h.free x hx hl
    · rw [List.mem_singleton.mp hx] at hl ⊢
      exact hheld hl
  · rcases List.mem_append.mp hx with hx | hx
    · exact h.onFade x hx start target duration elapsed curve hs
    · rw [List.mem_singleton.mp hx] at hs
      rw [isRunning_of_state hs] at hr
      cases hr

/-! ## The advance step -/

theorem advanceLevel_of_not_running {r : PoolRecord} (h : r.isRunning = false) (levels : Vector Position 16) :
    advanceLevel levels r = levels := by
  unfold PoolRecord.isRunning at h
  unfold advanceLevel
  split at h
  · cases h
  all_goals simp_all

theorem advanceLevel_other {r : PoolRecord} {ch : Channel} (h : r.isRunning = true → r.channel ≠ ch)
    (levels : Vector Position 16) : (advanceLevel levels r)[ch] = levels[ch] := by
  cases hr : r.isRunning with
  | false => rw [advanceLevel_of_not_running hr]
  | true =>
    unfold advanceLevel
    split
    · exact put_other _ _ (h hr)
    · rfl
    · rfl

/-- The advance writes the levels of the channels with a fade alone. -/
theorem advanceLevels_other {ch : Channel} (hn : NoneRunning ch pool) (levels : Vector Position 16) :
    (pool.foldl advanceLevel levels)[ch] = levels[ch] := by
  induction pool generalizing levels with
  | nil => rfl
  | cons r rest ih =>
    rw [List.foldl_cons, ih (fun x hx => hn x (List.mem_cons_of_mem _ hx)),
      advanceLevel_other (hn r List.mem_cons_self)]

/-- With one fade on a channel at most, the advance leaves its level at its next point. -/
theorem advanceLevels_running (hp : pool.Pairwise NotBothRunning) {r : PoolRecord} (hr : r ∈ pool)
    {start target : Position} {duration elapsed : Nat} {curve : Curve}
    (hst : r.state = .running start target duration elapsed curve) (levels : Vector Position 16) :
    (pool.foldl advanceLevel levels)[r.channel] = fadeLevel start target curve (elapsed + 1) duration := by
  induction pool generalizing levels with
  | nil => cases hr
  | cons x rest ih =>
    obtain ⟨hx, hrest⟩ := List.pairwise_cons.mp hp
    rw [List.foldl_cons]
    rcases List.mem_cons.mp hr with rfl | hmem
    · rw [advanceLevels_other]
      · simp only [advanceLevel, hst]
        exact put_same _ _ _
      · intro y hy hrun hc
        exact hx y hy ⟨isRunning_of_state hst, hrun, hc.symm⟩
    · exact ih hrest hmem _

theorem advanceRecord_parts {r x : PoolRecord} (h : advanceRecord r = some x) :
    x.channel = r.channel ∧ x.isRunning = r.isRunning ∧ x.isLevel = r.isLevel := by
  unfold advanceRecord at h
  split at h
  · rename_i hst
    split at h
    · cases h
      simp [PoolRecord.isRunning, PoolRecord.isLevel, hst]
    · cases h
  · cases h
    exact ⟨rfl, rfl, rfl⟩
  · cases h
    exact ⟨rfl, rfl, rfl⟩

/-- A record that runs after the advance ran before it, one level point behind. -/
theorem advanceRecord_running {r x : PoolRecord} (h : advanceRecord r = some x) {start target : Position}
    {duration elapsed : Nat} {curve : Curve} (hst : x.state = .running start target duration elapsed curve) :
    elapsed < duration ∧ ∃ e, elapsed = e + 1 ∧ r.state = .running start target duration e curve := by
  unfold advanceRecord at h
  split at h
  · rename_i hr
    split at h
    · rename_i hlt
      cases h
      cases hst
      exact ⟨hlt, _, rfl, hr⟩
    · cases h
  · rename_i hr
    cases h
    rw [hr] at hst
    cases hst
  · rename_i hr
    cases h
    rw [hr] at hst
    cases hst

theorem advance (h : PoolOk held levels pool) :
    PoolOk held (pool.foldl advanceLevel levels) (pool.filterMap advanceRecord) := by
  refine ⟨?_, fun x hx hl => ?_, fun x hx start target duration elapsed curve hst => ?_⟩
  · refine h.one.filterMap _ fun r r' hn x hx x' hx' => ?_
    obtain ⟨hc, hr, -⟩ := advanceRecord_parts hx
    obtain ⟨hc', hr', -⟩ := advanceRecord_parts hx'
    rw [NotBothRunning, hc, hr, hc', hr']
    exact hn
  · obtain ⟨r, hr, ha⟩ := List.mem_filterMap.mp hx
    obtain ⟨hc, -, hlev⟩ := advanceRecord_parts ha
    rw [hc]
    exact h.free r hr (hlev ▸ hl)
  · obtain ⟨r, hr, ha⟩ := List.mem_filterMap.mp hx
    obtain ⟨hlt, e, rfl, hrs⟩ := advanceRecord_running ha hst
    exact ⟨hlt, (congrArg (fun ch : Channel => (pool.foldl advanceLevel levels)[ch]) (advanceRecord_parts ha).1).trans
      (advanceLevels_running h.one hr hrs levels)⟩

/-! ## The count-down step -/

theorem countRecord_parts (r : PoolRecord) :
    (countRecord r).channel = r.channel ∧ (countRecord r).isRunning = r.isRunning
      ∧ (countRecord r).isLevel = r.isLevel
      ∧ ∀ start target duration elapsed curve, (countRecord r).state = .running start target duration elapsed curve →
        r.state = .running start target duration elapsed curve := by
  unfold countRecord
  split
  · rename_i hst
    simp [PoolRecord.isRunning, PoolRecord.isLevel, hst]
  · rename_i hst
    simp [PoolRecord.isRunning, PoolRecord.isLevel, hst]
  · exact ⟨rfl, rfl, rfl, fun _ _ _ _ _ h => h⟩

theorem count (h : PoolOk held levels pool) : PoolOk held levels (pool.map countRecord) := by
  refine ⟨?_, fun x hx hl => ?_, fun x hx start target duration elapsed curve hst => ?_⟩
  · refine List.pairwise_map.mpr (h.one.imp fun {x y} hn => ?_)
    obtain ⟨hc, hr, -, -⟩ := countRecord_parts x
    obtain ⟨hc', hr', -, -⟩ := countRecord_parts y
    rw [NotBothRunning, hc, hr, hc', hr']
    exact hn
  · obtain ⟨r, hr, rfl⟩ := List.mem_map.mp hx
    obtain ⟨hc, -, hlev, -⟩ := countRecord_parts r
    rw [hc]
    exact h.free r hr (hlev ▸ hl)
  · obtain ⟨r, hr, rfl⟩ := List.mem_map.mp hx
    obtain ⟨hc, -, -, hs⟩ := countRecord_parts r
    obtain ⟨hlt, hlevel⟩ := h.onFade r hr start target duration elapsed curve (hs _ _ _ _ _ hst)
    exact ⟨hlt, (congrArg (fun ch : Channel => levels[ch]) hc).trans hlevel⟩

end PoolOk

/-! ## The state -/

/-- The pool of a state is in order against its held channels and cue levels. -/
def FadesOk (s : State) : Prop := PoolOk (heldUnderKeep s) s.fe.levels s.fe.pool

theorem fadesOk_iff : FadesOk s ↔ OneRunningRecord s ∧ HeldChannelsFree s ∧ LevelsOnTheirFades s :=
  ⟨fun h => ⟨h.one, h.free, h.onFade⟩, fun ⟨ho, hf, hl⟩ => ⟨ho, hf, hl⟩⟩

/-- What the condition on the pool reads. -/
def fadeView (s : State) : ShowMemory × Vector Strip 16 × Vector Position 16 × List PoolRecord :=
  (s.sm, s.st.strips, s.fe.levels, s.fe.pool)

theorem heldUnderKeep_of_eq (hm : t.sm = s.sm) {ch : Channel} (hx : t.st.strips[ch].mode = s.st.strips[ch].mode) :
    heldUnderKeep t ch = heldUnderKeep s ch := by
  rw [heldUnderKeep, heldUnderKeep, isKeep_of_sm hm, hx]

theorem heldUnderKeep_setStrip_other {ch j : Channel} {x : Strip} (h : heldUnderKeep t j = true)
    (hm : t.sm = s.sm) (hx : t.st.strips = put s.st.strips ch x) (hj : j ≠ ch) : heldUnderKeep s j = true := by
  rwa [heldUnderKeep_of_eq hm (by rw [hx, put_other _ _ hj.symm])] at h

theorem FadesOk.of_view (h : FadesOk s) (hv : fadeView t = fadeView s) : FadesOk t := by
  simp only [fadeView, Prod.mk.injEq] at hv
  obtain ⟨hm, hx, hl, hp⟩ := hv
  have hh : heldUnderKeep t = heldUnderKeep s := funext fun ch => heldUnderKeep_of_eq hm (by rw [hx])
  rw [FadesOk, hh, hl, hp]
  exact h

theorem FadesOk.of_nil (hp : s.fe.pool = []) : FadesOk s := by
  rw [FadesOk, hp]
  exact .nil

/-- A held channel stays so where its mode stands on a KEEP channel. -/
theorem held_of_mode (hm : t.sm = s.sm)
    (hx : ∀ ch, isKeep s ch = true → t.st.strips[ch].mode = .hand → s.st.strips[ch].mode = .hand) (ch : Channel)
    (h : heldUnderKeep t ch = true) : heldUnderKeep s ch = true := by
  simp only [heldUnderKeep, isKeep_of_sm hm, Bool.and_eq_true, beq_iff_eq] at h ⊢
  exact ⟨h.1, hx ch h.1 h.2⟩

/-- The pool stands with the cue levels, and no channel with a LEVEL record comes under a hand. -/
theorem FadesOk.of_modes (h : FadesOk s) (hm : t.sm = s.sm) (hf : t.fe = s.fe)
    (hx : ∀ ch, isKeep s ch = true → t.st.strips[ch].mode = .hand → s.st.strips[ch].mode = .hand) : FadesOk t := by
  rw [FadesOk, hf]
  exact h.withHeld fun r _ _ hh => held_of_mode hm hx r.channel hh

theorem setStrip_mode_hand {ch : Channel} {x : Strip} (hx : x.mode = .hand → s.st.strips[ch].mode = .hand)
    (j : Channel) (h : (setStrip s ch x).st.strips[j].mode = .hand) : s.st.strips[j].mode = .hand := by
  rw [strips_setStrip] at h
  split at h
  · rename_i he
    exact he ▸ hx h
  · exact h

/-- A strip whose mode does not turn to HAND may be written. -/
theorem FadesOk.setStrip (h : FadesOk s) {ch : Channel} {x : Strip}
    (hx : x.mode = .hand → s.st.strips[ch].mode = .hand) : FadesOk (setStrip s ch x) :=
  h.of_modes rfl rfl fun j _ => setStrip_mode_hand hx j

theorem isPlain_of_isKeep {ch : Channel} (h : isKeep s ch = true) : isPlain s ch = false := by
  cases hp : isPlain s ch with
  | false => rfl
  | true => exact absurd (isMotor_of_isKeep h) (by simp [isMotor_of_isPlain hp])

namespace FadesOk

/-! ## Starting a move -/

theorem levelStartNotice (h : FadesOk s) (ch : Channel) : FadesOk (levelStartNotice ch s) := by
  unfold Machine.levelStartNotice
  split
  · dsimp only
    split
    · exact h.setStrip fun hm => by cases hm
    · exact h.setStrip fun hm => hm
  · exact h

theorem setLevelAtOnce (h : FadesOk s) (ch : Channel) (target : Position) : FadesOk (setLevelAtOnce ch target s) := by
  refine levelStartNotice (s := setLevel (setPool s (takeOver ch s.fe.pool)) ch target) ?_ ch
  exact (h.sublist (takeOver_sublist ch _)).setLevel target (noneRunning_takeOver ch _)

/-- A fade starts in a place of the pool after the takeover of its channel. -/
theorem startRunning {before after : List PoolRecord} {ch : Channel}
    (h : PoolOk (heldUnderKeep s) s.fe.levels (before ++ after)) (hheld : heldUnderKeep s ch = false)
    (origin : CueNumber) (target : Position) {duration : Nat} (hd : 0 < duration) (curve : Curve) :
    FadesOk (Machine.levelStartNotice ch
      (setPool s (takeOver ch before ++ runningRecord s ch origin target duration curve :: takeOver ch after))) := by
  refine levelStartNotice (s := setPool s _) ?_ ch
  have hn := noneRunning_takeOver ch (before ++ after)
  have ht := h.sublist (takeOver_sublist ch (before ++ after))
  rw [takeOver_append] at hn ht
  exact ht.insertRunning (r := runningRecord s ch origin target duration curve) rfl hd hheld hn

theorem startWaiting {before after : List PoolRecord} {r : PoolRecord} (h : FadesOk s)
    (hp : s.fe.pool = before ++ r :: after) : FadesOk (startWaiting before r after s) := by
  have hall : PoolOk (heldUnderKeep s) s.fe.levels (before ++ r :: after) := hp ▸ h
  have hrest := hall.sublist (pool' := before ++ after)
    (.append_left (List.sublist_cons_self r after) before)
  unfold Machine.startWaiting
  split
  · exact hrest
  · rename_i hst
    split
    · exact setLevelAtOnce (s := setPool s (before ++ after)) hrest _ _
    · rename_i hd
      refine startRunning hrest (hall.free r (by simp) ?_) r.origin _ (Nat.pos_of_ne_zero hd) _
      simp [PoolRecord.isLevel, hst]
  · exact h

theorem startDue (h : FadesOk s) (n : Nat) : FadesOk (startDue n s) := by
  induction n generalizing s with
  | zero => exact h
  | succ n ih =>
    unfold Machine.startDue
    split
    · rename_i hs
      exact ih (h.startWaiting (splitDue_eq hs).1)
    · exact h

theorem countDown (h : FadesOk s) : FadesOk (countDown s) :=
  startDue (s := setPool s (s.fe.pool.map countRecord)) h.count _

theorem advance (h : FadesOk s) : FadesOk (advance s) := PoolOk.advance h

theorem snap (h : FadesOk s) (origin : CueNumber) (m : Move) : FadesOk (snap origin m s) := by
  have hs : FadesOk (match m.kind with
      | .level _ _ target => Machine.setLevelAtOnce m.channel target s
      | .muteOn => setMute s m.channel true
      | .muteOff => setMute s m.channel false) := by
    split
    · exact h.setLevelAtOnce _ _
    · exact h
    · exact h
  exact hs.of_view rfl

theorem waitingRecord_parts (origin : CueNumber) (m : Move) :
    (waitingRecord origin m).isRunning = false ∧ (waitingRecord origin m).isLevel = m.isLevel := by
  unfold waitingRecord PoolRecord.isRunning PoolRecord.isLevel Move.isLevel
  cases m.kind <;> exact ⟨rfl, rfl⟩

theorem startMove (h : FadesOk s) (origin : CueNumber) (m : Move)
    (hheld : m.isLevel = true → heldUnderKeep s m.channel = false) : FadesOk (startMove origin m s) := by
  unfold Machine.startMove
  split
  · exact h
  · exact h
  · rename_i hk
    split
    · exact h.setLevelAtOnce _ _
    · rename_i fade curve target hfade
      dsimp only
      split
      · have hall : PoolOk (heldUnderKeep s) s.fe.levels (s.fe.pool ++ []) := by
          rw [List.append_nil]
          exact h
        refine startRunning hall (hheld (by simp [Move.isLevel, hk])) origin target (duration := levelPoints fade) ?_ curve
        unfold levelPoints
        omega
      · exact h.snap _ _

theorem commitMove (h : FadesOk s) (origin : CueNumber) (m : Move) : FadesOk (commitMove origin s m) := by
  unfold Machine.commitMove
  split
  · exact h.of_view rfl
  · rename_i hc
    have hheld : m.isLevel = true → heldUnderKeep s m.channel = false := by
      intro hl
      simpa [hl] using hc
    split
    · exact h.startMove origin m hheld
    · split
      · obtain ⟨hr, hl⟩ := waitingRecord_parts origin m
        exact h.appendWaiting hr fun hlev => hheld (hl ▸ hlev)
      · exact h.snap _ _

theorem fadeSteps (h : FadesOk s) : FadesOk (fadeSteps s) :=
  foldl_keeps (P := FadesOk)
    (fun _ e ht => foldl_keeps (P := FadesOk) (fun _ m hu => hu.commitMove e.cue m) e.moves ht) _
    (h.advance.countDown.of_view (t := { Machine.countDown (Machine.advance s) with
      fe := { (Machine.countDown (Machine.advance s)).fe with commits := [] } }) rfl)

theorem delayCountExpiry (h : FadesOk s) (slot : Fin 64) : FadesOk (delayCountExpiry slot s) := by
  unfold Machine.delayCountExpiry
  split
  · split
    · rename_i hs
      exact h.startWaiting (splitAt?_eq hs)
    · exact h
  · exact h

theorem fadeComplete (h : FadesOk s) (slot : Fin 64) : FadesOk (fadeComplete slot s) := by
  unfold Machine.fadeComplete
  split
  · split
    · rename_i before r after hs
      have hp := splitAt?_eq hs
      split
      · rename_i hst
        have hrest : PoolOk (heldUnderKeep s) s.fe.levels (before ++ after) :=
          h.sublist (hp ▸ .append_left (List.sublist_cons_self r after) before)
        refine hrest.setLevel (ch := r.channel) _ fun x hx hrun hc => ?_
        have hpair : (r :: (before ++ after)).Pairwise NotBothRunning := by
          rw [← List.perm_middle.pairwise_iff notBothRunning_comm, ← hp]
          exact h.one
        exact (List.pairwise_cons.mp hpair).1 x hx ⟨isRunning_of_state hst, hrun, hc.symm⟩
      · exact h
      · exact h
    · exact h
  · exact h

/-! ## The strips -/

theorem conversion (h : FadesOk s) (ch : Channel) (m : Position) : FadesOk (conversion ch m s) := by
  unfold Machine.conversion
  split
  · split
    · refine h.of_modes rfl rfl fun j hk hj => ?_
      rw [strips_setStrip] at hj
      split at hj
      · rename_i he
        subst he
        have hp := isPlain_of_isKeep hk
        unfold convertedStrip at hj
        simp only [hp, Bool.false_and, Bool.false_eq_true, if_false] at hj
        split at hj
        · exact hj
        · exact hj
      · exact hj
    · exact h.setStrip fun hm => hm
  · exact h

/-- A TOUCHED arrival takes the LEVEL records of a channel it gives to the hand under KEEP out of the pool (R72). -/
theorem touchedAct (h : FadesOk s) (ch : Channel) : FadesOk (touchedAct ch s) := by
  unfold Machine.touchedAct
  dsimp only
  split
  · split
    · refine (h.sublist List.filter_sublist).withHeld fun r hr hl hh => ?_
      have hc : r.channel ≠ ch := by
        intro hc
        simp [hl, hc] at hr
      exact heldUnderKeep_setStrip_other (s := s) hh rfl rfl hc
    · rename_i hk
      refine h.withHeld fun r _ _ hh => ?_
      by_cases hc : r.channel = ch
      · have hk' : isKeep s ch = true := by
          rw [heldUnderKeep, isKeep_of_sm rfl, hc] at hh
          exact (Bool.and_eq_true _ _ ▸ hh).1
        exact absurd hk' hk
      · exact heldUnderKeep_setStrip_other (s := s) hh rfl rfl hc
  · exact h.setStrip fun hm => (StripsOk.motorReleased_mode _).symm.trans hm

/-- A FREE arrival sets the cue level of a channel that was held, which has no fade (R74). -/
theorem freeAct (h : FadesOk s) (ch : Channel) : FadesOk (freeAct ch s) := by
  have hmode : (stallCleared s.st.strips[ch]).mode = s.st.strips[ch].mode := by
    unfold stallCleared
    split <;> rfl
  unfold Machine.freeAct
  dsimp only
  split
  · rename_i hc
    simp only [Bool.and_eq_true, decide_eq_true_eq] at hc
    have hx : FadesOk (Machine.setStrip s ch { stallCleared s.st.strips[ch] with mode := .auto }) :=
      h.setStrip fun hm => by cases hm
    split
    · rename_i hk
      have hk : isKeep s ch = true := hk
      refine hx.setLevel _ fun r hr hrun hch => ?_
      have hfree := h.free r hr (isLevel_of_isRunning hrun)
      have hheld : heldUnderKeep s r.channel = true := by
        rw [hch, heldUnderKeep, hk, ← hmode, hc.2]
        rfl
      exact absurd hheld (by simp [hfree])
    · exact hx
  · exact h.setStrip fun hm => hmode.symm.trans hm

theorem setTouch (h : FadesOk s) (ch : Channel) (x : Touch) : FadesOk (setTouch s ch x) := h.setStrip fun hm => hm

theorem setTouchInput (h : FadesOk s) (ch : Channel) (on : Bool) : FadesOk (setTouchInput s ch on) :=
  h.setStrip fun hm => hm

theorem touchAsserted (h : FadesOk s) (ch : Channel) : FadesOk (touchAsserted ch s) := by
  have hi := h.setTouchInput ch true
  unfold Machine.touchAsserted
  dsimp only
  split
  · split
    · exact hi.setTouch _ _
    · exact hi.setTouch _ _
    · exact hi
    · exact hi
  · exact hi

theorem touchAbsent (h : FadesOk s) (ch : Channel) : FadesOk (touchAbsent ch s) := by
  have hi := h.setTouchInput ch false
  unfold Machine.touchAbsent
  dsimp only
  split
  · split
    · exact hi.setTouch _ _
    · split
      · exact (hi.setTouch _ _).freeAct ch
      · exact hi.setTouch _ _
    · exact hi
    · exact hi
  · exact hi

theorem touchedArrival (h : FadesOk s) (ch : Channel) : FadesOk (touchedArrival ch s) := by
  unfold Machine.touchedArrival
  split
  · split
    · exact (h.setTouch _ _).touchedAct ch
    · exact h
  all_goals exact h

theorem freeArrival (h : FadesOk s) (ch : Channel) : FadesOk (freeArrival ch s) := by
  unfold Machine.freeArrival
  split
  · split
    · exact (h.setTouch _ _).freeAct ch
    · exact h
  all_goals exact h

theorem servoAct (h : FadesOk s) (hd : Header) (ch : Channel) (motor : Motor) : FadesOk (servoAct hd ch motor s) := by
  refine h.of_modes (by rw [servoAct_frame]) (by rw [servoAct_frame]) fun j _ hj => ?_
  rw [servoAct_strips] at hj
  exact setStrip_mode_hand (x := servoStrip hd s.fe.levels[ch] (stallLimit s) motor s.st.strips[ch])
    (fun hm => (StripsOk.servoStrip_parts ..).1.symm.trans hm) j hj

theorem restEnd (h : FadesOk s) (ch : Channel) : FadesOk (restEnd ch s) := by
  unfold Machine.restEnd
  split
  · split
    · exact h.servoAct _ _ _
    · exact h
  · exact h

theorem motorStall (h : FadesOk s) (ch : Channel) : FadesOk (motorStall ch s) := by
  unfold Machine.motorStall
  dsimp only
  split
  · exact (h.setStrip (x := { s.st.strips[ch] with motor := .stalled, rest := 0, stall := stallLimit s })
      fun hm => hm).of_view rfl
  · exact h

theorem servo (h : FadesOk s) : FadesOk (servo s) := by
  cases him : s.sm.image with
  | none =>
    have : Machine.servo s = s := by simp [Machine.servo, him]
    rwa [this]
  | some im =>
    by_cases hrun : s.sc.state = .run
    · refine h.of_modes (servo_sm s) (by rw [servo_frame]) fun j _ hj => ?_
      rw [servo_strip s im hrun him j] at hj
      rcases StripsOk.servoedStrip_parts im.header s j with he | ⟨-, -, ha, -⟩
      · rwa [he] at hj
      · rw [ha] at hj
        cases hj
    · have : Machine.servo s = s := by simp [Machine.servo, him, hrun]
      rwa [this]

theorem outputPoint (h : FadesOk s) : FadesOk (outputPoint s) := by
  have hlaw : FadesOk (captureLink (gainLaw s)) := by
    refine h.of_view ?_
    rw [captureLink, gainLaw_frame]
    rfl
  exact hlaw.servo

theorem clearMotor (h : FadesOk s) (arg : Byte) : FadesOk (portClearMotor arg s) := by
  rcases byStateRow_cases .act s _ with ⟨-, hb⟩ | ⟨-, ⟨r, -, hb⟩ | ⟨-, hb⟩⟩ <;> rw [portClearMotor, hb]
  · exact h
  · exact h.of_view rfl
  · split
    · rename_i ch _
      refine (h.setStrip (ch := ch) (x := stallCleared s.st.strips[ch]) fun hm => ?_).of_view rfl
      unfold stallCleared at hm
      split at hm <;> exact hm
    · exact h.of_view rfl

/-! ## RUN entry -/

/-- The station enters RUN with an empty pool. -/
theorem enterRun (hp : s.fe.pool = []) : FadesOk (enterRun s) := by
  have hposted : (runPosted s).fe.pool = [] := by
    rw [runPosted, post_fe, runStarted, runExpander_pool]
    refine foldl_keeps (P := fun u : State => u.fe.pool = []) (fun u ch hu => ?_) channels hp
    have := stripAtRunEntry_pool_length u ch
    rw [hu] at this
    exact List.length_eq_zero_iff.mp (Nat.le_zero.mp this)
  refine .of_nil ?_
  rw [enterRun_eq]
  repeat' split
  · rwa [expireFollow_pool]
  · exact hposted
  · exact hposted

theorem lowerStop (h : FadesOk s) : FadesOk (lowerStop s) :=
  h.of_view (show fadeView (sansMachines (Machine.lowerStop s)) = fadeView (sansMachines s) from
    congrArg fadeView (sansMachines_lowerStop s))

theorem pool_of_runDue (ha : AtRest s) (hd : runDue s = true) : s.fe.pool = [] := by
  simp only [runDue, Bool.and_eq_true, beq_iff_eq] at hd
  exact ha.pool (by simp [hd.1])

theorem levelPoint (h : FadesOk s) (ha : AtRest s) : FadesOk (levelPoint s) := by
  unfold Machine.levelPoint
  dsimp only
  split
  · rename_i hd
    exact enterRun (pool_of_runDue ha.lowerStop hd)
  · split
    · exact h.lowerStop.fadeSteps
    · exact h.lowerStop

theorem runEntry (h : FadesOk s) (ha : AtRest s) : FadesOk (runEntry s) := by
  unfold Machine.runEntry
  split
  · rename_i hd
    exact enterRun (pool_of_runDue ha.lowerStop ((InOrder.runDue_lowerStop s).trans hd))
  · exact h

/-! ## The commands that leave strips and fades alone -/

theorem of_sansBus (h : FadesOk s) (hv : sansBus t = sansBus s) : FadesOk t :=
  h.of_view (show fadeView (sansBus t) = fadeView (sansBus s) from congrArg fadeView hv)

theorem settled (h : FadesOk s) : FadesOk (settle s) := h.of_sansBus (sansBus_settle s)

theorem of_setBc (h : FadesOk s) (ht : ∃ bc, t = { s with bc := bc }) : FadesOk t := by
  obtain ⟨bc, rfl⟩ := ht
  exact h

theorem of_setLp (h : FadesOk s) (ht : ∃ lp, t = { s with lp := lp }) : FadesOk t := by
  obtain ⟨lp, rfl⟩ := ht
  exact h

theorem of_sansGroups (h : FadesOk s) (hv : sansGroups t = sansGroups s) : FadesOk t :=
  h.of_sansBus (sansBus_of_sansGroups hv)

theorem of_sansMachines (h : FadesOk s) (hv : sansMachines t = sansMachines s) : FadesOk t :=
  h.of_sansBus (sansBus_of_sansMachines hv)

/-- Outside RUN the pool is empty, whatever show memory and the strips become. -/
theorem of_quiet (hf : t.fe.pool = s.fe.pool) (ha : AtRest s) (hs : s.sc.state ≠ .run) : FadesOk t :=
  .of_nil (hf.trans (ha.pool hs))

theorem byStateRow (row : PortRow) {own : State} (hown : FadesOk own) (h : FadesOk s) :
    FadesOk (byStateRow row s own) := by
  rcases byStateRow_cases row s own with ⟨-, hb⟩ | ⟨-, ⟨r, -, hb⟩ | ⟨-, hb⟩⟩ <;> rw [hb]
  · exact h
  · exact h.of_view rfl
  · exact hown

theorem portRequest (h : FadesOk s) (k : CueKind) (c : CueNumber) : FadesOk (portRequest k c s) := by
  unfold Machine.portRequest
  rcases offerRequest_cases s k c .port with ⟨ho, -⟩ | ⟨ho, -⟩ | ⟨ho, -⟩ <;> rw [ho] <;> exact h.of_view rfl

theorem go (h : FadesOk s) : FadesOk (portGo s) := by
  refine byStateRow _ ?_ h
  repeat' split
  · exact h.of_view rfl
  · exact h.of_view rfl
  · exact h.of_view rfl
  · exact h.portRequest _ _

theorem fire (h : FadesOk s) (arg : BitVec 24) : FadesOk (portFire arg s) := by
  refine byStateRow _ ?_ h
  repeat' split
  · exact h.of_view rfl
  · exact h.of_view rfl
  · exact h.of_view rfl
  · exact h.portRequest _ _

theorem standby (h : FadesOk s) (arg : BitVec 24) : FadesOk (portStandby arg s) := by
  refine byStateRow _ ?_ h
  repeat' split
  · exact h.of_view rfl
  · exact h.of_view rfl
  · exact h.portRequest _ _

theorem stopRelease (h : FadesOk s) (kind target : Byte) : FadesOk (portStopRelease kind target s) := by
  refine byStateRow _ ?_ h
  have hack : ∀ k, FadesOk (acknowledge k s) := fun k => h.of_sansMachines (sansMachines_acknowledge s k)
  have hclear : ∀ k p, FadesOk (clearOrphanFlag k p s) := fun k p =>
    h.of_sansBus (sansBus_of_sansOwners (sansOwners_clearOrphanFlag s k p))
  unfold portAcknowledge portOrphan
  repeat' split
  all_goals first | exact h.of_view rfl | exact (hack _).of_view rfl | exact (hclear _ _).of_view rfl

theorem setLine (h : FadesOk s) (k : StopKind) (l : StopLine) : FadesOk (setLine s k l) := by
  cases k <;> exact h

theorem takeAssertion (h : FadesOk s) (k : StopKind) : FadesOk (takeAssertion k s) := by
  unfold Machine.takeAssertion
  split
  · exact h.of_sansMachines (sansMachines_assertFromClear s k)
  · exact h
  · exact h
  · split
    · exact h
    · refine of_sansMachines (s := withdrawStop (.stop true k s.sc.number) s) ?_ (sansMachines_enterHeld _ k)
      unfold withdrawStop
      split <;> exact h

theorem lineAssertion (h : FadesOk s) (k : StopKind) : FadesOk (lineAssertion k s) := by
  have hl := h.setLine k { lineOf s k with asserted := true, timer := none }
  unfold Machine.lineAssertion
  dsimp only
  split
  · split
    · exact hl.takeAssertion k
    · exact hl
  · exact h

theorem lineRelease (h : FadesOk s) (k : StopKind) : FadesOk (lineRelease k s) := by
  have hl := h.setLine k { lineOf s k with asserted := false, timer := none }
  unfold Machine.lineRelease
  dsimp only
  split
  · split
    · exact hl.of_sansMachines (sansMachines_testRelease _ k)
    · exact hl
  · exact h

/-! ## Loading, the resets and the station -/

theorem loadBegin (h : FadesOk s) (ha : AtRest s) : FadesOk (loadBegin s) := by
  unfold Machine.loadBegin
  rcases byStateRow_cases .loadBegin s _ with ⟨-, hb⟩ | ⟨-, ⟨r, -, hb⟩ | ⟨hrow, hb⟩⟩ <;> rw [hb]
  · exact h
  · exact h.of_view rfl
  · exact of_quiet (s := s) rfl ha fun hs => by simp [hs, stateRow] at hrow

theorem loadEnd (h : FadesOk s) : FadesOk (loadEnd s) := by
  unfold Machine.loadEnd
  exact byStateRow _ (h.of_view rfl) h

theorem loadData (h : FadesOk s) (length : Byte) (data : List Byte) : FadesOk (loadData length data s) := by
  obtain ⟨bytes, lp, hd⟩ := loadData_frame length data s
  rw [hd]
  exact h

theorem restart (h : FadesOk s) : FadesOk (portRestart s) :=
  byStateRow _ (.of_nil rfl) h

theorem validationEnd (h : FadesOk s) (ha : AtRest s) : FadesOk (validationEnd s) := by
  unfold Machine.validationEnd
  split
  · rename_i hs
    split
    · rename_i image _
      have taken : FadesOk (imageTaken image s) := of_quiet (s := s) rfl ha (by simp [hs])
      have held : ∀ k {u : State}, FadesOk u → FadesOk (takeHeldLine k u) := by
        intro k u hu
        unfold takeHeldLine
        split
        · exact hu.of_sansMachines (sansMachines_assertFromClear u k)
        · exact hu
      rw [validationSucceeds_eq]
      exact held .b (held .a taken)
    · exact h.of_view rfl
  · exact h

end FadesOk

/-! ## Every command and every step -/

theorem exec_fadesOk {c : Instr} (h : FadesOk s) (ha : AtRest s) (he : exec c s = .next t) : FadesOk t := by
  cases c <;> cases he
  case coldReset straps => exact .of_nil rfl
  case levelPoint => exact (h.levelPoint ha).settled
  case outputPoint => exact h.outputPoint
  case gainLinkStrobe =>
    unfold strobe
    split <;> exact h
  case conversionComplete ch m => exact (h.conversion ch m).settled
  case touchInputAsserted ch => exact h.touchAsserted ch
  case touchInputAbsent ch => exact (h.touchAbsent ch).settled
  case touchedArrival ch => exact (h.touchedArrival ch).settled
  case freeArrival ch => exact (h.freeArrival ch).settled
  case keyScan mute solo go =>
    refine (h.of_view ?_).settled
    simp only [fadeView, keyScan_sm, keyScan_fe, keyScan_strips]
  case stopLineInputChange k a => exact h.setLine k _
  case lineAssertion k => exact (h.lineAssertion k).settled
  case lineRelease k => exact (h.lineRelease k).settled
  case bidPoint => exact h.of_setBc (bidPoint_frame s)
  case arbitrationWon => exact h.of_sansBus (sansBus_winArbitration s)
  case arbitrationLost => exact h.of_setBc (loseArbitration_frame s)
  case arbitrationByteRead a b => exact h.of_setBc (arbitrationByteRead_frame s a b)
  case frameReceived groups => exact (h.of_sansBus (sansBus_frameReceived s groups)).settled
  case frameComplete => exact (h.of_sansBus (sansBus_frameComplete s)).settled
  case attemptFailed place => exact (h.of_sansBus (sansBus_attemptFailed s place)).settled
  case busBreak => exact h.of_setBc (busBreak_frame s)
  case busBreakEnd => exact h.of_setBc (busBreakEnd_frame s)
  case busFault => exact (h.of_sansBus (sansBus_busFault s)).settled
  case busRestored => exact (h.of_sansBus (sansBus_busRestored s)).settled
  case readStatus => exact h.of_setLp (readStatus_frame s)
  case readEvents n => exact h.of_setLp (readEvents_frame n s)
  case readChannel n => exact h.of_setLp (readChannel_frame n s)
  case readPeer n => exact h.of_setLp (readPeer_frame n s)
  case readGroup n => exact h.of_setLp (readGroup_frame n s)
  case loadBegin => exact h.loadBegin ha
  case loadData length data => exact h.loadData length data
  case loadEnd => exact h.loadEnd
  case go => exact h.go.settled
  case fire cue => exact (h.fire cue).settled
  case standby cue => exact (h.standby cue).settled
  case stopRelease kind target => exact (h.stopRelease kind target).settled
  case clearMotor ch => exact h.clearMotor ch
  case restart => exact h.restart
  case unknownCommand code => exact h.of_setLp (unknownCommand_frame s)
  case chipSelectHigh n => exact h.of_setLp (chipSelectHigh_frame n s)
  case validationEnd => exact h.validationEnd ha
  case listenTimerExpiry =>
    unfold listenExpiry
    split <;> exact h
  case catchupWalkEnd =>
    unfold walkEnd
    split <;> exact h
  case runEntry => exact (h.runEntry ha).settled
  case prefetchComplete =>
    unfold prefetchComplete
    split <;> exact h
  case expansionComplete =>
    unfold expansionComplete
    split
    · split
      · exact h.of_sansBus (sansBus_of_sansCues (sansCues_runExpander (handOff _ _ s)))
      · exact h
    all_goals exact h
  case followExpiry =>
    unfold followExpiry
    split
    · split
      · exact (h.of_sansBus (sansBus_of_sansCues (sansCues_expireFollow s _))).settled
      · exact h.settled
    · exact h.settled
  case delayCountExpiry slot => exact (h.delayCountExpiry slot).settled
  case fadeComplete slot => exact (h.fadeComplete slot).settled
  case restEnd ch => exact h.restEnd ch
  case motorStall ch => exact h.motorStall ch
  case groupAgeLimit g => exact h.of_sansGroups (sansGroups_groupAgeLimit s g)
  case groupSendDue ch => exact (h.of_sansGroups (sansGroups_groupSendDue s ch)).settled
  case peerLost p => exact (h.of_sansGroups (sansGroups_peerLost s p)).settled
  case stateRefresh =>
    refine FadesOk.settled ?_
    unfold stateRefresh
    split <;> exact h
  case staleTimerExpiry => exact h.of_setLp (staleExpiry_frame s)
  case startBit => exact h.of_setBc (startBit_frame s)
  case chipSelectLow => exact h.of_setLp ⟨_, rfl⟩

theorem FadesOk.tickTimers (h : FadesOk s) : FadesOk (tickTimers s) := by
  refine h.of_modes rfl rfl fun ch _ hm => ?_
  have hx : (Machine.tickTimers s).st.strips[ch] = tickStrip s.st.strips[ch] := by simp [Machine.tickTimers]
  rw [hx] at hm
  exact hm

/-- Settles O57: `FadesOk` is kept by every step of a station at rest outside RUN. -/
theorem stepKeepsFadesOnTheirLevels : Obligations.StepKeepsFadesOnTheirLevels := by
  rintro s t ⟨hi, hq, hh⟩ hf hstep
  have ha := atRest_of hi hq hh
  have h := fadesOk_iff.mpr hf
  rw [← fadesOk_iff]
  rcases step_cases hstep with ⟨c, rest, -, he⟩ | ⟨-, rfl⟩
  · exact exec_fadesOk (s := { s with pending := rest }) h ⟨ha.image, ha.cues, ha.pool, ha.mix, ha.strips⟩ he
  · exact h.tickTimers.settled.of_view rfl

end Sys2Proof.Machine
end

section
/-!
PROOFS. Every step keeps the stops covered, absent peers clear and a silent station silent (O58).
-/

namespace Sys2Proof.Machine

variable {s t : State}

/-! ## The conditions in their parts -/

/-- A peer table in order under a station number (R148). -/
def PeersOk (s : State) : Prop := AbsentPeersClear s ∧ OwnEntryUntouched s

/-- A station that may not send is silent (R139, R142, R144). -/
def Hushed (s : State) : Prop := FollowerSilent s ∧ SilentOutsideRun s

/-- What the step statement keeps but for the effective stop, which an entry to HELD leaves behind for a moment
(log 13). -/
structure Kept (s : State) : Prop where
  peers : PeersOk s
  hushed : Hushed s

/-- What the step statement keeps. -/
structure Guarded (s : State) : Prop extends Kept s where
  covered : StopCovered s

/-- What the conditions read of the bus controller. -/
def busView (bc : BusController) : Option Sending × Option Flight × Option Flight × Option Flight × Option Flight :=
  (bc.sending, bc.stopFlight, bc.cueFlight, bc.groupFlight, bc.stateFlight)

/-- What the conditions read. -/
def guardView (s : State) : (Station × StationState × Vector PeerEntry 31 × Bool)
    × (StopMachine × StopMachine × EffectiveStop × Option (StopKind × Peer)) × List Request
    × (Option Sending × Option Flight × Option Flight × Option Flight × Option Flight) :=
  ((s.sc.number, s.sc.state, s.sc.peers, s.sc.stateRequest),
    (s.sp.machineA, s.sp.machineB, s.sp.effective, s.sp.orphan), s.cq.outgoing, busView s.bc)

theorem silent_iff : Silent s ↔ busView s.bc = (none, none, none, none, none) := by
  simp [Silent, busView]

theorem machineOf_of_eq (ha : t.sp.machineA = s.sp.machineA) (hb : t.sp.machineB = s.sp.machineB) (k : StopKind) :
    machineOf t k = machineOf s k := by
  cases k <;> assumption

theorem PeersOk.of_eq (h : PeersOk s) (hn : t.sc.number = s.sc.number) (hp : t.sc.peers = s.sc.peers) : PeersOk t := by
  obtain ⟨ha, ho⟩ := h
  exact ⟨by simpa only [AbsentPeersClear, hp] using ha, by simpa only [OwnEntryUntouched, hp, hn] using ho⟩

/-- A station that sends nothing outside RUN may change its state where RUN neither begins nor ends. -/
theorem Hushed.of_eq (h : Hushed s) (hn : t.sc.number = s.sc.number)
    (hs : s.sc.state = .run → t.sc.state = .run) (hb : busView t.bc = busView s.bc)
    (hq : t.sc.state ≠ .run → t.cq.outgoing = s.cq.outgoing) (ho : t.sc.state ≠ .run → t.sp.orphan = s.sp.orphan)
    (hr : t.sc.state ≠ .run → t.sc.stateRequest = s.sc.stateRequest)
    (hm : t.sc.state ≠ .run → ∀ k, machineOf t k = machineOf s k) : Hushed t := by
  obtain ⟨hf, hout⟩ := h
  have hsilent : Silent s → Silent t := by
    rw [silent_iff, silent_iff, hb]
    exact id
  refine ⟨fun h0 => hsilent (hf (hn ▸ h0)), fun ht => ?_⟩
  obtain ⟨hsil, hout, horphan, hreq, hmach⟩ := hout fun he => ht (hs he)
  refine ⟨hsilent hsil, (hq ht).trans hout, (ho ht).trans horphan, (hr ht).trans hreq, fun k => ?_⟩
  rw [hm ht k]
  exact hmach k

/-- On a full station in RUN nothing holds it back. -/
theorem Hushed.of_run (hs : s.sc.state = .run) (hn : s.sc.number ≠ 0) : Hushed s :=
  ⟨fun h0 => absurd h0 hn, fun h => absurd hs h⟩

/-! ## The derived stop -/

theorem kindInForce_iff {k : StopKind} : kindInForce s k = true ↔
    (machineOf s k).holds = true ∨ ∃ p : Peer, s.sc.peers[p].presence ≠ .absent ∧ s.sc.peers[p].stop k = true := by
  simp only [kindInForce, Bool.or_eq_true, List.any_eq_true, Bool.and_eq_true, bne_iff_ne]
  refine or_congr Iff.rfl ⟨fun ⟨e, he, hp⟩ => ?_, fun ⟨p, hp⟩ => ⟨s.sc.peers[p], ?_, hp⟩⟩
  · obtain ⟨i, hi, rfl⟩ := List.mem_iff_getElem.mp he
    refine ⟨⟨i, by simpa using hi⟩, ?_⟩
    simpa using hp
  · simp

theorem stopRank_derivedStop : stopRank (derivedStop s) =
    if kindInForce s .a then 2 else if kindInForce s .b then 1 else 0 := by
  unfold derivedStop
  split
  · rfl
  · split <;> rfl

/-- A stop that holds fewer kinds in force is not higher. -/
theorem StopCovered.of_inForce (h : StopCovered s) (he : t.sp.effective = s.sp.effective)
    (hk : ∀ k, kindInForce t k = true → kindInForce s k = true) : StopCovered t := by
  have ha := hk .a
  have hb := hk .b
  rw [StopCovered, stopRank_derivedStop] at h ⊢
  rw [he]
  refine le_trans ?_ h
  cases hta : kindInForce t .a <;> cases htb : kindInForce t .b <;> simp_all
  split <;> omega

theorem StopCovered.of_eq (h : StopCovered s) (ha : t.sp.machineA = s.sp.machineA)
    (hb : t.sp.machineB = s.sp.machineB) (hp : t.sc.peers = s.sc.peers) (he : t.sp.effective = s.sp.effective) :
    StopCovered t := by
  refine h.of_inForce he fun k hk => ?_
  rw [kindInForce_iff] at hk ⊢
  rwa [machineOf_of_eq ha hb, hp] at hk

theorem Kept.of_view (h : Kept s) (hv : guardView t = guardView s) : Kept t := by
  simp only [guardView, Prod.mk.injEq] at hv
  obtain ⟨⟨hn, hs, hp, hr⟩, ⟨ha, hb, -, ho⟩, hq, hbus⟩ := hv
  exact ⟨h.peers.of_eq hn hp, h.hushed.of_eq hn (fun hrun => hs.trans hrun) hbus (fun _ => hq) (fun _ => ho)
    (fun _ => hr) (fun _ => machineOf_of_eq ha hb)⟩

theorem Guarded.of_view (h : Guarded s) (hv : guardView t = guardView s) : Guarded t := by
  refine ⟨h.toKept.of_view hv, ?_⟩
  simp only [guardView, Prod.mk.injEq] at hv
  obtain ⟨⟨-, -, hp, -⟩, ⟨ha, hb, he, -⟩, -⟩ := hv
  exact h.covered.of_eq ha hb hp he

/-! ## The effective stop and the machines -/

theorem Kept.requestState (h : Kept s) : Kept (requestState s) := by
  unfold Machine.requestState
  split
  · rename_i hs
    refine ⟨h.peers, h.hushed.of_eq rfl id rfl (fun _ => rfl) (fun _ => rfl) (fun hn => absurd hs hn) fun _ _ => rfl⟩
  · exact h

theorem Guarded.requestState (h : Guarded s) : Guarded (requestState s) :=
  ⟨h.toKept.requestState, h.covered.of_eq (by rw [requestState_sp]) (by rw [requestState_sp]) (requestState_peers s)
    (by rw [requestState_sp])⟩

theorem Kept.raiseStop (h : Kept s) : Guarded (raiseStop s) := by
  refine ⟨?_, raiseStop_covers s⟩
  unfold Machine.raiseStop
  split
  · exact ⟨h.peers, h.hushed⟩
  · exact h

theorem Guarded.lowerStop (h : Guarded s) : Guarded (lowerStop s) := by
  unfold Machine.lowerStop
  split
  · exact ⟨⟨h.peers, h.hushed⟩, le_refl (stopRank (derivedStop s))⟩
  · exact h

/-- A machine may enter any state in RUN, and CLEAR and HELD outside it. -/
theorem Kept.setMachine (h : Kept s) {k : StopKind} {m : StopMachine}
    (hm : s.sc.state ≠ .run → m.state = .clear ∨ m.state = .held) : Kept (setMachine s k m) := by
  refine ⟨h.peers.of_eq (by rw [setMachine_sc]) (by rw [setMachine_sc]), ?_⟩
  obtain ⟨hf, hout⟩ := h.hushed
  refine ⟨fun h0 => ?_, fun hs => ?_⟩
  · rw [setMachine_sc] at h0
    rw [Silent, setMachine_bc]
    exact hf h0
  · rw [setMachine_sc] at hs
    obtain ⟨hsil, hq, ho, hr, hmach⟩ := hout hs
    rw [Silent, setMachine_bc, setMachine_cq, setMachine_orphan, setMachine_sc]
    refine ⟨hsil, hq, ho, hr, fun j => ?_⟩
    rw [machineOf_setMachine]
    split
    · exact hm hs
    · exact hmach j

/-- A machine that holds where it held before raises no stop. -/
theorem StopCovered.setMachine (h : StopCovered s) {k : StopKind} {m : StopMachine}
    (hm : m.holds = true → (machineOf s k).holds = true) : StopCovered (setMachine s k m) := by
  refine h.of_inForce (by cases k <;> rfl) fun j hj => ?_
  rw [kindInForce_iff] at hj ⊢
  rw [machineOf_setMachine, setMachine_sc] at hj
  split at hj
  · rename_i he
    subst he
    exact hj.imp_left hm
  · exact hj

theorem Guarded.setMachine (h : Guarded s) {k : StopKind} {m : StopMachine}
    (hm : s.sc.state ≠ .run → m.state = .clear ∨ m.state = .held)
    (hh : m.holds = true → (machineOf s k).holds = true) : Guarded (setMachine s k m) :=
  ⟨h.toKept.setMachine hm, h.covered.setMachine hh⟩

theorem canAnnounce_run (h : canAnnounce s = true) : s.sc.state = .run := by
  simp only [canAnnounce, Bool.and_eq_true, beq_iff_eq] at h
  exact h.2

theorem Guarded.enterClear (h : Guarded s) (k : StopKind) : Guarded (enterClear k s) := by
  have hm : Guarded (Machine.setMachine s k { state := .clear, ack := false }) :=
    h.setMachine (fun _ => .inl rfl) fun hh => by cases hh
  exact (hm.of_view (t := post .stopChange (kindCode k) (machineCode .clear) _) rfl).requestState

theorem Guarded.testRelease (h : Guarded s) (k : StopKind) : Guarded (testRelease k s) := by
  unfold Machine.testRelease
  split
  · rename_i hc
    simp only [Bool.and_eq_true, decide_eq_true_eq] at hc
    split
    · rename_i ha
      exact h.setMachine (fun hs => absurd (canAnnounce_run ha) hs) fun _ => by simp [StopMachine.holds, hc.1]
    · exact h.enterClear k
  · exact h

/-- The effective stop rises as a machine enters HELD (log 13). -/
theorem Kept.enterHeld (h : Kept s) (k : StopKind) : Guarded (enterHeld k s) := by
  have hm : Kept (Machine.setMachine s k { machineOf s k with state := .held }) := h.setMachine fun _ => .inr rfl
  have hp : Kept (post .stopChange (kindCode k) (machineCode .held)
    (Machine.setMachine s k { machineOf s k with state := .held })) := hm.of_view rfl
  exact hp.requestState.raiseStop.testRelease k

theorem Guarded.assertFromClear (h : Guarded s) (k : StopKind) : Guarded (assertFromClear k s) := by
  unfold Machine.assertFromClear
  split
  · rename_i ha
    exact h.setMachine (fun hs => absurd (canAnnounce_run ha) hs) fun hh => by cases hh
  · exact h.toKept.enterHeld k

theorem Guarded.acknowledge (h : Guarded s) (k : StopKind) : Guarded (acknowledge k s) := by
  refine Guarded.testRelease ?_ k
  exact h.setMachine (fun hs => (h.hushed.2 hs).2.2.2.2 k) id

/-! ## Writing a peer's entry -/

theorem isOwn_iff {p : Peer} : isOwn s p = true ↔ peerNumber p = s.sc.number.val := by
  simp [isOwn]

/-- The own entry is ABSENT (R148). -/
theorem PeersOk.own_absent (h : PeersOk s) {p : Peer} (hp : s.sc.peers[p].presence ≠ .absent) : isOwn s p = false := by
  cases ho : isOwn s p with
  | false => rfl
  | true =>
    rw [h.2 p (isOwn_iff.mp ho)] at hp
    exact absurd rfl hp

theorem peers_setPeer (s : State) (p q : Peer) (e : PeerEntry) :
    (setPeer s p e).sc.peers[q] = if p = q then e else s.sc.peers[q] := by
  simp [Fin.val_inj]

/-- Another station's entry may be written, clear where it is ABSENT. -/
theorem Kept.setPeer (h : Kept s) {p : Peer} {e : PeerEntry} (hp : isOwn s p = false)
    (he : e.presence = .absent → e.solo = false ∧ e.stopA = false ∧ e.stopB = false) : Kept (setPeer s p e) := by
  refine ⟨⟨fun q => ?_, fun q hq => ?_⟩, h.hushed⟩
  · rw [peers_setPeer]
    split
    · exact he
    · exact h.peers.1 q
  · rw [peers_setPeer]
    split
    · rename_i heq
      subst heq
      exact absurd (isOwn_iff (s := s).mpr hq) (by simp [hp])
    · exact h.peers.2 q hq

/-- An entry that sets no flag raises no stop. -/
theorem StopCovered.setPeer (h : StopCovered s) {p : Peer} {e : PeerEntry}
    (he : ∀ k, e.presence ≠ .absent → e.stop k = true →
      s.sc.peers[p].presence ≠ .absent ∧ s.sc.peers[p].stop k = true) : StopCovered (setPeer s p e) := by
  refine h.of_inForce rfl fun k hk => ?_
  rw [kindInForce_iff] at hk ⊢
  refine hk.imp id fun ⟨q, hq⟩ => ?_
  rw [peers_setPeer] at hq
  split at hq
  · exact ⟨p, he k hq.1 hq.2⟩
  · exact ⟨q, hq⟩

theorem Guarded.clearFlag (h : Guarded s) {p : Peer} (k : StopKind) (hp : isOwn s p = false)
    (hl : s.sc.peers[p].presence ≠ .absent) : Guarded (setPeer s p (s.sc.peers[p].withStop k false)) := by
  refine ⟨h.toKept.setPeer hp fun ha => absurd ha ?_, h.covered.setPeer fun j _ hj => ⟨hl, ?_⟩⟩
  · rwa [presence_withStop]
  · rw [stop_withStop] at hj
    split at hj
    · cases hj
    · exact hj

theorem Guarded.clearOrphanFlag (h : Guarded s) (k : StopKind) (p : Peer) : Guarded (clearOrphanFlag k p s) := by
  unfold Machine.clearOrphanFlag
  split
  · rename_i hl
    have hne : s.sc.peers[p].presence ≠ .absent := by
      rw [hl]
      simp
    exact h.clearFlag k (h.peers.own_absent hne) hne
  · exact h

/-! ## The owners of frames -/

theorem Guarded.dropOrphan (h : Guarded s) : Guarded { s with sp := { s.sp with orphan := none } } := by
  obtain ⟨hf, hout⟩ := h.hushed
  refine ⟨⟨h.peers, hf, fun hs => ?_⟩, h.covered⟩
  obtain ⟨hsil, hq, -, hr, hm⟩ := hout hs
  exact ⟨hsil, hq, rfl, hr, hm⟩

theorem Guarded.stopFrameEnd (h : Guarded s) (release : Bool) (k : StopKind) (target : Station) :
    Guarded (stopFrameEnd release k target s) := by
  unfold Machine.stopFrameEnd
  split
  · split
    · exact h.toKept.enterHeld k
    · dsimp only
      split
      · exact (h.enterClear k).assertFromClear k
      · exact h.enterClear k
    · exact h
  · split
    · exact h.dropOrphan.clearOrphanFlag _ _
    · exact h

/-- The cue sequencer offers no request outside RUN. -/
theorem expireAtOnce_of_not_run (hs : s.sc.state ≠ .run) : expireAtOnce s = s := by
  unfold expireAtOnce
  split
  · simp [hs]
  · rfl

theorem bufferOnFire_outgoing (c : CueNumber) (s : State) : (bufferOnFire c s).cq.outgoing = s.cq.outgoing := by
  unfold bufferOnFire
  repeat' split
  all_goals rfl

theorem takeFire_outgoing (c : CueNumber) (n : Nat) (o : OriginKind) {s : State} (hs : s.sc.state ≠ .run) :
    (takeFire c n o s).cq.outgoing = s.cq.outgoing := by
  unfold takeFire
  repeat' split
  · rfl
  · rfl
  · rfl
  · unfold acceptFire
    dsimp only
    rw [expireAtOnce_of_not_run, runExpander_of_not_run, post_cq]
    · exact bufferOnFire_outgoing _ _
    all_goals simpa using hs

theorem takeStandby_outgoing (c : CueNumber) {s : State} (hs : s.sc.state ≠ .run) :
    (takeStandby c s).cq.outgoing = s.cq.outgoing := by
  unfold takeStandby
  rw [runExpander_of_not_run]
  · unfold discardPrefetch
    split <;> rfl
  · rwa [discardPrefetch_state]

theorem takeCue_outgoing (k : CueKind) (c : CueNumber) (n : Nat) (o : OriginKind) {s : State}
    (hs : s.sc.state ≠ .run) : (takeCue k c n o s).cq.outgoing = s.cq.outgoing := by
  unfold takeCue
  split
  · rfl
  · exact takeFire_outgoing c n o hs
  · exact takeFire_outgoing c n o hs
  · exact takeStandby_outgoing c hs
  · exact takeStandby_outgoing c hs
  · rfl

/-- What the cue sequencer does keeps the conditions where it makes no request outside RUN. -/
theorem Guarded.of_sansCues (h : Guarded s) (hv : sansCues t = sansCues s)
    (hq : s.sc.state ≠ .run → t.cq.outgoing = s.cq.outgoing) : Guarded t := by
  have hs : t.sc.state = s.sc.state := congrArg (·.sc.state) hv
  have hn : t.sc.number = s.sc.number := congrArg (·.sc.number) hv
  have hp : t.sc.peers = s.sc.peers := congrArg (·.sc.peers) hv
  have hr : t.sc.stateRequest = s.sc.stateRequest := congrArg (·.sc.stateRequest) hv
  have hsp : t.sp = s.sp := congrArg (·.sp) hv
  have hbc : t.bc = s.bc := congrArg (·.bc) hv
  refine ⟨⟨h.peers.of_eq hn hp, h.hushed.of_eq hn (hs.trans ·) (by rw [hbc]) (fun ht => hq (hs ▸ ht)) (fun _ => by rw [hsp])
    (fun _ => hr) fun _ k => machineOf_of_eq (by rw [hsp]) (by rw [hsp]) k⟩,
    h.covered.of_eq (by rw [hsp]) (by rw [hsp]) hp (by rw [hsp])⟩

theorem Guarded.takeCue (h : Guarded s) (k : CueKind) (c : CueNumber) (n : Nat) (o : OriginKind) :
    Guarded (takeCue k c n o s) :=
  h.of_sansCues (sansCues_takeCue s k c n o) (takeCue_outgoing k c n o)

/-- Requests that leave the queue leave an empty one empty. -/
theorem Guarded.fewerRequests (h : Guarded s) {l : List Request} (hl : s.cq.outgoing = [] → l = []) :
    Guarded { s with cq := { s.cq with outgoing := l } } :=
  h.of_sansCues rfl fun hs => by
    have he := (h.hushed.2 hs).2.1
    exact (hl he).trans he.symm

theorem Guarded.groupFrameEnd (h : Guarded s) (completed : Bool) (g : Group) (mute : Bool) (position : Position) :
    Guarded (groupFrameEnd completed g mute position s) := by
  unfold Machine.groupFrameEnd
  split
  · exact h.of_view rfl
  · exact h

theorem Guarded.frameEnd (h : Guarded s) (completed : Bool) (p : Payload) : Guarded (frameEnd completed p s) := by
  cases p with
  | stop release k target => exact h.stopFrameEnd release k target
  | cue k o c => exact (h.fewerRequests (l := s.cq.outgoing.eraseP (·.sent)) fun he => by rw [he]; rfl).takeCue k c _ o
  | group g m x => exact h.groupFrameEnd completed g m x
  | state x a b l => exact h

theorem Guarded.endFlight (h : Guarded s) (c : FrameClass) : Guarded (setFlight s c none) := by
  have hsil : Silent s → Silent (setFlight s c none) := by
    rintro ⟨h1, h2, h3, h4, h5⟩
    cases c <;> exact ⟨by assumption, by first | rfl | assumption, by first | rfl | assumption,
      by first | rfl | assumption, by first | rfl | assumption⟩
  have hm : ∀ k, machineOf (setFlight s c none) k = machineOf s k := by
    intro k
    cases c <;> rfl
  obtain ⟨hf, hout⟩ := h.hushed
  refine ⟨⟨h.peers.of_eq (by rw [setFlight_sc]) (by rw [setFlight_sc]), fun h0 => ?_, fun hs => ?_⟩, ?_⟩
  · rw [setFlight_sc] at h0
    exact hsil (hf h0)
  · rw [setFlight_sc] at hs
    obtain ⟨hs, hq, ho, hr, hmach⟩ := hout hs
    rw [setFlight_cq, setFlight_sp, setFlight_sc]
    exact ⟨hsil hs, hq, ho, hr, fun k => hm k ▸ hmach k⟩
  · exact h.covered.of_eq (by rw [setFlight_sp]) (by rw [setFlight_sp]) (by rw [setFlight_sc]) (by rw [setFlight_sp])

theorem Guarded.settled (h : Guarded s) : Guarded (settle s) := by
  refine settle_keeps (P := Guarded) (fun s c t _ hone hs => ?_) h
  rcases abandonOne_cases hone with ⟨f, -, rfl⟩ | ⟨p, -, rfl⟩ | ⟨r, -, rest, hsub, rfl⟩ | ⟨ch, -, rfl⟩ | rfl
  · exact (hs.endFlight c).frameEnd _ _
  · exact hs.frameEnd _ _
  · exact (hs.fewerRequests fun he => List.sublist_nil.mp (he ▸ hsub)).takeCue _ _ _ _
  · exact hs.of_view rfl
  · obtain ⟨hf, hout⟩ := hs.hushed
    refine ⟨⟨hs.peers, hf, fun hr => ?_⟩, hs.covered⟩
    obtain ⟨hsil, hq, ho, -, hm⟩ := hout hr
    exact ⟨hsil, hq, ho, rfl, hm⟩

/-! ## Commands that leave the conditions alone -/

theorem Guarded.of_sansFades (h : Guarded s) (hv : sansFades t = sansFades s) : Guarded t :=
  h.of_view (show guardView (sansFades t) = guardView (sansFades s) from congrArg guardView hv)

theorem Guarded.of_setLp (h : Guarded s) (ht : ∃ lp, t = { s with lp := lp }) : Guarded t := by
  obtain ⟨lp, rfl⟩ := ht
  exact h.of_view rfl

theorem Guarded.posted (h : Guarded s) (k : EventKind) (a b : Nat) : Guarded (post k a b s) := h.of_view rfl

theorem Guarded.answerOnly (h : Guarded s) (r : PortResult) : Guarded (answerOnly r s) := h.of_view rfl

/-! ## The bus -/

namespace Guarded

/-- The bus controller may change as it will where it stays silent, or on a full station in RUN. -/
theorem setBc (h : Guarded s) (bc : BusController)
    (hb : busView bc = busView s.bc ∨ (s.bc.sending ≠ none ∨ s.sc.number ≠ 0 ∧ s.sc.state = .run)) :
    Guarded { s with bc := bc } := by
  refine ⟨⟨h.peers, ?_⟩, h.covered⟩
  rcases hb with hb | hb
  · exact h.hushed.of_eq rfl id hb (fun _ => rfl) (fun _ => rfl) (fun _ => rfl) fun _ _ => rfl
  · have hfree : s.sc.number ≠ 0 ∧ s.sc.state = .run := by
      rcases hb with hb | hb
      · refine ⟨fun h0 => hb (h.hushed.1 h0).1, ?_⟩
        by_contra hs
        exact hb (h.hushed.2 hs).1.1
      · exact hb
    exact .of_run hfree.2 hfree.1

/-- A station that sends is a full one in RUN. -/
theorem sends (h : Guarded s) (hs : s.bc.sending ≠ none) : s.sc.number ≠ 0 ∧ s.sc.state = .run := by
  refine ⟨fun h0 => hs (h.hushed.1 h0).1, ?_⟩
  by_contra hr
  exact hs (h.hushed.2 hr).1.1

/-- Outside RUN no class has a frame to offer (R97, R131, R144, R153, R160). -/
theorem offerOf_outside (h : Guarded s) (hs : s.sc.state ≠ .run) (c : FrameClass) : offerOf s c = none := by
  obtain ⟨⟨-, hstop, hcue, hgroup, hstate⟩, hq, ho, hr, hm⟩ := h.hushed.2 hs
  cases c with
  | stop =>
    have ha := hm .a
    have hb := hm .b
    rcases ha with ha | ha <;> rcases hb with hb | hb <;>
      simp [offerOf, flightOf, hstop, freshOffer, pendingStops, ho, ha, hb]
  | cue => simp [offerOf, flightOf, hcue, freshOffer, hq]
  | group => simp [offerOf, flightOf, hgroup, freshOffer, supplyMaster, hs]
  | state => simp [offerOf, flightOf, hstate, freshOffer, hr]

theorem chooseBid_outside (h : Guarded s) (hs : s.sc.state ≠ .run) : chooseBid s = none := by
  simp [chooseBid, h.offerOf_outside hs]

theorem bidPoint (h : Guarded s) : Guarded (bidPoint s) := by
  have bid : ∀ {u : State}, Guarded u → Guarded (bidOrWait u) := by
    intro u hu
    unfold bidOrWait
    split
    · rename_i p hp
      have hcan : cannotBid u = false := by
        cases hc : cannotBid u with
        | false => rfl
        | true => simp [chooseBid, hc] at hp
      simp only [cannotBid, cannotSend, isFollower, Bool.or_eq_false_iff, beq_eq_false_iff_ne] at hcan
      obtain ⟨⟨hn, -⟩, -⟩ := hcan
      refine hu.setBc _ (.inr (.inr ⟨hn, ?_⟩))
      by_contra hs
      exact absurd hp (by simp [chooseBid_outside hu hs])
    · exact hu.setBc _ (.inl rfl)
  unfold Machine.bidPoint
  split
  · refine bid ?_
    split
    · exact h.setBc _ (.inl rfl)
    · exact h
  · exact h

theorem winArbitration (h : Guarded s) : Guarded (winArbitration s) := by
  cases hs : s.bc.sending with
  | none =>
    have : Machine.winArbitration s = s := by simp [Machine.winArbitration, hs]
    rwa [this]
  | some f =>
    obtain ⟨hn, hr⟩ := h.sends (by simp [hs])
    obtain ⟨bc, out, req, hw, -⟩ := winArbitration_frame s
    rw [hw]
    exact ⟨⟨h.peers, .of_run hr hn⟩, h.covered⟩

theorem loseArbitration (h : Guarded s) : Guarded (loseArbitration s) := by
  unfold Machine.loseArbitration
  split
  · rename_i f hf
    split
    · exact h
    · exact h.setBc _ (.inr (.inl (by simp [hf])))
  · exact h

/-- What a sending station's win leaves is a full station in RUN. -/
theorem won (h : Guarded s) (hs : s.bc.sending ≠ none) :
    (Machine.winArbitration s).sc.number ≠ 0 ∧ (Machine.winArbitration s).sc.state = .run := by
  obtain ⟨bc, out, req, hw, -⟩ := winArbitration_frame s
  rw [hw]
  exact h.sends hs

theorem frameComplete (h : Guarded s) : Guarded (frameComplete s) := by
  unfold Machine.frameComplete
  split
  · rename_i f hf
    exact ((h.winArbitration.setBc _ (.inr (.inr (h.won (by simp [hf]))))).endFlight _).frameEnd _ _
  · exact h

theorem setFlight (h : Guarded s) (hs : s.sc.number ≠ 0 ∧ s.sc.state = .run) (c : FrameClass) (f : Option Flight) :
    Guarded (setFlight s c f) := by
  cases c <;> exact h.setBc _ (.inr (.inr hs))

theorem attemptFailed (h : Guarded s) (place : FailurePlace) : Guarded (attemptFailed place s) := by
  unfold Machine.attemptFailed
  split
  · rename_i f hf
    have hrun := h.won (by simp [hf])
    have hw := h.winArbitration.setBc (afterFailure place (Machine.winArbitration s).bc) (.inr (.inr hrun))
    dsimp only
    split
    · split
      · exact hw.setFlight hrun _ _
      · exact ((hw.endFlight _).posted _ _ _).frameEnd _ _
    · exact hw
  · exact h

theorem setCopy (h : Guarded s) (p : Peer) (c : FrameClass) (x : Option Payload) : Guarded (setCopy s p c x) :=
  h.of_view rfl

theorem presenceNotice (h : Guarded s) (p : Peer) : Guarded (presenceNotice p s) := by
  unfold Machine.presenceNotice
  split
  · exact h
  · rename_i ho
    have ho : isOwn s p = false := by simpa using ho
    dsimp only
    have hp : Guarded (setPeer s p { s.sc.peers[p] with presence := .present, heard := 0 }) := by
      refine Guarded.mk (h.toKept.setPeer ho fun ha => by cases ha) (h.covered.setPeer fun k _ hk => ?_)
      have hk : s.sc.peers[p].stop k = true := by cases k <;> exact hk
      refine ⟨fun ha => ?_, hk⟩
      obtain ⟨-, hsa, hsb⟩ := h.peers.1 p ha
      have hclear : s.sc.peers[p].stop k = false := by cases k <;> assumption
      exact absurd (hclear.symm.trans hk) (by simp)
    split
    · exact hp
    · exact hp.of_view rfl

theorem setMuted (h : Guarded s) :  Guarded { s with sc := { s.sc with txMuted := true } } := h.of_view rfl

theorem noticed (h : Guarded s) (p : Peer) (c : FrameClass) : Guarded (noticed p c s) := by
  have hp := h.presenceNotice p
  unfold Machine.noticed duplicateNotice
  split
  · split
    · exact hp
    · exact (hp.setMuted.posted _ _ _).settled
  · exact hp

theorem isOwn_presenceNotice (p q : Peer) (s : State) : isOwn (Machine.presenceNotice p s) q = isOwn s q := by
  rw [isOwn, isOwn, presenceNotice_number]

theorem presenceNotice_present {p : Peer} (ho : isOwn s p = false) :
    (Machine.presenceNotice p s).sc.peers[p].presence = .present := by
  unfold Machine.presenceNotice
  rw [if_neg (by simp [ho])]
  dsimp only
  split <;> simp

/-- After its notices the sender is the own number or PRESENT. -/
theorem noticed_sender (p : Peer) (c : FrameClass) (s : State) :
    isOwn (Machine.noticed p c s) p = true ∨ (Machine.noticed p c s).sc.peers[p].presence ≠ .absent := by
  unfold Machine.noticed
  cases ho : isOwn s p with
  | true =>
    refine .inl ?_
    rw [if_pos ((isOwn_presenceNotice p p s).trans ho), isOwn, duplicateNotice_number, ← isOwn, isOwn_presenceNotice, ho]
  | false =>
    refine .inr ?_
    rw [if_neg (by rw [isOwn_presenceNotice, ho]; simp), presenceNotice_present ho]
    simp

theorem applyStop (h : Guarded s) (release : Bool) (k : StopKind) (target : Station) {p : Peer}
    (hp : isOwn s p = true ∨ s.sc.peers[p].presence ≠ .absent) : Guarded (applyStop release k target p s) := by
  unfold Machine.applyStop
  split
  · exact h
  · rename_i ho
    have ho : isOwn s p = false := by simpa using ho
    have hpres : s.sc.peers[p].presence ≠ .absent := by simpa [ho] using hp
    split
    · split
      · rename_i q _
        split
        · rename_i hc
          rw [Bool.or_eq_true, decide_eq_true_eq, Bool.and_eq_true, decide_eq_true_eq] at hc
          rcases hc with rfl | ⟨hown, hl⟩
          · exact h.clearFlag k ho hpres
          · refine h.clearFlag k (by simpa using hown) ?_
            rw [hl]
            simp
        · exact h
      · exact h
    · refine Kept.raiseStop (h.toKept.setPeer ho fun ha => absurd ha ?_)
      rwa [presence_withStop]

theorem applyState (h : Guarded s) (solo a b : Bool) (last : Option CueNumber) {p : Peer}
    (hp : isOwn s p = true ∨ s.sc.peers[p].presence ≠ .absent) : Guarded (applyState solo a b last p s) := by
  unfold Machine.applyState
  split
  · exact h
  · rename_i ho
    have ho : isOwn s p = false := by simpa using ho
    have hpres : s.sc.peers[p].presence ≠ .absent := by simpa [ho] using hp
    have hk : Kept (setPeer s p { s.sc.peers[p] with solo := solo, stopA := a, stopB := b, last := last }) :=
      h.toKept.setPeer ho fun ha => absurd ha hpres
    dsimp only
    refine Kept.raiseStop ?_
    split
    · exact hk.of_view rfl
    · exact hk

theorem applyGroup (h : Guarded s) (g : Group) (mute : Bool) (position : Position) (p : Peer) :
    Guarded (applyGroup g mute position p s) := by
  unfold Machine.applyGroup
  split
  · exact h
  · split
    · split
      · exact h.of_view rfl
      · exact h
    · split
      · exact h.of_view rfl
      · exact h

theorem handFrame (h : Guarded s) (payload : Payload) {p : Peer}
    (hp : isOwn s p = true ∨ s.sc.peers[p].presence ≠ .absent) : Guarded (handFrame payload p s) := by
  cases payload with
  | stop r k target => exact h.applyStop r k target hp
  | cue k o c => exact (h.fewerRequests (l := s.cq.outgoing.filter _) fun he => by rw [he]; rfl).takeCue k c _ o
  | group g m x => exact h.applyGroup g m x p
  | state x a b l => exact h.applyState x a b l hp

theorem frameReceived (h : Guarded s) (groups : List (BitVec 5)) : Guarded (frameReceived groups s) := by
  cases hr : readsFrame s with
  | false => rwa [frameReceived_of_not_reads s groups hr]
  | true =>
    have hover : Guarded (frameOver (lastRun groups) s) := h.setBc _ (.inl rfl)
    rcases frameReceived_cases s groups hr with ⟨fault, -, ht⟩ | ⟨p, repeated, payload, -, ht⟩ <;> rw [ht]
    · exact hover.of_view rfl
    · rw [takeFrame_eq]
      split
      · exact hover.noticed p _
      · exact ((hover.noticed p _).setCopy _ _ _).handFrame payload (noticed_sender p _ _)

theorem startBit (h : Guarded s) : Guarded (startBit s) := by
  unfold Machine.startBit
  repeat' split
  all_goals first | exact h | exact h.setBc _ (.inl rfl)

theorem arbitrationByteRead (h : Guarded s) (first second : BitVec 5) :
    Guarded (arbitrationByteRead first second s) := by
  have hc : Guarded (emptyNamedCopy first second s) := by
    unfold emptyNamedCopy
    dsimp only
    split
    · exact h.setCopy _ _ _
    · exact h
  unfold Machine.arbitrationByteRead
  split
  · dsimp only
    split
    · exact hc.setBc _ (.inl rfl)
    · exact hc
  · exact h

theorem busBreak (h : Guarded s) : Guarded (busBreak s) := by
  unfold Machine.busBreak
  split
  all_goals first | exact h | exact h.setBc _ (.inl rfl)

theorem busBreakEnd (h : Guarded s) : Guarded (busBreakEnd s) := by
  unfold Machine.busBreakEnd
  repeat' split
  all_goals first | exact h | exact h.setBc _ (.inl rfl)

theorem busFault (h : Guarded s) : Guarded (busFault s) := by
  unfold Machine.busFault
  split
  · refine Guarded.of_view (s := { s with bc := { s.bc with
      phase := .fault, drive := 0, quiet := 0, faultTime := 0, sending := none
      stopFlight := s.bc.stopFlight.map Flight.fresh
      cueFlight := s.bc.cueFlight.map Flight.fresh
      groupFlight := s.bc.groupFlight.map Flight.fresh
      stateFlight := s.bc.stateFlight.map Flight.fresh
      yieldGroup := false, yieldState := false } }) ?_ rfl
    have hsil : Silent s → Silent { s with bc := { s.bc with
        phase := .fault, drive := 0, quiet := 0, faultTime := 0, sending := none
        stopFlight := s.bc.stopFlight.map Flight.fresh
        cueFlight := s.bc.cueFlight.map Flight.fresh
        groupFlight := s.bc.groupFlight.map Flight.fresh
        stateFlight := s.bc.stateFlight.map Flight.fresh
        yieldGroup := false, yieldState := false } } := by
      rintro ⟨-, h1, h2, h3, h4⟩
      simp [Silent, h1, h2, h3, h4]
    obtain ⟨hf, hout⟩ := h.hushed
    refine ⟨⟨h.peers, fun h0 => hsil (hf h0), fun hs => ?_⟩, h.covered⟩
    obtain ⟨hs, hrest⟩ := hout hs
    exact ⟨hsil hs, hrest⟩
  · exact h

theorem busRestored (h : Guarded s) : Guarded (busRestored s) := by
  unfold Machine.busRestored
  split
  · exact h.of_view rfl
  · exact h

/-! ## Keys, lines and the port -/

/-- In RUN the cue sequencer may be asked for anything. -/
theorem inRun (h : Guarded s) (hr : s.sc.state = .run) (hv : sansCues t = sansCues s) : Guarded t :=
  h.of_sansCues hv fun hs => absurd hr hs

theorem keyScan (h : Guarded s) (mute solo : BitVec 16) (go : Bool) : Guarded (keyScan mute solo go s) := by
  by_cases hr : s.sc.state = .run
  · have hv := sansKeys_keyScan s mute solo go
    have hs : (Machine.keyScan mute solo go s).sc.state = .run := (keyScan_state s mute solo go).trans hr
    have hn : (Machine.keyScan mute solo go s).sc.number = s.sc.number := congrArg (·.sc.number) hv
    have hsp : (Machine.keyScan mute solo go s).sp = s.sp := congrArg (·.sp) hv
    have hp : (Machine.keyScan mute solo go s).sc.peers = s.sc.peers := congrArg (·.sc.peers) hv
    have hb : (Machine.keyScan mute solo go s).bc = s.bc := congrArg (·.bc) hv
    have out : ∀ {q : Prop}, (Machine.keyScan mute solo go s).sc.state ≠ .run → q := fun hne => absurd hs hne
    exact ⟨⟨h.peers.of_eq hn hp, h.hushed.of_eq hn (fun _ => hs) (by rw [hb]) out out out out⟩,
      h.covered.of_eq (by rw [hsp]) (by rw [hsp]) hp (by rw [hsp])⟩
  · refine h.of_view ?_
    simp [Machine.keyScan, hr, guardView]

theorem setLine (h : Guarded s) (k : StopKind) (l : StopLine) : Guarded (setLine s k l) := by
  cases k <;> exact h.of_view rfl

theorem takeAssertion (h : Guarded s) (k : StopKind) : Guarded (takeAssertion k s) := by
  unfold Machine.takeAssertion
  split
  · exact h.assertFromClear k
  · exact h
  · exact h
  · split
    · exact h
    · refine Kept.enterHeld (Guarded.toKept ?_) k
      unfold withdrawStop
      split
      · rename_i hs
        refine h.setBc _ (.inr (.inl ?_))
        simp only [inArbitration, beq_iff_eq] at hs
        simp [hs]
      · exact h

theorem lineAssertion (h : Guarded s) (k : StopKind) : Guarded (lineAssertion k s) := by
  have hl := h.setLine k { lineOf s k with asserted := true, timer := none }
  unfold Machine.lineAssertion
  dsimp only
  split
  · split
    · exact hl.takeAssertion k
    · exact hl
  · exact h

theorem lineRelease (h : Guarded s) (k : StopKind) : Guarded (lineRelease k s) := by
  have hl := h.setLine k { lineOf s k with asserted := false, timer := none }
  unfold Machine.lineRelease
  dsimp only
  split
  · split
    · exact hl.testRelease k
    · exact hl
  · exact h

theorem byStateRow (row : PortRow) {own : State} (hown : stateRow row s.sc.state = none → Guarded own)
    (h : Guarded s) : Guarded (byStateRow row s own) := by
  rcases byStateRow_cases row s own with ⟨-, hb⟩ | ⟨-, ⟨r, -, hb⟩ | ⟨hrow, hb⟩⟩ <;> rw [hb]
  · exact h
  · exact h.answerOnly r
  · exact hown hrow

/-- The cue commands go on to their own rule in RUN alone (R172). -/
theorem run_of_cueRow {x : StationState} (h : stateRow .cue x = none) : x = .run := by
  cases x <;> simp [stateRow] at h ⊢

theorem portRequest (h : Guarded s) (hr : s.sc.state = .run) (k : CueKind) (c : CueNumber) :
    Guarded (portRequest k c s) := by
  unfold Machine.portRequest
  rcases offerRequest_cases s k c .port with ⟨ho, -⟩ | ⟨ho, -⟩ | ⟨ho, -⟩ <;> rw [ho]
  · exact h.answerOnly _
  · exact h.answerOnly _
  · exact Guarded.of_view (s := { s with cq := { s.cq with
      outgoing := s.cq.outgoing ++ [{ kind := k, cue := c, origin := .port, sent := false }] } }) (h.inRun hr rfl) rfl

theorem go (h : Guarded s) : Guarded (portGo s) := by
  refine byStateRow _ (fun hrow => ?_) h
  have hr := run_of_cueRow hrow
  repeat' split
  · exact h.answerOnly _
  · exact h.answerOnly _
  · exact h.of_view rfl
  · exact h.portRequest hr _ _

theorem fire (h : Guarded s) (arg : BitVec 24) : Guarded (portFire arg s) := by
  refine byStateRow _ (fun hrow => ?_) h
  have hr := run_of_cueRow hrow
  repeat' split
  · exact h.answerOnly _
  · exact h.answerOnly _
  · exact h.answerOnly _
  · exact h.portRequest hr _ _

theorem standby (h : Guarded s) (arg : BitVec 24) : Guarded (portStandby arg s) := by
  refine byStateRow _ (fun hrow => ?_) h
  have hr := run_of_cueRow hrow
  repeat' split
  · exact h.answerOnly _
  · exact h.answerOnly _
  · exact h.portRequest hr _ _

theorem portAcknowledge (h : Guarded s) (k : StopKind) : Guarded (portAcknowledge k s) := by
  unfold Machine.portAcknowledge
  repeat' split
  · exact h.answerOnly _
  · exact h.answerOnly _
  · exact h.answerOnly _
  · exact (h.acknowledge k).answerOnly _
  · exact (h.acknowledge k).answerOnly _

theorem portOrphan (h : Guarded s) (k : StopKind) (p : Peer) : Guarded (portOrphan k p s) := by
  unfold Machine.portOrphan
  repeat' split
  · exact h.answerOnly _
  · exact h.answerOnly _
  · exact h.answerOnly _
  · rename_i ha
    have hr := canAnnounce_run ha
    exact Guarded.of_view (s := { s with sp := { s.sp with orphan := some (k, p) } })
      ⟨⟨h.peers, h.hushed.1, fun hs => absurd hr hs⟩, h.covered⟩ rfl
  · exact (h.clearOrphanFlag k p).answerOnly _

theorem stopRelease (h : Guarded s) (kind target : Byte) : Guarded (portStopRelease kind target s) := by
  refine byStateRow _ (fun _ => ?_) h
  repeat' split
  · exact h.answerOnly _
  · exact h.portAcknowledge _
  · exact h.portOrphan _ _
  · exact h.answerOnly _

theorem clearMotor (h : Guarded s) (arg : Byte) : Guarded (portClearMotor arg s) := by
  refine byStateRow _ (fun _ => ?_) h
  split
  · exact h.of_view rfl
  · exact h.answerOnly _

/-! ## The station -/

/-- Between two states outside RUN nothing is heard of the change. -/
theorem of_waiting (h : Guarded s) (hs : s.sc.state ≠ .run)
    (hv : guardView t = guardView { s with sc := { s.sc with state := t.sc.state } }) : Guarded t := by
  refine Guarded.of_view (s := { s with sc := { s.sc with state := t.sc.state } }) ?_ hv
  exact ⟨⟨h.peers, h.hushed.of_eq rfl (fun hr => absurd hr hs) rfl (fun _ => rfl) (fun _ => rfl) (fun _ => rfl)
    fun _ _ => rfl⟩, h.covered.of_eq rfl rfl rfl rfl⟩

theorem loadBegin (h : Guarded s) : Guarded (loadBegin s) := by
  refine byStateRow _ (fun hrow => ?_) h
  refine h.of_waiting (fun hs => ?_) rfl
  simp [hs, stateRow] at hrow

theorem loadEnd (h : Guarded s) : Guarded (loadEnd s) := by
  refine byStateRow _ (fun hrow => ?_) h
  refine h.of_waiting (fun hs => ?_) rfl
  simp [hs, stateRow] at hrow

theorem loadData (h : Guarded s) (length : Byte) (data : List Byte) : Guarded (loadData length data s) := by
  obtain ⟨bytes, lp, hd⟩ := loadData_frame length data s
  rw [hd]
  exact h.of_view rfl

/-- The blocks of a reset meet every condition. -/
theorem of_reset (hp : t.sc.peers = Vector.replicate 31 PeerEntry.afterReset)
    (hb : busView t.bc = (none, none, none, none, none)) (hq : t.cq.outgoing = []) (ho : t.sp.orphan = none)
    (hr : t.sc.stateRequest = false) (ha : t.sp.machineA = StopMachine.afterReset)
    (hm : t.sp.machineB = StopMachine.afterReset) : Guarded t := by
  have hpeer : ∀ p : Peer, t.sc.peers[p] = PeerEntry.afterReset := by
    intro p
    simp [hp]
  have hmach : ∀ k, machineOf t k = StopMachine.afterReset := by
    intro k
    cases k <;> assumption
  refine ⟨⟨⟨fun p _ => ?_, fun p _ => hpeer p⟩, fun _ => silent_iff.mpr hb, fun _ => ⟨silent_iff.mpr hb, hq, ho, hr,
    fun k => .inl ?_⟩⟩, ?_⟩
  · rw [hpeer]
    exact ⟨rfl, rfl, rfl⟩
  · rw [hmach]
    rfl
  · have none : ∀ k, kindInForce t k = false := by
      intro k
      rw [Bool.eq_false_iff, Ne, kindInForce_iff, hmach]
      rintro (h | ⟨p, hp, -⟩)
      · cases h
      · rw [hpeer] at hp
        exact hp rfl
    rw [StopCovered, stopRank_derivedStop, none, none]
    exact Nat.zero_le _

theorem coldReset (straps : Station) (s : State) : Guarded (coldReset straps s) :=
  of_reset rfl rfl rfl rfl rfl rfl rfl

theorem restart (h : Guarded s) : Guarded (portRestart s) :=
  byStateRow _ (fun _ => of_reset rfl rfl rfl rfl rfl rfl rfl) h

theorem takeHeldLine (h : Guarded s) (k : StopKind) : Guarded (takeHeldLine k s) := by
  unfold Machine.takeHeldLine
  split
  · exact h.assertFromClear k
  · exact h

theorem validationEnd (h : Guarded s) : Guarded (validationEnd s) := by
  unfold Machine.validationEnd
  split
  · rename_i hs
    have hr : s.sc.state ≠ .run := by simp [hs]
    split
    · rename_i image _
      have taken : Guarded (imageTaken image s) := h.of_waiting hr rfl
      rw [validationSucceeds_eq]
      exact (taken.takeHeldLine .a).takeHeldLine .b
    · exact h.of_waiting hr rfl
  · exact h

theorem listenExpiry (h : Guarded s) : Guarded (listenExpiry s) := by
  unfold Machine.listenExpiry
  split
  · rename_i hs
    refine h.of_waiting (by simp [hs]) ?_
    simp only [guardView, Prod.mk.injEq, true_and, and_true]
    unfold cueSequencerCatchup
    split <;> rfl
  · exact h

theorem strips_sp (l : List Channel) (s : State) : (l.foldl stripAtRunEntry s).sp = s.sp :=
  congrArg (·.sp) (sansFades_strips s l)

theorem enterRun_sp (s : State) : (Machine.enterRun s).sp = s.sp := by
  have hp : (runPosted s).sp = s.sp := by
    rw [runPosted, post_sp, runStarted, runExpander_sp, strips_sp]
    rfl
  rw [enterRun_eq]
  repeat' split
  · rw [expireFollow_sp, hp]
  · exact hp
  · exact hp

theorem enterRun (h : Guarded s) : Guarded (enterRun s) := by
  have hv := sansEntry_enterRun s
  have hs := enterRun_state s
  have hn : (Machine.enterRun s).sc.number = s.sc.number := congrArg (·.sc.number) hv
  have hp : (Machine.enterRun s).sc.peers = s.sc.peers := congrArg (·.sc.peers) hv
  have hb : (Machine.enterRun s).bc = s.bc := congrArg (·.bc) hv
  have hsp : (Machine.enterRun s).sp = s.sp := enterRun_sp s
  have out : ∀ {q : Prop}, (Machine.enterRun s).sc.state ≠ .run → q := fun hne => absurd hs hne
  exact ⟨⟨h.peers.of_eq hn hp, h.hushed.of_eq hn (fun _ => hs) (by rw [hb]) out out out out⟩,
    h.covered.of_eq (by rw [hsp]) (by rw [hsp]) hp (by rw [hsp])⟩

theorem runEntry (h : Guarded s) : Guarded (runEntry s) := by
  unfold Machine.runEntry
  split
  · exact h.lowerStop.enterRun
  · exact h

theorem levelPoint (h : Guarded s) : Guarded (levelPoint s) := by
  unfold Machine.levelPoint
  dsimp only
  split
  · exact h.lowerStop.enterRun
  · split
    · exact h.lowerStop.of_sansFades (sansFades_fadeSteps _)
    · exact h.lowerStop

theorem walkEnd (h : Guarded s) : Guarded (walkEnd s) := by
  unfold Machine.walkEnd
  split
  · exact h.of_view rfl
  · exact h

theorem peerLost (h : Guarded s) (p : Peer) : Guarded (peerLost p s) := by
  unfold Machine.peerLost
  dsimp only
  split
  · rename_i hpres
    have hne : s.sc.peers[p].presence ≠ .absent := by
      rw [hpres]
      simp
    have hp : Guarded (setPeer s p { s.sc.peers[p] with
        presence := .lost, solo := false, heard := max s.sc.peers[p].heard Config.lostTime }) := by
      refine Guarded.mk (h.toKept.setPeer (h.peers.own_absent hne) fun ha => by cases ha)
        (h.covered.setPeer fun k _ hk => ⟨hne, ?_⟩)
      cases k <;> exact hk
    refine foldl_keeps (P := Guarded) (fun u g hu => ?_) groupNumbers ?_
    · refine hu.of_view ?_
      unfold groupOwnerLost promote makeStale
      repeat' split
      all_goals rfl
    · split <;> exact hp.of_view rfl
  · exact h

theorem stateRefresh (h : Guarded s) : Guarded (stateRefresh s) := by
  unfold Machine.stateRefresh
  split
  · rename_i hr
    exact ⟨⟨h.peers, h.hushed.1, fun hs => absurd hr hs⟩, h.covered⟩
  · exact h

theorem prefetchComplete (h : Guarded s) : Guarded (prefetchComplete s) := by
  unfold Machine.prefetchComplete
  split
  all_goals first | exact h | exact h.of_view rfl

theorem expansionComplete (h : Guarded s) : Guarded (expansionComplete s) := by
  unfold Machine.expansionComplete
  split
  · split
    · rename_i hr
      exact h.inRun hr (sansCues_runExpander (handOff _ _ s))
    · exact h
  all_goals exact h

theorem followExpiry (h : Guarded s) : Guarded (followExpiry s) := by
  unfold Machine.followExpiry
  split
  · split
    · rename_i hc
      simp only [Bool.and_eq_true, decide_eq_true_eq] at hc
      exact h.inRun hc.1 (sansCues_expireFollow s _)
    · exact h
  · exact h

theorem outputPoint (h : Guarded s) : Guarded (outputPoint s) := by
  have hlaw : Guarded (captureLink (gainLaw s)) := by
    refine h.of_view ?_
    rw [captureLink, gainLaw_frame]
    rfl
  exact hlaw.of_sansFades (sansFades_servo _)

theorem groupAgeLimit (h : Guarded s) (g : Group) : Guarded (groupAgeLimit g s) := by
  refine h.of_view ?_
  unfold Machine.groupAgeLimit makeStale
  repeat' split
  all_goals rfl

theorem groupSendDue (h : Guarded s) (ch : Channel) : Guarded (groupSendDue ch s) := by
  refine h.of_view ?_
  unfold Machine.groupSendDue
  dsimp only
  repeat' split
  all_goals rfl

theorem strobe (h : Guarded s) : Guarded (strobe s) := by
  unfold Machine.strobe
  split
  · exact h.of_view rfl
  · exact h

theorem tickTimers (h : Guarded s) : Guarded (tickTimers s) := by
  have hentry : ∀ p : Peer, (Machine.tickTimers s).sc.peers[p] = tickPeer s.sc.peers[p] := by
    intro p
    simp [Machine.tickTimers, tickStation]
  have hpresence : ∀ e, (tickPeer e).presence = e.presence ∧ (tickPeer e).solo = e.solo ∧ (tickPeer e).stopA = e.stopA
      ∧ (tickPeer e).stopB = e.stopB := by
    intro e
    unfold tickPeer
    split <;> exact ⟨rfl, rfl, rfl, rfl⟩
  have hbus : busView (tickBus s.bc) = busView s.bc := by
    unfold tickBus
    repeat' split
    all_goals rfl
  refine ⟨⟨⟨fun p hp => ?_, fun p hp => ?_⟩, h.hushed.of_eq rfl id hbus (fun _ => rfl) (fun _ => rfl) (fun _ => rfl)
    fun _ => machineOf_of_eq rfl rfl⟩, ?_⟩
  · rw [hentry] at hp ⊢
    obtain ⟨h1, h2, h3, h4⟩ := hpresence s.sc.peers[p]
    rw [h1] at hp
    rw [h2, h3, h4]
    exact h.peers.1 p hp
  · rw [hentry, h.peers.2 p hp]
    rfl
  · refine h.covered.of_inForce rfl fun k hk => ?_
    rw [kindInForce_iff] at hk ⊢
    refine hk.imp (fun hm => ?_) fun ⟨p, hpres, hstop⟩ => ⟨p, ?_⟩
    · rwa [machineOf_of_eq (s := s) (t := Machine.tickTimers s) rfl rfl] at hm
    · rw [hentry] at hpres hstop
      obtain ⟨h1, -, h3, h4⟩ := hpresence s.sc.peers[p]
      rw [h1] at hpres
      refine ⟨hpres, ?_⟩
      cases k with
      | a => exact h3.symm.trans hstop
      | b => exact h4.symm.trans hstop

end Guarded

/-! ## Every command and every step -/

theorem exec_guarded {c : Instr} (h : Guarded s) (he : exec c s = .next t) : Guarded t := by
  cases c <;> cases he
  case coldReset straps => exact .coldReset straps s
  case levelPoint => exact h.levelPoint.settled
  case outputPoint => exact h.outputPoint
  case gainLinkStrobe => exact h.strobe
  case conversionComplete ch m => exact (h.of_sansFades (sansFades_conversion s ch m)).settled
  case touchInputAsserted ch => exact h.of_sansFades (sansFades_touchAsserted s ch)
  case touchInputAbsent ch => exact (h.of_sansFades (sansFades_touchAbsent s ch)).settled
  case touchedArrival ch => exact (h.of_sansFades (sansFades_touchedArrival s ch)).settled
  case freeArrival ch => exact (h.of_sansFades (sansFades_freeArrival s ch)).settled
  case keyScan mute solo go => exact (h.keyScan mute solo go).settled
  case stopLineInputChange k a => exact h.setLine k _
  case lineAssertion k => exact (h.lineAssertion k).settled
  case lineRelease k => exact (h.lineRelease k).settled
  case bidPoint => exact h.bidPoint
  case arbitrationWon => exact h.winArbitration
  case arbitrationLost => exact h.loseArbitration
  case arbitrationByteRead a b => exact h.arbitrationByteRead a b
  case frameReceived groups => exact (h.frameReceived groups).settled
  case frameComplete => exact h.frameComplete.settled
  case attemptFailed place => exact (h.attemptFailed place).settled
  case busBreak => exact h.busBreak
  case busBreakEnd => exact h.busBreakEnd
  case busFault => exact h.busFault.settled
  case busRestored => exact h.busRestored.settled
  case readStatus => exact h.of_setLp (readStatus_frame s)
  case readEvents n => exact h.of_setLp (readEvents_frame n s)
  case readChannel n => exact h.of_setLp (readChannel_frame n s)
  case readPeer n => exact h.of_setLp (readPeer_frame n s)
  case readGroup n => exact h.of_setLp (readGroup_frame n s)
  case loadBegin => exact h.loadBegin
  case loadData length data => exact h.loadData length data
  case loadEnd => exact h.loadEnd
  case go => exact h.go.settled
  case fire cue => exact (h.fire cue).settled
  case standby cue => exact (h.standby cue).settled
  case stopRelease kind target => exact (h.stopRelease kind target).settled
  case clearMotor ch => exact h.clearMotor ch
  case restart => exact h.restart
  case unknownCommand code => exact h.of_setLp (unknownCommand_frame s)
  case chipSelectHigh n => exact h.of_setLp (chipSelectHigh_frame n s)
  case validationEnd => exact h.validationEnd
  case listenTimerExpiry => exact h.listenExpiry
  case catchupWalkEnd => exact h.walkEnd
  case runEntry => exact h.runEntry.settled
  case prefetchComplete => exact h.prefetchComplete
  case expansionComplete => exact h.expansionComplete
  case followExpiry => exact h.followExpiry.settled
  case delayCountExpiry slot => exact (h.of_sansFades (sansFades_delayCountExpiry s slot)).settled
  case fadeComplete slot => exact (h.of_sansFades (sansFades_fadeComplete s slot)).settled
  case restEnd ch => exact h.of_sansFades (sansFades_restEnd s ch)
  case motorStall ch => exact h.of_sansFades (sansFades_motorStall s ch)
  case groupAgeLimit g => exact h.groupAgeLimit g
  case groupSendDue ch => exact (h.groupSendDue ch).settled
  case peerLost p => exact (h.peerLost p).settled
  case stateRefresh => exact h.stateRefresh.settled
  case staleTimerExpiry => exact h.of_setLp (staleExpiry_frame s)
  case startBit => exact h.startBit
  case chipSelectLow => exact h.of_setLp ⟨_, rfl⟩

theorem guarded_iff : Guarded s ↔
    AbsentPeersClear s ∧ OwnEntryUntouched s ∧ StopCovered s ∧ FollowerSilent s ∧ SilentOutsideRun s :=
  ⟨fun h => ⟨h.peers.1, h.peers.2, h.covered, h.hushed.1, h.hushed.2⟩,
    fun ⟨ha, ho, hc, hf, hs⟩ => ⟨⟨⟨ha, ho⟩, hf, hs⟩, hc⟩⟩

/-- Settles O58: `Guarded` is kept by every step. -/
theorem stepKeepsStopsAndSilence : Obligations.StepKeepsStopsAndSilence := by
  intro s t hs hstep
  rw [← guarded_iff] at hs ⊢
  rcases step_cases hstep with ⟨c, rest, -, he⟩ | ⟨-, rfl⟩
  · exact exec_guarded (s := { s with pending := rest }) (hs.of_view rfl) he
  · exact hs.tickTimers.settled.of_view rfl

end Sys2Proof.Machine
end

section
/-!
PROOFS. Steps on a command in front (O1), the values of the resets (O3, O4), and that they meet every condition (O59).
-/

namespace Sys2Proof.Machine

variable {s t : State}

/-- Every command answers a next state (log 30). -/
theorem exec_next (c : Instr) (s : State) : ∃ t, exec c s = .next t := by
  cases c <;> exact ⟨_, rfl⟩

/-- Settles O1: a step runs the front command, which answers a next state. -/
theorem stepRunsFrontCommand : Obligations.StepRunsFrontCommand := by
  intro c rest s hp
  have hstep : step s = exec c { s with pending := rest } := by
    unfold step
    rw [hp]
  obtain ⟨t, ht⟩ := exec_next c { s with pending := rest }
  exact ⟨hstep, t, hstep.trans ht⟩

/-- Settles O3: the reset values are the model's `afterReset` records written out. -/
theorem coldResetValues : Obligations.ColdResetValues := fun _ _ => rfl

/-- A command of the acting row in LISTEN, CATCHUP or RUN acts (R172). -/
theorem byStateRow_act (hp : s.lp.port = .reading)
    (hs : s.sc.state = .listen ∨ s.sc.state = .catchup ∨ s.sc.state = .run) (own : State) :
    byStateRow .act s own = own := by
  rcases byStateRow_cases .act s own with ⟨hn, -⟩ | ⟨-, ⟨r, hr, -⟩ | ⟨-, hb⟩⟩
  · exact absurd hp hn
  · rcases hs with hs | hs | hs <;> simp [hs, stateRow] at hr
  · exact hb

/-- A post appends its record at the tail and loads the stale timer afresh (R176, R178). -/
theorem post_lp (k : EventKind) (a b : Nat) (s : State) : (post k a b s).lp = { s.lp with
    queue := appendRecord s.lp.queue
      { kind := k, gap := s.lp.queue.isEmpty && s.lp.gapPending, stamp := timestamp s, first := a, second := b }
    gapPending := s.lp.gapPending && !s.lp.queue.isEmpty
    stale := loadedStale s
    attn := attnCondition (post k a b s) } := rfl

theorem timestamp_of_stamp (h : s.sc.stamp = 0) : timestamp s = 0 := by
  rw [timestamp, h, Nat.zero_div]

/-- Settles O4: RESTART answers OK on the warm reset, whose records are written out. -/
theorem restartValues : Obligations.RestartValues := by
  intro s hp hs
  refine ⟨answerOnly .ok (warmReset s), congrArg Host.Outcome.next (byStateRow_act hp hs _), ?_⟩
  refine ⟨rfl, rfl, rfl, rfl, rfl, rfl, rfl, rfl, rfl, rfl, ?_, rfl⟩
  have hlp : (answerOnly .ok (warmReset s)).lp = { (warmReset s).lp with port := .answered .ok [] 0 } := rfl
  rw [hlp, warmReset, post_lp, timestamp_of_stamp rfl]
  rfl

theorem reset_is_coldReset : coldReset 0 State.reset = State.reset := by
  have hstrips : mapTable coldStrip State.reset.st.strips = State.reset.st.strips := by
    ext i hi : 1
    simp [State.reset, StripController.afterReset, coldStrip, Strip.afterReset]
  unfold coldReset
  rw [hstrips]
  rfl

/-- Settles O59: the reset state is a cold reset's, whose parts meet the conditions of O55 to O58. -/
theorem resetStateMeetsEveryCondition : Obligations.ResetStateMeetsEveryCondition := by
  have hrest : AtRest State.reset := reset_is_coldReset ▸ .coldReset 0 State.reset
  have hguard : Guarded State.reset := reset_is_coldReset ▸ .coldReset 0 State.reset
  obtain ⟨hone, hfree, hlevels⟩ := fadesOk_iff.mp (FadesOk.of_nil (s := State.reset) rfl)
  obtain ⟨habsent, hown, hcovered, hfollower, hsilent⟩ := guarded_iff.mp hguard
  refine ⟨congrArg Host.Outcome.next reset_is_coldReset, ⟨reset_memory_wf, Nat.zero_le _⟩, ?_, .nil, ?_, rfl, hrest.quiet, hrest.hands,
    hone, hfree, hlevels, habsent, hown, hcovered, hfollower, hsilent⟩
  · exact ⟨Nat.zero_le _, Nat.zero_le _, Nat.zero_le _, Nat.zero_le _⟩
  · exact ⟨hrest.image, fun image hi => by cases hi⟩

end Sys2Proof.Machine
end

section
/-!
PROOFS. The gain law, the aims, the output point and the gain link (O6, O7, O9 to O12).
-/

namespace Sys2Proof.Machine

variable {s t : State}

/-! ## Sum and code (R5 to R7) -/

theorem channelSum_of_off {ch : Channel} (h : sourcePosition s ch = 0 ∨ ∃ g ∈ membersOf s ch, masterPosition s g = 0) :
    channelSum s ch = none := by
  rcases h with h | ⟨g, hg, hm⟩
  · exact channelSum_of_source_off h
  · have hzero : ((membersOf s ch).map (masterPosition s)).contains 0 = true := by
      rw [List.contains_iff_mem]
      exact List.mem_map.mpr ⟨g, hg, hm⟩
    rw [channelSum, if_pos (by rw [hzero, Bool.or_true])]

theorem channelSum_of_on {ch : Channel} (hs : sourcePosition s ch ≠ 0)
    (hm : ∀ g ∈ membersOf s ch, masterPosition s g ≠ 0) : channelSum s ch =
      some (taper (sourcePosition s ch) + ((membersOf s ch).map (fun g => taper (masterPosition s g))).sum) := by
  have hon : ((membersOf s ch).map (masterPosition s)).contains 0 = false := by
    rw [← Bool.not_eq_true, List.contains_iff_mem]
    intro hmem
    obtain ⟨g, hg, h0⟩ := List.mem_map.mp hmem
    exact hm g hg h0
  rw [channelSum, if_neg (by rw [hon]; simp [hs]), List.map_map]
  rfl

theorem channelCode_of_sum {ch : Channel} {sum : Int} (h : channelSum s ch = some sum) :
    channelCode s ch = resolvedCode sum := by
  simp only [channelCode, h]

theorem resolvedCode_of_low {sum : Int} (h : sum ≤ -900) : resolvedCode sum = 0 := if_pos h

theorem resolvedCode_of_high {sum : Int} (h : 100 < sum) : resolvedCode sum = 1000 := by
  rw [resolvedCode, if_neg (by omega), if_neg (by omega)]

/-! ## Masters (R6, R88) -/

theorem hostingMaster_of_hosting {g : Group} {host : Channel} (h : hostOf s g = some host)
    (hd : s.mr.masters[host].demoted = false) : hostingMaster s g = some host := by
  rw [hostingMaster, h, Option.filter_some_pos (by rw [hd]; rfl)]

theorem hostingMaster_of_elsewhere {g : Group}
    (h : hostOf s g = none ∨ ∃ host, hostOf s g = some host ∧ s.mr.masters[host].demoted = true) :
    hostingMaster s g = none := by
  rcases h with h | ⟨host, h, hd⟩
  · rw [hostingMaster, h]
    rfl
  · rw [hostingMaster, h, Option.filter_some_neg (by rw [hd]; simp)]

/-- Settles O6. -/
theorem codeFollowsPositionsAndMasters : Obligations.CodeFollowsPositionsAndMasters := by
  intro s ch
  refine ⟨fun h => by simp only [sourcePosition, h], fun h => by simp only [sourcePosition, h], fun h => ?_,
    channelSum_of_on, fun sum h => ?_, fun g => ⟨fun host h hd => ?_, fun h => ⟨fun e he => ?_, fun he => ?_⟩⟩⟩
  · exact ⟨channelSum_of_off h, channelCode_of_no_sum (channelSum_of_off h)⟩
  · rw [channelCode_of_sum h]
    exact ⟨resolvedCode_of_low, resolvedCode_val_of_mid, fun hs => by rw [resolvedCode_of_high hs]; rfl⟩
  · simp only [masterPosition, hostingMaster_of_hosting h hd]
  · simp only [masterPosition, hostingMaster_of_elsewhere h, he]
  · simp only [masterPosition, hostingMaster_of_elsewhere h, he]

/-! ## Mutes and aims (R9, R10, R86 to R88) -/

theorem any_channel_iff (v : Vector Bool 16) : v.toList.any id = true ↔ ∃ c : Channel, v[c] = true := by
  rw [List.any_eq_true]
  refine ⟨fun ⟨b, hb, he⟩ => ?_, fun ⟨c, hc⟩ => ⟨v[c], by simp, hc⟩⟩
  obtain ⟨i, hi, rfl⟩ := List.mem_iff_getElem.mp hb
  exact ⟨⟨i, by simpa using hi⟩, by simpa using he⟩

theorem any_peer_iff (v : Vector PeerEntry 31) (q : PeerEntry → Bool) :
    v.toList.any q = true ↔ ∃ p : Peer, q v[p] = true := by
  rw [List.any_eq_true]
  refine ⟨fun ⟨b, hb, he⟩ => ?_, fun ⟨p, hp⟩ => ⟨v[p], by simp, hp⟩⟩
  obtain ⟨i, hi, rfl⟩ := List.mem_iff_getElem.mp hb
  exact ⟨⟨i, by simpa using hi⟩, by simpa using he⟩

theorem globalSolo_iff : globalSolo s = true ↔ (∃ c : Channel, s.mr.solo[c] = true)
    ∨ ∃ p : Peer, s.sc.peers[p].presence = .present ∧ s.sc.peers[p].solo = true := by
  rw [globalSolo, Bool.or_eq_true, stationSolo, any_channel_iff, any_peer_iff]
  simp only [Bool.and_eq_true, beq_iff_eq]

theorem resolvedMute_iff {ch : Channel} : resolvedMute s ch = true ↔
    s.mr.mute[ch] = true ∨ (∃ g ∈ membersOf s ch, masterMute s g = true)
      ∨ (globalSolo s = true ∧ s.mr.solo[ch] = false ∧ soloSafe s ch = false) := by
  simp only [resolvedMute, Bool.or_eq_true, List.any_eq_true, Bool.and_eq_true, Bool.not_eq_true', or_assoc, and_assoc]

theorem roleOf_of_entry {ch : Channel} {e : ChannelEntry} (h : entryOf s ch = some e) : roleOf s ch = e.role := by
  simp only [roleOf, h]

theorem stoppedAim_of_mute {ch : Channel} {k : StopKind} (h : stopActionOf s ch k = .mute) : stoppedAim s ch k = 0 := by
  simp only [stoppedAim, h]

theorem stoppedAim_of_hold {ch : Channel} {k : StopKind} (h : stopActionOf s ch k = .hold) :
    stoppedAim s ch k = if resolvedMute s ch then 0 else channelCode s ch := by
  simp only [stoppedAim, h, freeAim]

/-- Settles O7: the resolved mute by its three causes, and the aim by the stop in force and its action. -/
theorem aimFollowsMutesAndStops : Obligations.AimFollowsMutesAndStops := by
  intro s ch e he
  refine ⟨globalSolo_iff, fun members safe hr => ?_, fun g => ⟨fun host h hd => ?_, fun h => ⟨fun o ho => ?_, fun ho => ?_⟩⟩,
    aimOf_of_no_stop, fun action h => ?_⟩
  · have hrole := (roleOf_of_entry he).trans hr
    rw [resolvedMute_iff]
    simp only [membersOf, soloSafe, hrole]
  · simp only [masterMute, hostingMaster_of_hosting h hd]
  · simp only [masterMute, hostingMaster_of_elsewhere h, ho]
  · simp only [masterMute, hostingMaster_of_elsewhere h, ho]
  · obtain ⟨k, haim, hact⟩ : ∃ k, aimOf s ch = stoppedAim s ch k ∧ stopActionOf s ch k = action := by
      rcases h with ⟨hs, ha⟩ | ⟨hs, ha⟩
      · exact ⟨.a, aimOf_of_stop_a hs, (stopActionOf_a he).trans ha⟩
      · exact ⟨.b, aimOf_of_stop_b hs, (stopActionOf_b he).trans ha⟩
    rw [haim]
    exact ⟨fun hm => stoppedAim_of_mute (hact.trans hm), fun hm => stoppedAim_of_hold (hact.trans hm),
      fun p hp => stoppedAim_of_level (hact.trans hp)⟩

/-! ## The events of an output point (log 5) -/

/-- What a post reads: the load port, the timestamp and the image. -/
theorem post_lp_congr (k : EventKind) (a b : Nat) (hl : t.lp = s.lp) (hs : t.sc = s.sc) (hm : t.sm = s.sm) :
    (post k a b t).lp = (post k a b s).lp := by
  cases s
  cases t
  cases hl
  cases hs
  cases hm
  rfl

/-- Two folds over one list stay in a relation that the elements still to come may appear in. -/
theorem foldl_lockstep {σ τ ι : Type} {f : σ → ι → σ} {g : τ → ι → τ} {R : List ι → σ → τ → Prop}
    (h : ∀ i l u v, R (i :: l) u v → R l (f u i) (g v i)) (l : List ι) {u : σ} {v : τ} (hR : R l u v) :
    R [] (l.foldl f u) (l.foldl g v) := by
  induction l generalizing u v with
  | nil => exact hR
  | cons i l ih => exact ih (h i l u v hR)

/-- The post of HEADROOM for a channel whose flag becomes set (R8), on a state that stands for the event queue. -/
def headroomPost (s u : State) (ch : Channel) : State :=
  match channelSum s ch with
  | some sum =>
    if isAudio s ch = true ∧ s.mr.headroom[ch] = false ∧ 100 < sum then post .headroom (ch.val + 1) sum.toNat u else u
  | none => u

/-- The two states differ in what the mix writes and in the event queue alone. -/
def SameButMix (u s : State) : Prop :=
  u = { s with mr := { s.mr with headroom := u.mr.headroom, applied := u.mr.applied }, lp := u.lp }

theorem SameButMix.refl (s : State) : SameButMix s s := rfl

theorem SameButMix.channelSum (h : SameButMix t s) (ch : Channel) : channelSum t ch = channelSum s ch := by
  rw [h]
  rfl

theorem SameButMix.isAudio (h : SameButMix t s) (ch : Channel) : isAudio t ch = isAudio s ch := by
  rw [h]
  rfl

theorem SameButMix.sc (h : SameButMix t s) : t.sc = s.sc := by rw [h]

theorem SameButMix.sm (h : SameButMix t s) : t.sm = s.sm := by rw [h]

theorem followHeadroom_post (ch : Channel) (s : State) : (followHeadroom ch s).lp =
    match channelSum s ch with
    | some sum =>
      if s.mr.headroom[ch] = false ∧ 100 < sum then (post .headroom (ch.val + 1) sum.toNat s).lp else s.lp
    | none => s.lp := by
  unfold followHeadroom
  cases channelSum s ch with
  | none => rfl
  | some sum =>
    dsimp only
    by_cases hs : 100 < sum
    · cases hh : s.mr.headroom[ch] with
      | false =>
        simp only [hs, if_true, and_self]
        exact post_lp_congr _ _ _ rfl rfl rfl
      | true => simp [hs]
    · simp [hs, setHeadroom]

theorem headroomPost_frame (s u : State) (ch : Channel) : headroomPost s u ch = { u with lp := (headroomPost s u ch).lp } := by
  unfold headroomPost
  repeat' split
  all_goals rfl

/-- A channel's turn in the gain law posts as `headroomPost` does. -/
theorem mixChannel_lp (step : Nat) {u v : State} {ch : Channel} (hu : SameButMix u s)
    (hh : u.mr.headroom[ch] = s.mr.headroom[ch]) (hl : u.lp = v.lp) (hs : v.sc = s.sc) (hm : v.sm = s.sm) :
    (mixChannel step u ch).lp = (headroomPost s v ch).lp := by
  unfold headroomPost
  cases ha : isAudio u ch with
  | false =>
    rw [mixChannel_other step u ch ha]
    rw [hu.isAudio] at ha
    split <;> simp [ha, hl]
  | true =>
    have ha' := (hu.isAudio ch).symm.trans ha
    rw [mixChannel_eq step u ch ha, followHeadroom_post, hu.channelSum, hh]
    cases channelSum s ch with
    | none => exact hl
    | some sum =>
      simp only [ha', true_and]
      split
      · exact post_lp_congr _ _ _ hl (hu.sc.trans hs.symm) (hu.sm.trans hm.symm)
      · exact hl

theorem mixChannel_sameButMix (step : Nat) (ch : Channel) (h : SameButMix t s) : SameButMix (mixChannel step t ch) s := by
  unfold SameButMix at h ⊢
  rw [mixChannel_frame]
  rw [h]

theorem mixChannel_headroom_other (step : Nat) (u : State) {i j : Channel} (h : i ≠ j) :
    (mixChannel step u i).mr.headroom[j] = u.mr.headroom[j] := by
  cases ha : isAudio u i with
  | true =>
    rw [mixChannel_eq step u i ha]
    exact put_other _ _ h
  | false => rw [mixChannel_other step u i ha]

/-- The gain law of RUN posts HEADROOM for each channel whose flag becomes set, in channel order. -/
theorem gainLaw_lp (hrun : s.sc.state = .run) : (gainLaw s).lp = (channels.foldl (headroomPost s) s).lp := by
  unfold gainLaw
  rw [if_pos hrun]
  refine (foldl_lockstep (R := fun (l : List Channel) (u v : State) => l.Nodup ∧ SameButMix u s
      ∧ (∀ ch ∈ l, u.mr.headroom[ch] = s.mr.headroom[ch]) ∧ u.lp = v.lp ∧ v.sc = s.sc ∧ v.sm = s.sm)
    (fun i l u v h => ?_) channels ⟨channels_nodup, .refl s, fun _ _ => rfl, rfl, rfl, rfl⟩).2.2.2.1
  obtain ⟨hnd, hu, hh, hl, hs, hm⟩ := h
  obtain ⟨hi, hnd⟩ := List.nodup_cons.mp hnd
  refine ⟨hnd, mixChannel_sameButMix _ i hu, fun ch hch => ?_, mixChannel_lp _ hu (hh i (by simp)) hl hs hm, ?_, ?_⟩
  · rw [mixChannel_headroom_other _ _ (fun he => hi (by rwa [he]))]
    exact hh ch (by simp [hch])
  · rw [headroomPost_frame]
    exact hs
  · rw [headroomPost_frame]
    exact hm

/-- The post of MOTOR STALL for a motor that becomes STALLED (R118). -/
def stallPost (h : Header) (s u : State) (ch : Channel) : State :=
  if (servoedStrip h s ch).motor = .stalled ∧ s.st.strips[ch].motor ≠ .stalled
  then post .motorStall (ch.val + 1) s.st.strips[ch].measured.val u else u

theorem stallPost_frame (h : Header) (s u : State) (ch : Channel) :
    stallPost h s u ch = { u with lp := (stallPost h s u ch).lp } := by
  unfold stallPost
  split <;> rfl

/-- The strip that the stall timer leaves (R118). -/
def stallCounted (limit : Nat) (x : Strip) : Strip :=
  if motorBusy x.motor then
    if x.stall + 1 < limit then { x with stall := x.stall + 1 }
    else { x with motor := .stalled, rest := 0, stall := limit }
  else { x with stall := 0 }

theorem stallCounted_stalled {limit : Nat} {x : Strip} (hx : x.motor ≠ .stalled) :
    (stallCounted limit x).motor = .stalled ↔ motorBusy x.motor = true ∧ ¬x.stall + 1 < limit := by
  unfold stallCounted
  cases hb : motorBusy x.motor with
  | false => simp [hx]
  | true =>
    by_cases hl : x.stall + 1 < limit
    · simp [hl, hx]
    · simp [hl]

theorem countStall_lp (ch : Channel) (x : Strip) (s : State) (hx : x.motor ≠ .stalled) : (countStall ch x s).lp =
    if (stallCounted (stallLimit s) x).motor = .stalled then (post .motorStall (ch.val + 1) x.measured.val s).lp
    else s.lp := by
  simp only [stallCounted_stalled hx]
  unfold countStall
  cases hb : motorBusy x.motor with
  | false => simp
  | true =>
    by_cases hl : x.stall + 1 < stallLimit s
    · simp [hl]
    · simp only [hl, if_true, if_false, not_false_eq_true, and_self]
      exact post_lp_congr _ _ _ rfl rfl rfl

/-- The servo never sends a motor to STALLED. -/
theorem servoDecision_ne_stalled (h : Header) (m : Motor) (e : Int) : (servoDecision h m e).1 ≠ .stalled := by
  unfold servoDecision
  repeat' split
  all_goals simp

theorem servoStrip_eq (h : Header) (level : Position) (limit : Nat) (motor : Motor) (x : Strip) :
    servoStrip h level limit motor x = stallCounted limit { x with
      motor := (servoDecision h motor ((level.val : Int) - x.measured.val)).1
      rest := (servoDecision h motor ((level.val : Int) - x.measured.val)).2 } := rfl

theorem servoAct_lp (h : Header) (ch : Channel) (motor : Motor) (s : State) : (servoAct h ch motor s).lp =
    if (servoStrip h s.fe.levels[ch] (stallLimit s) motor s.st.strips[ch]).motor = .stalled
    then (post .motorStall (ch.val + 1) s.st.strips[ch].measured.val s).lp else s.lp := by
  rw [servoStrip_eq]
  exact countStall_lp ch _ s (servoDecision_ne_stalled _ _ _)

/-- The servo of a channel posts where its motor becomes STALLED. -/
theorem servoChannel_lp (h : Header) (s : State) (ch : Channel) : (servoChannel h s ch).lp =
    if (servoedStrip h s ch).motor = .stalled ∧ s.st.strips[ch].motor ≠ .stalled
    then (post .motorStall (ch.val + 1) s.st.strips[ch].measured.val s).lp else s.lp := by
  unfold servoChannel servoedStrip
  dsimp only
  split
  · cases hm : s.st.strips[ch].motor with
    | stalled => simp
    | rest =>
      dsimp only
      split
      · simp [servoAct_lp]
      · rw [countStall_lp ch _ s (by simp)]
        simp [stallCounted, motorBusy]
    | off => simp [servoAct_lp]
    | brake => simp [servoAct_lp]
    | driveUp d => simp [servoAct_lp]
    | driveDown d => simp [servoAct_lp]
  · simp

theorem stallLimit_of_sm (h : t.sm = s.sm) : stallLimit t = stallLimit s := by
  unfold stallLimit setting
  rw [h]

/-- The servo of RUN posts MOTOR STALL for each motor that becomes STALLED, in channel order. -/
theorem servo_lp {im : ShowImage} (hrun : s.sc.state = .run) (him : s.sm.image = some im) :
    (servo s).lp = (channels.foldl (stallPost im.header s) s).lp := by
  unfold servo
  rw [him]
  dsimp only
  rw [if_pos hrun]
  refine (foldl_lockstep (R := fun (l : List Channel) (u v : State) => l.Nodup
      ∧ u = { s with st := { s.st with strips := u.st.strips }, lp := u.lp }
      ∧ (∀ ch ∈ l, u.st.strips[ch] = s.st.strips[ch]) ∧ u.lp = v.lp ∧ v.sc = s.sc ∧ v.sm = s.sm)
    (fun i l u v h => ?_) channels ⟨channels_nodup, rfl, fun _ _ => rfl, rfl, rfl, rfl⟩).2.2.2.1
  obtain ⟨hnd, hu, hx, hl, hs, hm⟩ := h
  obtain ⟨hi, hnd⟩ := List.nodup_cons.mp hnd
  have hxi := hx i (by simp)
  have hserved : servoedStrip im.header u i = servoedStrip im.header s i := by
    have hlev : u.fe = s.fe := by rw [hu]
    have hsm : u.sm = s.sm := by rw [hu]
    unfold servoedStrip
    dsimp only
    rw [hxi, isMotor_of_sm hsm, hlev, stallLimit_of_sm hsm]
  refine ⟨hnd, ?_, fun ch hch => ?_, ?_, ?_, ?_⟩
  · rw [servoChannel_frame, hu]
  · rw [servoChannel_strips, put_other _ _ fun he => hi (by rwa [he])]
    exact hx ch (by simp [hch])
  · rw [servoChannel_lp, hserved, hxi]
    unfold stallPost
    split
    · exact post_lp_congr _ _ _ hl (by rw [hu, hs]) (by rw [hu, hm])
    · exact hl
  · rw [stallPost_frame]
    exact hs
  · rw [stallPost_frame]
    exact hm

theorem foldl_lp_congr {f g : State → Channel → State} (hf : ∀ u v ch, u.lp = v.lp → u.sc = v.sc → u.sm = v.sm →
    (f u ch).lp = (g v ch).lp ∧ (f u ch).sc = u.sc ∧ (f u ch).sm = u.sm ∧ (g v ch).sc = v.sc ∧ (g v ch).sm = v.sm)
    (l : List Channel) (hl : t.lp = s.lp) (hs : t.sc = s.sc) (hm : t.sm = s.sm) :
    (l.foldl f t).lp = (l.foldl g s).lp := by
  refine (foldl_lockstep (R := fun (_ : List Channel) (u v : State) => u.lp = v.lp ∧ u.sc = v.sc ∧ u.sm = v.sm)
    (fun i _ u v ⟨hl, hs, hm⟩ => ?_) l ⟨hl, hs, hm⟩).1
  obtain ⟨h1, h2, h3, h4, h5⟩ := hf u v i hl hs hm
  exact ⟨h1, h2.trans (hs.trans h4.symm), h3.trans (hm.trans h5.symm)⟩

/-- The strips of an output point of RUN are those the servo makes of the strips before it. -/
theorem outputPoint_strip {im : ShowImage} (hrun : s.sc.state = .run) (him : s.sm.image = some im) (ch : Channel) :
    (outputPoint s).st.strips[ch] = servoedStrip im.header s ch := by
  have hlaw : captureLink (gainLaw s) = { s with mr := (captureLink (gainLaw s)).mr, lp := (gainLaw s).lp } := by
    rw [captureLink, gainLaw_frame]
  have hs : (captureLink (gainLaw s)).sc.state = .run := by
    rw [hlaw]
    exact hrun
  have hi : (captureLink (gainLaw s)).sm.image = some im := by
    rw [hlaw]
    exact him
  rw [outputPoint, servo_strip _ im hs hi ch, hlaw]
  rfl

/-- What an output point of RUN posts: HEADROOM, then MOTOR STALL, each in channel order (log 5). -/
theorem outputPoint_lp {im : ShowImage} (hrun : s.sc.state = .run) (him : s.sm.image = some im) :
    (outputPoint s).lp =
      (channels.foldl (stallPost im.header s) (channels.foldl (headroomPost s) s)).lp := by
  have hlaw : captureLink (gainLaw s) = { s with mr := (captureLink (gainLaw s)).mr, lp := (gainLaw s).lp } := by
    rw [captureLink, gainLaw_frame]
  have hs : (captureLink (gainLaw s)).sc.state = .run := by
    rw [hlaw]
    exact hrun
  have hi : (captureLink (gainLaw s)).sm.image = some im := by
    rw [hlaw]
    exact him
  have hposts : ∀ u : State, u.sc = s.sc → u.sm = s.sm → (channels.foldl (headroomPost s) u).sc = s.sc
      ∧ (channels.foldl (headroomPost s) u).sm = s.sm := by
    intro u hus hum
    refine foldl_keeps (P := fun v : State => v.sc = s.sc ∧ v.sm = s.sm) (fun v ch hv => ?_) channels ⟨hus, hum⟩
    rw [headroomPost_frame]
    exact hv
  obtain ⟨hps, hpm⟩ := hposts s rfl rfl
  rw [outputPoint, servo_lp hs hi]
  refine foldl_lp_congr (fun u v ch hl hsc hsm => ?_) channels ?_ ?_ ?_
  · rw [stallPost_frame, stallPost_frame im.header s v]
    refine ⟨?_, rfl, rfl, rfl, rfl⟩
    have hsame : servoedStrip im.header (captureLink (gainLaw s)) ch = servoedStrip im.header s ch := by
      rw [hlaw]
      rfl
    have hstrips : (captureLink (gainLaw s)).st = s.st := by rw [hlaw]
    unfold stallPost
    rw [hsame, hstrips]
    split
    · exact post_lp_congr _ _ _ hl hsc hsm
    · exact hl
  · rw [hlaw]
    exact gainLaw_lp hrun
  · rw [hlaw]
    exact hps.symm
  · rw [hlaw]
    exact hpm.symm

theorem outputPoint_frame (s : State) : outputPoint s = { s with
    mr := { s.mr with
      applied := (outputPoint s).mr.applied, headroom := (outputPoint s).mr.headroom
      link := (outputPoint s).mr.link, bursting := true }
    st := { s.st with strips := (outputPoint s).st.strips }
    lp := { s.lp with
      queue := (outputPoint s).lp.queue, gapPending := (outputPoint s).lp.gapPending
      stale := (outputPoint s).lp.stale, attn := (outputPoint s).lp.attn } } := by
  have h := servo_frame (captureLink (gainLaw s))
  unfold outputPoint
  rw [h, captureLink, gainLaw_frame]

@[simp] theorem outputPoint_applied (s : State) : (outputPoint s).mr.applied = (gainLaw s).mr.applied := by
  rw [outputPoint, servo_frame]
  rfl

@[simp] theorem outputPoint_link (s : State) : (outputPoint s).mr.link = tabulate (slotCode (gainLaw s)) := by
  rw [outputPoint, servo_frame]
  rfl

/-- Outside RUN an output point sends sixteen zero words (R4, R13). -/
theorem outputPoint_of_not_run (hs : s.sc.state ≠ .run) :
    outputPoint s = { s with mr := { s.mr with link := Vector.replicate 16 0, bursting := true } } := by
  have hlink : tabulate (slotCode s) = Vector.replicate 16 0 := by
    ext i hi
    simp [slotCode, hs]
  have hservo : ∀ u : State, u.sc.state ≠ .run → servo u = u := by
    intro u hu
    unfold servo
    split
    · rw [if_neg hu]
    · rfl
  rw [outputPoint, gainLaw, if_neg hs, captureLink, hlink]
  exact hservo _ hs

/-- With no image no motor becomes STALLED. -/
theorem outputPoint_of_no_image (hi : s.sm.image = none) :
    (outputPoint s).st.strips = s.st.strips ∧ (outputPoint s).lp = (gainLaw s).lp := by
  have hservo : ∀ u : State, u.sm.image = none → servo u = u := by
    intro u hu
    unfold servo
    rw [hu]
  have him : (captureLink (gainLaw s)).sm.image = none := by
    rw [captureLink, gainLaw_frame]
    exact hi
  rw [outputPoint, hservo _ him]
  refine ⟨?_, rfl⟩
  rw [captureLink, gainLaw_frame]

theorem foldl_keeps_state {f : State → Channel → State} (l : List Channel) (h : ∀ ch ∈ l, ∀ u, f u ch = u) (s : State) :
    l.foldl f s = s := by
  induction l with
  | nil => rfl
  | cons ch l ih =>
    rw [List.foldl_cons, h ch (by simp)]
    exact ih fun c hc => h c (by simp [hc])

/-- Settles O9. -/
theorem outputPointMovesAppliedCodes : Obligations.OutputPointMovesAppliedCodes := by
  refine ⟨fun s hrun => ⟨outputPoint s, rfl, fun ch ha => ?_, fun ch ha => ?_, outputPoint_frame s, ?_⟩,
    fun s hs => congrArg Host.Outcome.next (outputPoint_of_not_run hs)⟩
  · have hch := gainLaw_channel s hrun ch
    rw [if_pos ha] at hch
    have happ : (outputPoint s).mr.applied[ch] = slew (setting s 0 (·.slewStep)) s.mr.applied[ch] (aimOf s ch) := by
      rw [outputPoint_applied]
      exact congrArg Prod.fst hch
    have hlink : (outputPoint s).mr.link[ch] = (outputPoint s).mr.applied[ch] := by
      rw [outputPoint_link, outputPoint_applied]
      have hst : (gainLaw s).sc.state = .run := by
        rw [gainLaw_frame]
        exact hrun
      have hau : isAudio (gainLaw s) ch = true := by
        rw [gainLaw_frame]
        exact ha
      simp [slotCode, hst, hau]
    refine ⟨fun hnear => ?_, fun hup => ?_, fun hdown => ?_, outputPoint_headroom_iff hrun ha, hlink⟩
    · rw [happ]
      rcases slew_cases (setting s 0 (·.slewStep)) s.mr.applied[ch] (aimOf s ch) with ⟨-, h⟩ | ⟨h, -⟩ | ⟨h, -⟩
      · exact h
      · omega
      · omega
    · rw [happ]
      rcases slew_cases (setting s 0 (·.slewStep)) s.mr.applied[ch] (aimOf s ch) with ⟨⟨-, h⟩, -⟩ | ⟨-, h⟩ | ⟨h, -⟩
      · omega
      · exact h
      · omega
    · rw [happ]
      rcases slew_cases (setting s 0 (·.slewStep)) s.mr.applied[ch] (aimOf s ch) with ⟨⟨h, -⟩, -⟩ | ⟨h, -⟩ | ⟨-, h⟩
      · omega
      · omega
      · exact h
  · have hch := gainLaw_channel s hrun ch
    rw [ha, if_neg Bool.false_ne_true] at hch
    refine ⟨?_, ?_, ?_⟩
    · rw [outputPoint_applied]
      exact congrArg Prod.fst hch
    · rw [outputPoint_headroom]
      exact congrArg Prod.snd hch
    · have hau : isAudio (gainLaw s) ch = false := by
        rw [gainLaw_frame]
        exact ha
      rw [outputPoint_link]
      simp [slotCode, hau]
  · cases him : s.sm.image with
    | some im =>
      rw [outputPoint_lp hrun him]
      refine foldl_lp_congr (fun u v ch hl hsc hsm => ?_) channels rfl rfl rfl
      rw [outputPoint_strip hrun him, stallPost_frame]
      unfold stallPost
      split
      · exact ⟨post_lp_congr _ _ _ hl hsc hsm, rfl, rfl, rfl, rfl⟩
      · exact ⟨hl, rfl, rfl, rfl, rfl⟩
    | none =>
      obtain ⟨hx, hl⟩ := outputPoint_of_no_image him
      rw [hl, gainLaw_lp hrun, hx]
      refine congrArg (·.lp) (Eq.symm (foldl_keeps_state channels ?_ _))
      exact fun ch _ _ => if_neg fun h => h.2 h.1

/-! ## The motors at an output point (R115 to R118) -/

/-- The strip with a motor that drives or rests, its stall timer counted. -/
def busyStrip (im : ShowImage) (x : Strip) (motor : Motor) (rest : Nat) : Strip :=
  if x.stall + 1 < 10 * im.header.stallLimit then { x with motor := motor, rest := rest, stall := x.stall + 1 }
  else { x with motor := .stalled, rest := 0, stall := 10 * im.header.stallLimit }

theorem stallLimit_of_image {im : ShowImage} (h : s.sm.image = some im) : stallLimit s = 10 * im.header.stallLimit := by
  simp only [stallLimit, setting, h]

theorem stallCounted_busy (im : ShowImage) {x : Strip} {motor : Motor} {rest : Nat} (hb : motorBusy motor = true) :
    stallCounted (10 * im.header.stallLimit) { x with motor := motor, rest := rest } = busyStrip im x motor rest := by
  unfold stallCounted busyStrip
  rw [if_pos hb]

theorem stallCounted_idle {limit : Nat} {x : Strip} (hb : motorBusy x.motor = false) :
    stallCounted limit x = { x with stall := 0 } := by
  unfold stallCounted
  rw [hb]
  rfl

section Decision

variable {h : Header} {motor : Motor} {e : Int}

theorem servoDecision_brake (he : e.natAbs ≤ h.deadband) : servoDecision h motor e = (.brake, 0) := if_pos he

theorem servoDecision_up (he : h.deadband < e.natAbs) (hpos : 0 < e)
    (hm : (∀ d, motor ≠ .driveDown d) ∨ h.reversalRest = 0) :
    servoDecision h motor e = (.driveUp (driveDuty h e.natAbs), 0) := by
  unfold servoDecision
  rw [if_neg (by omega), if_pos hpos]
  split
  · rename_i d
    rw [if_pos (hm.resolve_left fun hn => hn d rfl)]
  · rfl

theorem servoDecision_up_rest (he : h.deadband < e.natAbs) (hpos : 0 < e) (hm : ∃ d, motor = .driveDown d)
    (hr : h.reversalRest ≠ 0) : servoDecision h motor e = (.rest, h.reversalRest) := by
  obtain ⟨d, rfl⟩ := hm
  unfold servoDecision
  rw [if_neg (by omega), if_pos hpos]
  exact if_neg hr

theorem servoDecision_down (he : h.deadband < e.natAbs) (hneg : e < 0)
    (hm : (∀ d, motor ≠ .driveUp d) ∨ h.reversalRest = 0) :
    servoDecision h motor e = (.driveDown (driveDuty h e.natAbs), 0) := by
  unfold servoDecision
  rw [if_neg (by omega), if_neg (by omega)]
  split
  · rename_i d
    rw [if_pos (hm.resolve_left fun hn => hn d rfl)]
  · rfl

theorem servoDecision_down_rest (he : h.deadband < e.natAbs) (hneg : e < 0) (hm : ∃ d, motor = .driveUp d)
    (hr : h.reversalRest ≠ 0) : servoDecision h motor e = (.rest, h.reversalRest) := by
  obtain ⟨d, rfl⟩ := hm
  unfold servoDecision
  rw [if_neg (by omega), if_neg (by omega)]
  exact if_neg hr

/-- The duty of a drive beyond the deadband (R116). -/
theorem driveDuty_bounds (hk : 1 ≤ h.kp) (hd : 1 ≤ h.deadband) {n : Nat} (hn : h.deadband < n) :
    2 ≤ driveDuty h n ∧ driveDuty h n ≤ 255 := by
  have hkn : n ≤ h.kp * n := Nat.le_mul_of_pos_left n hk
  unfold driveDuty
  omega

end Decision

/-- The motor the servo takes a motor as: one at the end of a rest is not driving (R117). -/
def takenMotor (m : Motor) : Motor :=
  match m with
  | .rest => .off
  | m => m

theorem takenMotor_driveDown {m : Motor} {d : Nat} : takenMotor m = .driveDown d ↔ m = .driveDown d := by
  cases m <;> simp [takenMotor]

theorem takenMotor_driveUp {m : Motor} {d : Nat} : takenMotor m = .driveUp d ↔ m = .driveUp d := by
  cases m <;> simp [takenMotor]

/-- A motor the servo leaves alone (R115, R116). -/
theorem servoedStrip_alone {h : Header} {ch : Channel}
    (hx : isMotor s ch = false ∨ s.st.strips[ch].mode = .hand ∨ s.st.strips[ch].motor = .stalled) :
    servoedStrip h s ch = s.st.strips[ch] := by
  unfold servoedStrip
  dsimp only
  split
  · rename_i hc
    rw [Bool.and_eq_true, decide_eq_true_eq] at hc
    rcases hx with hx | hx | hx
    · rw [hx] at hc
      cases hc.1
    · rw [hx] at hc
      cases hc.2
    · rw [hx]
  · rfl

/-- A motor in the middle of its rest counts it down (R117). -/
theorem servoedStrip_resting {im : ShowImage} (him : s.sm.image = some im) {ch : Channel} (hm : isMotor s ch = true)
    (ha : s.st.strips[ch].mode = .auto) (hr : s.st.strips[ch].motor = .rest) (hn : 1 < s.st.strips[ch].rest) :
    servoedStrip im.header s ch = busyStrip im s.st.strips[ch] .rest (s.st.strips[ch].rest - 1) := by
  unfold servoedStrip busyStrip
  dsimp only
  rw [if_pos (by rw [hm, ha]; rfl), stallLimit_of_image him]
  split
  · rename_i h
    rw [h] at hr
    cases hr
  · rw [if_neg (by omega), hr]
  · rename_i h
    exact absurd hr h

/-- Any other motor the servo acts on (R116). -/
theorem servoedStrip_acts {im : ShowImage} (him : s.sm.image = some im) {ch : Channel} (hm : isMotor s ch = true)
    (ha : s.st.strips[ch].mode = .auto) (hs : s.st.strips[ch].motor ≠ .stalled)
    (hr : s.st.strips[ch].motor = .rest → s.st.strips[ch].rest ≤ 1) {e : Int}
    (he : e = (s.fe.levels[ch].val : Int) - s.st.strips[ch].measured.val) :
    servoedStrip im.header s ch = stallCounted (10 * im.header.stallLimit) { s.st.strips[ch] with
      motor := (servoDecision im.header (takenMotor s.st.strips[ch].motor) e).1
      rest := (servoDecision im.header (takenMotor s.st.strips[ch].motor) e).2 } := by
  subst he
  unfold servoedStrip
  dsimp only
  rw [if_pos (by rw [hm, ha]; rfl), stallLimit_of_image him]
  split
  · rename_i h
    exact absurd h hs
  · rename_i h
    rw [if_pos (hr h), servoStrip_eq, h]
    rfl
  · rename_i h
    rw [servoStrip_eq]
    have htaken : takenMotor s.st.strips[ch].motor = s.st.strips[ch].motor := by
      unfold takenMotor
      split
      · rename_i hrest
        exact absurd hrest h
      · rfl
    rw [htaken]

/-- Settles O10. -/
theorem servoActsOnEachMotor : Obligations.ServoActsOnEachMotor := by
  refine ⟨fun s ch => ⟨bridgeOutput_of_no_motor, fun hm => ?_, bridgeOf_one_output _⟩, fun s im hrun him =>
    ⟨outputPoint s, rfl, fun hquiet => ?_, fun ch => ?_⟩⟩
  · rw [bridgeOutput_of_motor hm]
    refine ⟨fun d h => by rw [h]; rfl, fun d h => by rw [h]; rfl, fun h => by rw [h]; rfl, ?_⟩
    rintro (h | h | h) <;> rw [h] <;> rfl
  · rw [outputPoint_lp hrun him, foldl_keeps_state (f := headroomPost s), List.foldl_filter]
    · refine foldl_lp_congr (fun u v ch hl hsc hsm => ?_) channels rfl rfl rfl
      rw [outputPoint_strip hrun him, stallPost_frame]
      unfold stallPost
      simp only [decide_eq_true_eq]
      split
      · exact ⟨post_lp_congr _ _ _ hl hsc hsm, trivial, trivial, rfl, rfl⟩
      · exact ⟨hl, trivial, trivial, rfl, rfl⟩
    · intro ch _ u
      unfold headroomPost
      split
      · rename_i sum hsum
        refine if_neg fun ⟨ha, hh, hs⟩ => ?_
        rw [hquiet ch sum ha hsum hs] at hh
        cases hh
      · rfl
  · rw [outputPoint_strip hrun him]
    dsimp only
    refine ⟨servoedStrip_alone, servoedStrip_resting him, fun ⟨hm, ha, hs, hr⟩ he => ?_, fun ⟨hm, ha, hs, hr⟩ he hpos =>
      ⟨fun hd hrev => ?_, fun hd => ?_⟩, fun ⟨hm, ha, hs, hr⟩ he hneg => ⟨fun hd hrev => ?_, fun hd => ?_⟩,
      fun hk hd hn => driveDuty_bounds hk hd hn⟩ <;> rw [servoedStrip_acts him hm ha hs hr rfl]
    · rw [servoDecision_brake he, stallCounted_idle rfl]
    · rw [servoDecision_up_rest he hpos (hd.imp fun _ h => takenMotor_driveDown.mpr h) hrev]
      exact stallCounted_busy im rfl
    · rw [servoDecision_up he hpos (hd.imp_left fun h d hd => h d (takenMotor_driveDown.mp hd))]
      exact stallCounted_busy im rfl
    · rw [servoDecision_down_rest he hneg (hd.imp fun _ h => takenMotor_driveUp.mpr h) hrev]
      exact stallCounted_busy im rfl
    · rw [servoDecision_down he hneg (hd.imp_left fun h d hd => h d (takenMotor_driveUp.mp hd))]
      exact stallCounted_busy im rfl

/-! ## The gain link (R13 to R15, R179) -/

/-- In a run of blocks of one length each entry stands at its place in its block. -/
theorem getElem?_flatMap_of_length {α β : Type} {f : α → List β} {k : Nat} (hf : ∀ a, (f a).length = k) (l : List α)
    (n : Nat) {i : Nat} (hi : i < k) : (l.flatMap f)[k * n + i]? = l[n]?.bind fun a => (f a)[i]? := by
  induction l generalizing n with
  | nil => simp
  | cons a l ih =>
    rw [List.flatMap_cons]
    cases n with
    | zero =>
      rw [Nat.mul_zero, Nat.zero_add, List.getElem?_append_left (by rw [hf]; exact hi)]
      rfl
    | succ n =>
      rw [List.getElem?_append_right (by rw [hf, Nat.mul_succ]; omega), hf,
        show k * (n + 1) + i - k = k * n + i by rw [Nat.mul_succ]; omega, ih]
      rfl

theorem linkWord_bit (code : GainCode) {i : Nat} (hi : i < 16) : (linkWord code).getMsbD i = code.val.testBit (15 - i) := by
  rw [BitVec.getMsbD_eq_getLsbD, linkWord, BitVec.getLsbD_ofNat]
  simp only [hi, decide_true, Bool.true_and]
  rw [decide_eq_true (by omega), Bool.true_and]

theorem burstBits_getElem? (h : s.mr.bursting = true) (ch : Channel) {i : Nat} (hi : i < 16) :
    (burstBits s)[16 * ch.val + i]? = some (s.mr.link[ch].val.testBit (15 - i)) := by
  have hchannel : channels[ch.val]? = some ch := by
    simp [channels]
  rw [burstBits_of_bursting h, getElem?_flatMap_of_length (k := 16) (by simp) _ _ hi, hchannel]
  simp [hi, linkWord_bit]

theorem burstBits_length (h : s.mr.bursting = true) : (burstBits s).length = 256 := by
  rw [burstBits_of_bursting h, List.length_flatMap]
  simp [channels]

/-- What the gain link and the codes stand on. -/
def outputView (s : State) : Vector GainCode 16 × Option (Vector GainCode 16) := (s.mr.applied, s.mr.attenuators)

/-- The commands that write the applied codes or the attenuators. -/
def writesOutput : Instr → Bool
  | .coldReset _ => true
  | .restart => true
  | .outputPoint => true
  | .gainLinkStrobe => true
  | _ => false

theorem writesOutput_cases {c : Instr} (h : writesOutput c = true) :
    (∃ straps, c = .coldReset straps) ∨ c = .restart ∨ c = .outputPoint ∨ c = .gainLinkStrobe := by
  cases c <;> simp [writesOutput] at h ⊢

section OutputView

theorem outputView_of_sansBus (h : sansBus t = sansBus s) : outputView t = outputView s :=
  show outputView (sansBus t) = outputView (sansBus s) from congrArg outputView h

theorem outputView_of_sansFades (h : sansFades t = sansFades s) : outputView t = outputView s :=
  show outputView (sansFades t) = outputView (sansFades s) from congrArg outputView h

theorem outputView_of_sansMachines (h : sansMachines t = sansMachines s) : outputView t = outputView s :=
  outputView_of_sansBus (sansBus_of_sansMachines h)

theorem outputView_of_sansGroups (h : sansGroups t = sansGroups s) : outputView t = outputView s :=
  outputView_of_sansBus (sansBus_of_sansGroups h)

theorem outputView_of_setLp (h : ∃ lp, t = { s with lp := lp }) : outputView t = outputView s := by
  obtain ⟨lp, rfl⟩ := h
  rfl

theorem outputView_of_setBc (h : ∃ bc, t = { s with bc := bc }) : outputView t = outputView s := by
  obtain ⟨bc, rfl⟩ := h
  rfl

theorem outputView_settle (s : State) : outputView (settle s) = outputView s := outputView_of_sansBus (sansBus_settle s)

theorem outputView_portRequest (k : CueKind) (c : CueNumber) (s : State) :
    outputView (portRequest k c s) = outputView s := by
  unfold portRequest
  rcases offerRequest_cases s k c .port with ⟨h, -⟩ | ⟨h, -⟩ | ⟨h, -⟩ <;> rw [h] <;> rfl

theorem outputView_portStopRelease (kind target : Byte) (s : State) :
    outputView (portStopRelease kind target s) = outputView s := by
  refine view_byStateRow _ ?_ fun _ => rfl
  have hack : ∀ k, outputView (acknowledge k s) = outputView s := fun k =>
    outputView_of_sansMachines (sansMachines_acknowledge s k)
  have hclear : ∀ k p, outputView (clearOrphanFlag k p s) = outputView s := fun k p =>
    outputView_of_sansBus (sansBus_of_sansOwners (sansOwners_clearOrphanFlag s k p))
  unfold portAcknowledge portOrphan
  repeat' split
  all_goals first | rfl | exact hack _ | exact hclear _ _

theorem outputView_takeAssertion (k : StopKind) (s : State) : outputView (takeAssertion k s) = outputView s := by
  unfold takeAssertion
  split
  · exact outputView_of_sansMachines (sansMachines_assertFromClear s k)
  · rfl
  · rfl
  · split
    · rfl
    · refine (outputView_of_sansMachines (sansMachines_enterHeld _ k)).trans ?_
      unfold withdrawStop
      split <;> rfl

theorem outputView_setLine (s : State) (k : StopKind) (l : StopLine) : outputView (setLine s k l) = outputView s := by
  cases k <;> rfl

theorem outputView_lineAssertion (k : StopKind) (s : State) : outputView (lineAssertion k s) = outputView s := by
  unfold lineAssertion
  dsimp only
  split
  · split
    · exact (outputView_takeAssertion k _).trans (outputView_setLine s k _)
    · exact outputView_setLine s k _
  · rfl

theorem outputView_lineRelease (k : StopKind) (s : State) : outputView (lineRelease k s) = outputView s := by
  unfold lineRelease
  dsimp only
  split
  · split
    · exact (outputView_of_sansMachines (sansMachines_testRelease _ k)).trans (outputView_setLine s k _)
    · exact outputView_setLine s k _
  · rfl

theorem outputView_enterRun (s : State) : outputView (enterRun s) = outputView s :=
  show outputView (sansEntry (enterRun s)) = outputView (sansEntry s) from congrArg outputView (sansEntry_enterRun s)

theorem outputView_lowerStop (s : State) : outputView (lowerStop s) = outputView s :=
  outputView_of_sansMachines (sansMachines_lowerStop s)

theorem outputView_takeHeldLine (k : StopKind) (s : State) : outputView (takeHeldLine k s) = outputView s := by
  unfold takeHeldLine
  split
  · exact outputView_of_sansMachines (sansMachines_assertFromClear s k)
  · rfl

/-- Every other command leaves the applied codes and the attenuators as they are. -/
theorem exec_outputView {c : Instr} (hc : writesOutput c = false) (he : exec c s = .next t) :
    outputView t = outputView s := by
  cases c <;> cases he
  case coldReset | restart | outputPoint | gainLinkStrobe => cases hc
  case levelPoint =>
    refine (outputView_settle _).trans ?_
    unfold levelPoint
    dsimp only
    split
    · exact (outputView_enterRun _).trans (outputView_lowerStop s)
    · split
      · exact (outputView_of_sansFades (sansFades_fadeSteps _)).trans (outputView_lowerStop s)
      · exact outputView_lowerStop s
  case conversionComplete ch m =>
    exact (outputView_settle _).trans (outputView_of_sansFades (sansFades_conversion s ch m))
  case touchInputAsserted ch => exact outputView_of_sansFades (sansFades_touchAsserted s ch)
  case touchInputAbsent ch =>
    exact (outputView_settle _).trans (outputView_of_sansFades (sansFades_touchAbsent s ch))
  case touchedArrival ch =>
    exact (outputView_settle _).trans (outputView_of_sansFades (sansFades_touchedArrival s ch))
  case freeArrival ch => exact (outputView_settle _).trans (outputView_of_sansFades (sansFades_freeArrival s ch))
  case keyScan mute solo go =>
    refine (outputView_settle _).trans ?_
    exact show outputView (sansKeys (keyScan mute solo go s)) = outputView (sansKeys s) from
      congrArg outputView (sansKeys_keyScan s mute solo go)
  case stopLineInputChange k a => exact outputView_setLine s k _
  case lineAssertion k => exact (outputView_settle _).trans (outputView_lineAssertion k s)
  case lineRelease k => exact (outputView_settle _).trans (outputView_lineRelease k s)
  case bidPoint => exact outputView_of_setBc (bidPoint_frame s)
  case arbitrationWon => exact outputView_of_sansBus (sansBus_winArbitration s)
  case arbitrationLost => exact outputView_of_setBc (loseArbitration_frame s)
  case arbitrationByteRead a b => exact outputView_of_setBc (arbitrationByteRead_frame s a b)
  case frameReceived groups =>
    exact (outputView_settle _).trans (outputView_of_sansBus (sansBus_frameReceived s groups))
  case frameComplete => exact (outputView_settle _).trans (outputView_of_sansBus (sansBus_frameComplete s))
  case attemptFailed place =>
    exact (outputView_settle _).trans (outputView_of_sansBus (sansBus_attemptFailed s place))
  case busBreak => exact outputView_of_setBc (busBreak_frame s)
  case busBreakEnd => exact outputView_of_setBc (busBreakEnd_frame s)
  case busFault => exact (outputView_settle _).trans (outputView_of_sansBus (sansBus_busFault s))
  case busRestored => exact (outputView_settle _).trans (outputView_of_sansBus (sansBus_busRestored s))
  case readStatus => exact outputView_of_setLp (readStatus_frame s)
  case readEvents n => exact outputView_of_setLp (readEvents_frame n s)
  case readChannel n => exact outputView_of_setLp (readChannel_frame n s)
  case readPeer n => exact outputView_of_setLp (readPeer_frame n s)
  case readGroup n => exact outputView_of_setLp (readGroup_frame n s)
  case loadBegin => exact view_byStateRow _ rfl fun _ => rfl
  case loadData length data =>
    obtain ⟨bytes, lp, hd⟩ := loadData_frame length data s
    rw [hd]
    rfl
  case loadEnd => exact view_byStateRow _ rfl fun _ => rfl
  case go =>
    refine (outputView_settle _).trans (view_byStateRow _ ?_ fun _ => rfl)
    repeat' split
    all_goals first | rfl | exact outputView_portRequest _ _ s
  case fire cue =>
    refine (outputView_settle _).trans (view_byStateRow _ ?_ fun _ => rfl)
    repeat' split
    all_goals first | rfl | exact outputView_portRequest _ _ s
  case standby cue =>
    refine (outputView_settle _).trans (view_byStateRow _ ?_ fun _ => rfl)
    repeat' split
    all_goals first | rfl | exact outputView_portRequest _ _ s
  case stopRelease kind target => exact (outputView_settle _).trans (outputView_portStopRelease kind target s)
  case clearMotor ch =>
    refine view_byStateRow _ ?_ fun _ => rfl
    split <;> rfl
  case unknownCommand code => exact outputView_of_setLp (unknownCommand_frame s)
  case chipSelectHigh n => exact outputView_of_setLp (chipSelectHigh_frame n s)
  case validationEnd =>
    unfold validationEnd
    split
    · split
      · rw [validationSucceeds_eq]
        exact (outputView_takeHeldLine .b _).trans (outputView_takeHeldLine .a _)
      · rfl
    · rfl
  case listenTimerExpiry =>
    unfold listenExpiry
    split <;> rfl
  case catchupWalkEnd =>
    unfold walkEnd
    split <;> rfl
  case runEntry =>
    refine (outputView_settle _).trans ?_
    unfold runEntry
    split
    · exact (outputView_enterRun _).trans (outputView_lowerStop s)
    · rfl
  case prefetchComplete =>
    unfold prefetchComplete
    split <;> rfl
  case expansionComplete =>
    unfold expansionComplete
    split
    · split
      · exact outputView_of_sansBus (sansBus_of_sansCues (sansCues_runExpander (handOff _ _ s)))
      · rfl
    all_goals rfl
  case followExpiry =>
    refine (outputView_settle _).trans ?_
    unfold followExpiry
    split
    · split
      · exact outputView_of_sansBus (sansBus_of_sansCues (sansCues_expireFollow s _))
      · rfl
    · rfl
  case delayCountExpiry slot =>
    exact (outputView_settle _).trans (outputView_of_sansFades (sansFades_delayCountExpiry s slot))
  case fadeComplete slot => exact (outputView_settle _).trans (outputView_of_sansFades (sansFades_fadeComplete s slot))
  case restEnd ch => exact outputView_of_sansFades (sansFades_restEnd s ch)
  case motorStall ch => exact outputView_of_sansFades (sansFades_motorStall s ch)
  case groupAgeLimit g => exact outputView_of_sansGroups (sansGroups_groupAgeLimit s g)
  case groupSendDue ch => exact (outputView_settle _).trans (outputView_of_sansGroups (sansGroups_groupSendDue s ch))
  case peerLost p => exact (outputView_settle _).trans (outputView_of_sansGroups (sansGroups_peerLost s p))
  case stateRefresh =>
    refine (outputView_settle _).trans ?_
    unfold stateRefresh
    split <;> rfl
  case staleTimerExpiry => exact outputView_of_setLp (staleExpiry_frame s)
  case startBit => exact outputView_of_setBc (startBit_frame s)
  case chipSelectLow => rfl

end OutputView

/-- Settles O11: the strobe takes the link buffer, and `exec_outputView` leaves the attenuators to it. -/
theorem attenuatorsTakeTheStrobe : Obligations.AttenuatorsTakeTheStrobe := by
  refine ⟨fun s h => congrArg Host.Outcome.next (if_pos h), fun s h => congrArg Host.Outcome.next (if_neg (by simp [h])),
    fun c s t hc he => ?_, fun straps s t he => by cases he; rfl, fun s h => ⟨burstBits_length h, fun ch i hi =>
    ⟨burstBits_getElem? h ch hi, fun h6 => ?_⟩⟩, fun s h => burstBits_of_not_bursting h⟩
  · cases hw : writesOutput c with
    | false => exact congrArg Prod.snd (exec_outputView hw he)
    | true =>
      rcases writesOutput_cases hw with ⟨straps, rfl⟩ | rfl | rfl | rfl
      · cases he
        rfl
      · cases he
        exact view_byStateRow (view := fun u => u.mr.attenuators) _ rfl fun _ => rfl
      · cases he
        rw [outputPoint_frame]
      · exact absurd rfl hc
  · rw [burstBits_getElem? h ch hi]
    have hword : s.mr.link[ch].val < 2 ^ (15 - i) := by
      have hpow : 2 ^ 10 ≤ 2 ^ (15 - i) := Nat.pow_le_pow_right (by decide) (by omega)
      have hlt := s.mr.link[ch].isLt
      omega
    rw [Nat.testBit_lt_two_pow hword]

/-- Settles O12: an output point slews, and `exec_outputView` leaves the applied codes to it. -/
theorem appliedCodesMoveBySlewAlone : Obligations.AppliedCodesMoveBySlewAlone := by
  intro c s t he hcold hrestart
  have hkeeps : c ≠ .outputPoint → t.mr.applied = s.mr.applied := by
    intro hout
    cases hw : writesOutput c with
    | false => exact congrArg Prod.fst (exec_outputView hw he)
    | true =>
      rcases writesOutput_cases hw with ⟨straps, rfl⟩ | rfl | rfl | rfl
      · exact absurd rfl (hcold straps)
      · exact absurd rfl hrestart
      · exact absurd rfl hout
      · cases he
        unfold strobe
        split <;> rfl
  refine ⟨hkeeps, fun ch => ?_⟩
  by_cases hout : c = .outputPoint
  · subst hout
    cases he
    rw [outputPoint_applied]
    by_cases hrun : s.sc.state = .run
    · have hch := congrArg Prod.fst (gainLaw_channel s hrun ch)
      dsimp only at hch
      rw [hch]
      split <;> dsimp only
      · rcases slew_cases (setting s 0 (·.slewStep)) s.mr.applied[ch] (aimOf s ch) with ⟨h, hs⟩ | ⟨h, hs⟩ | ⟨h, hs⟩
        · rw [hs]
          omega
        · omega
        · omega
      · omega
    · rw [gainLaw, if_neg hrun]
      omega
  · rw [hkeeps hout]
    omega

end Sys2Proof.Machine
end

section
/-!
PROOFS. The show image: loading, the end of validation, the lookups and the catch-up walk (O13, O14, O16, O17).
-/

namespace Sys2Proof.Machine

variable {s t : State}

/-! ## The lookups (R30) -/

/-- In an ascending table the first record with a property is the least one with it. -/
theorem find?_ascending {cues : List CueRecord} (hc : cues.Pairwise (fun x y => x.number < y.number))
    (q : CueRecord → Bool) (r : CueRecord) :
    cues.find? q = some r ↔ r ∈ cues ∧ q r = true ∧ ∀ x ∈ cues, q x = true → r.number ≤ x.number := by
  induction cues with
  | nil => simp
  | cons c rest ih =>
    obtain ⟨hfirst, hrest⟩ := List.pairwise_cons.mp hc
    rw [List.find?_cons]
    cases hqc : q c with
    | true =>
      simp only [Option.some.injEq]
      constructor
      · rintro rfl
        refine ⟨List.mem_cons_self, hqc, fun x hx _ => ?_⟩
        rcases List.mem_cons.mp hx with rfl | hx
        · exact le_refl _
        · exact (hfirst x hx).le
      · rintro ⟨hr, -, hleast⟩
        rcases List.mem_cons.mp hr with rfl | hr
        · rfl
        · have h1 := hleast c List.mem_cons_self hqc
          have h2 := hfirst r hr
          exact absurd h1 (not_le.mpr h2)
    | false =>
      dsimp only
      rw [ih hrest]
      constructor
      · rintro ⟨hr, hqr, hleast⟩
        refine ⟨List.mem_cons_of_mem _ hr, hqr, fun x hx hqx => ?_⟩
        rcases List.mem_cons.mp hx with rfl | hx
        · rw [hqc] at hqx
          cases hqx
        · exact hleast x hx hqx
      · rintro ⟨hr, hqr, hleast⟩
        rcases List.mem_cons.mp hr with rfl | hr
        · rw [hqc] at hqr
          cases hqr
        · exact ⟨hr, hqr, fun x hx => hleast x (List.mem_cons_of_mem _ hx)⟩

/-- The number of that record. -/
theorem find?_number {cues : List CueRecord} (hc : cues.Pairwise (fun x y => x.number < y.number))
    {q : CueRecord → Bool} {above : CueNumber → Prop} (habove : ∀ x, q x = true ↔ above x.number) (c : CueNumber) :
    (cues.find? q).map (·.number) = some c ↔
      (∃ r ∈ cues, r.number = c) ∧ above c ∧ ∀ r ∈ cues, above r.number → c ≤ r.number := by
  rw [Option.map_eq_some_iff]
  constructor
  · rintro ⟨r, hr, rfl⟩
    obtain ⟨hmem, hqr, hleast⟩ := (find?_ascending hc q r).mp hr
    exact ⟨⟨r, hmem, rfl⟩, (habove r).mp hqr, fun x hx ha => hleast x hx ((habove x).mpr ha)⟩
  · rintro ⟨⟨r, hmem, rfl⟩, ha, hleast⟩
    exact ⟨r, (find?_ascending hc q r).mpr ⟨hmem, (habove r).mpr ha, fun x hx hqx => hleast x hx ((habove x).mp hqx)⟩, rfl⟩

/-- In an ascending table a number names one record. -/
theorem eq_of_number {cues : List CueRecord} (hc : cues.Pairwise (fun x y => x.number < y.number)) {x y : CueRecord}
    (hx : x ∈ cues) (hy : y ∈ cues) (h : x.number = y.number) : x = y := by
  induction hc with
  | nil => cases hx
  | cons hfirst _ ih =>
    rcases List.mem_cons.mp hx with rfl | hxr <;> rcases List.mem_cons.mp hy with rfl | hyr
    · rfl
    · exact absurd h (hfirst _ hyr).ne
    · exact absurd h (hfirst _ hxr).ne'
    · exact ih hxr hyr

/-- Settles O16: each lookup is the first record of an ascending table with a property. -/
theorem lookupsFindNeighbours : Obligations.LookupsFindNeighbours := by
  intro cues n hc
  refine ⟨fun r => ?_, fun c => ?_, ?_, fun c => ?_, ?_, fun c => ?_⟩
  · unfold recordOf
    constructor
    · intro h
      exact ⟨List.mem_of_find?_eq_some h, by simpa using List.find?_some h⟩
    · rintro ⟨hr, hn⟩
      cases hf : cues.find? (fun r => r.number == n) with
      | none => exact absurd (by simpa using hn) (List.find?_eq_none.mp hf r hr)
      | some x =>
        have hx : x.number = n := by simpa using List.find?_some hf
        rw [eq_of_number hc (List.mem_of_find?_eq_some hf) hr (hx.trans hn.symm)]
  · exact find?_number hc (above := fun m => n < m) (fun x => decide_eq_true_iff) c
  · simp [nextCueAfter]
  · exact find?_number hc (above := fun m => n ≤ m) (fun x => decide_eq_true_iff) c
  · simp [cueAtOrAfter]
  · have hhead : firstCue cues = (cues.find? (fun _ => true)).map (·.number) := by
      cases cues <;> rfl
    rw [hhead, find?_number hc (above := fun _ => True) (fun _ => by simp)]
    simp

/-! ## The catch-up walk (R32) -/

/-- The target of a LEVEL move. -/
def Move.target? (m : Move) : Option Position :=
  match m.kind with
  | .level _ _ target => some target
  | .muteOn => none
  | .muteOff => none

/-- The flag a MUTE move sets. -/
def Move.muted? (m : Move) : Option Bool :=
  match m.kind with
  | .level _ _ _ => none
  | .muteOn => some true
  | .muteOff => some false

theorem walkMove_other (t : Vector Tracked 16) (m : Move) {ch : Channel} (h : m.channel ≠ ch) :
    (walkMove t m)[ch] = t[ch] := by
  unfold walkMove
  split <;> exact put_other _ _ h

/-- One move decides what its channel tracks. -/
theorem walkMove_same (t : Vector Tracked 16) (m : Move) : (walkMove t m)[m.channel] =
    { level := m.target?.getD t[m.channel].level, mute := m.muted?.getD t[m.channel].mute } := by
  unfold walkMove Move.target? Move.muted?
  cases m.kind <;> exact put_same _ _ _

/-- The last move of each sort on a channel decides (R32). -/
theorem foldl_walkMove (moves : List Move) (t : Vector Tracked 16) (ch : Channel) :
    (moves.foldl walkMove t)[ch] =
      { level := ((moves.filter (fun m => m.channel = ch)).filterMap Move.target?).getLast?.getD t[ch].level
        mute := ((moves.filter (fun m => m.channel = ch)).filterMap Move.muted?).getLast?.getD t[ch].mute } := by
  induction moves generalizing t with
  | nil => rfl
  | cons m rest ih =>
    rw [List.foldl_cons, ih]
    by_cases hch : m.channel = ch
    · subst hch
      rw [walkMove_same, List.filter_cons_of_pos (by simp), List.filterMap_cons, List.filterMap_cons]
      congr 1
      · cases m.target? with
        | none => rfl
        | some p => simp [List.getLast?_cons]
      · cases m.muted? with
        | none => rfl
        | some b => simp [List.getLast?_cons]
    · rw [walkMove_other t m hch, List.filter_cons_of_neg (by simpa using hch)]

theorem takeWhile_ascending {cues : List CueRecord} (hc : cues.Pairwise (fun x y => x.number < y.number))
    (n : CueNumber) : cues.takeWhile (fun r => r.number ≤ n) = cues.filter (fun r => r.number ≤ n) := by
  induction hc with
  | nil => rfl
  | @cons c rest hfirst _ ih =>
    by_cases hn : c.number ≤ n
    · rw [List.takeWhile_cons_of_pos (by simpa using hn), List.filter_cons_of_pos (by simpa using hn), ih]
    · rw [List.takeWhile_cons_of_neg (by simpa using hn), List.filter_cons_of_neg (by simpa using hn)]
      refine (List.filter_eq_nil_iff.mpr fun x hx => ?_).symm
      simpa using lt_trans (not_le.mp hn) (hfirst x hx)

/-- Settles O17: the walk is one fold over the moves at or below the candidate, and the last of each sort decides. -/
theorem walkEndTracksTheLastMoves : Obligations.WalkEndTracksTheLastMoves := by
  intro s im hs hw him hc
  refine ⟨catchUpWalk im (s.sc.candidate.map (·.cue)), ?_, fun hn ch => ?_, fun c hcand ch => ?_⟩
  · show Host.Outcome.next (walkEnd s) = _
    rw [walkEnd, if_pos (by simp [hs, hw]), him]
    rfl
  · rw [hn]
    simp [catchUpWalk, walkedCues, presets]
  · rw [hcand, catchUpWalk, Option.map_some, walkedCues, takeWhile_ascending hc, ← List.foldl_flatMap, foldl_walkMove]
    simp only [presets, Fin.getElem_fin, getElem_mapTable]
    exact ⟨rfl, rfl⟩

/-! ## Loading (R17, R174) -/

theorem byStateRow_own {row : PortRow} (hp : s.lp.port = .reading) (hr : stateRow row s.sc.state = none) (own : State) :
    byStateRow row s own = own := by
  rw [byStateRow, taken_of_reading _ hp, hr]

theorem byStateRow_answer {row : PortRow} {r : PortResult} (hp : s.lp.port = .reading)
    (hr : stateRow row s.sc.state = some r) (own : State) : byStateRow row s own = answerOnly r s := by
  rw [byStateRow, taken_of_reading _ hp, hr]

/-- The data bytes below 65,536 stand at their offsets (R174). -/
theorem readByte_storeData {data : List Byte} (hm : MemoryInOrder s) (a : Nat) :
    readByte (writeBytes s.sm.bytes s.lp.offset (data.take (Config.memorySize - s.lp.offset))) a =
      if h : s.lp.offset ≤ a ∧ a - s.lp.offset < data.length ∧ a < 65536
      then data[a - s.lp.offset]'(h.2.1) else readByte s.sm.bytes a := by
  have hoff : s.lp.offset ≤ 65536 := hm.2
  rw [readByte_writeBytes a hm.1, List.length_take, show Config.memorySize = 65536 from rfl]
  by_cases h : s.lp.offset ≤ a ∧ a - s.lp.offset < data.length ∧ a < 65536
  · rw [dif_pos h, if_pos (by omega), List.getD_eq_getElem?_getD, List.getElem?_take_of_lt (by omega),
      List.getElem?_eq_getElem h.2.1]
    rfl
  · rw [dif_neg h, if_neg (by omega)]

theorem storeData_eq (data : List Byte) (ho : s.lp.overflowed = false) (hm : MemoryInOrder s) :
    storeData data s = { s with
      sm := { s.sm with bytes := writeBytes s.sm.bytes s.lp.offset (data.take (Config.memorySize - s.lp.offset)) }
      lp := { s.lp with
        offset := min 65536 (s.lp.offset + data.length)
        overflowed := decide (65536 < s.lp.offset + data.length)
        port := .answered (if 65536 < s.lp.offset + data.length then .full else .ok) [] 0 } } := by
  have hoff : s.lp.offset ≤ 65536 := hm.2
  have hsize : Config.memorySize = 65536 := rfl
  have hlen : s.lp.offset + (data.take (Config.memorySize - s.lp.offset)).length = min 65536 (s.lp.offset + data.length) := by
    rw [List.length_take, hsize]
    omega
  have hlost : ((data.take (Config.memorySize - s.lp.offset)).length < data.length) =
      (65536 < s.lp.offset + data.length) := by
    rw [List.length_take, hsize, eq_iff_iff]
    omega
  unfold storeData
  simp only [ho, Bool.false_eq_true, if_false, hlost, hlen]
  rfl

theorem loadData_of_whole {length : Byte} {data : List Byte} (hp : s.lp.port = .reading) (hs : s.sc.state = .load)
    (hl : length ≠ 0) (hd : data.length = length.toNat) : loadData length data s = storeData data s := by
  rw [loadData, if_neg (by simp [hd]), byStateRow_own hp (by rw [hs]; rfl), if_neg hl, ← hd, List.take_length]

/-- Settles O13. -/
theorem loadCommandsWriteShowMemory : Obligations.LoadCommandsWriteShowMemory := by
  refine ⟨fun s hp hs => ?_, fun a => rfl, fun s hp hs => ?_, fun length data s hp hs hm hl hd => ⟨fun ho => ?_, fun ho => ?_⟩⟩
  · refine congrArg Host.Outcome.next (byStateRow_own hp ?_ _)
    rcases hs with hs | hs <;> rw [hs] <;> rfl
  · exact congrArg Host.Outcome.next (byStateRow_own hp (by rw [hs]; rfl) _)
  · refine congrArg Host.Outcome.next ?_
    rw [loadData_of_whole hp hs hl hd, storeData, if_pos ho]
    rfl
  · refine ⟨_, congrArg Host.Outcome.next ((loadData_of_whole hp hs hl hd).trans (storeData_eq data ho hm)), rfl,
      readByte_storeData hm⟩

/-! ## The end of validation (R29, R144, R159) -/

theorem requestState_of_not_run (hs : s.sc.state ≠ .run) : requestState s = s := if_neg hs

/-- A machine whose line stands asserted does not release (R162). -/
theorem testRelease_of_asserted {k : StopKind} (h : (lineOf s k).asserted = true) : testRelease k s = s := by
  simp [testRelease, releaseCondition, h]

theorem raiseStop_post_setMachine (k : StopKind) (m : StopMachine) (s : State) :
    raiseStop (post .stopChange (kindCode k) 2 (setMachine s k m)) =
      { setMachine s k m with
        sp := { (setMachine s k m).sp with
          effective := if stopRank s.sp.effective < stopRank (derivedStop (setMachine s k m))
            then derivedStop (setMachine s k m) else s.sp.effective }
        lp := (post .stopChange (kindCode k) 2 s).lp } := by
  rw [raiseStop_eq]
  cases k <;> rfl

/-- Outside RUN a line that stands asserted puts its CLEAR machine in HELD at once, with the stop in force and STOP
CHANGE (R159, R160). -/
theorem takeHeldLine_eq {k : StopKind} (hs : s.sc.state ≠ .run)
    (hl : ((lineOf s k).asserted && (machineOf s k).state == .clear) = true) : takeHeldLine k s =
      raiseStop (post .stopChange (kindCode k) 2 (setMachine s k { machineOf s k with state := .held })) := by
  have hasserted : (lineOf s k).asserted = true := (Bool.and_eq_true _ _ ▸ hl).1
  have hcannot : canAnnounce s = false := by simp [canAnnounce, hs]
  rw [takeHeldLine, if_pos hl, assertFromClear, if_neg (by simp [hcannot]), enterHeld,
    requestState_of_not_run (by simpa using hs)]
  refine testRelease_of_asserted ?_
  rw [raiseStop_eq]
  cases k <;> exact hasserted

theorem takeHeldLine_of_none {k : StopKind}
    (hl : ((lineOf s k).asserted && (machineOf s k).state == .clear) = false) : takeHeldLine k s = s := by
  rw [takeHeldLine, if_neg (by simp [hl])]

/-- ATTN reads the image, the event queue and the stale timer alone (R178). -/
theorem attnCondition_congr (hm : t.sm = s.sm) (hq : t.lp.queue = s.lp.queue) (hst : t.lp.stale = s.lp.stale) :
    attnCondition t = attnCondition s := by
  unfold attnCondition eventThreshold setting
  rw [hm, hq, hst]

/-- With machine A in HELD the stop of kind A is the derived one (R168). -/
theorem derivedStop_of_held_a (h : s.sp.machineA.state = .held) : derivedStop s = .a := by
  have : kindInForce s .a = true := kindInForce_iff.mpr (.inl (by simp [machineOf, StopMachine.holds, h]))
  rw [derivedStop, if_pos this]

/-- A line asserted with its machine CLEAR: what the success of validation takes (R159). -/
def lineHeld (s : State) (k : StopKind) : Bool := (lineOf s k).asserted && (machineOf s k).state == .clear

/-- The stop that a raised machine leaves in force (R168, R169). -/
def raisedTo (e d : EffectiveStop) : EffectiveStop := if stopRank e < stopRank d then d else e

/-- The state with the machine of kind `k` in HELD, the stop raised to what is then derived and STOP CHANGE posted. -/
def heldTaken (k : StopKind) (s : State) : State :=
  { setMachine s k { machineOf s k with state := .held } with
    sp := { (setMachine s k { machineOf s k with state := .held }).sp with
      effective := raisedTo s.sp.effective (derivedStop (setMachine s k { machineOf s k with state := .held })) }
    lp := (post .stopChange (kindCode k) 2 s).lp }

theorem takeHeldLine_of_held {k : StopKind} (hs : s.sc.state ≠ .run) (hl : lineHeld s k = true) :
    takeHeldLine k s = heldTaken k s := by
  rw [takeHeldLine_eq hs hl]
  exact raiseStop_post_setMachine k _ s

theorem raisedTo_a (e : EffectiveStop) : raisedTo e .a = .a := by
  cases e <;> rfl

/-- Two load ports apart from ATTN, which stands under its condition in the first (R178). -/
structure SameButAttn (s t : State) : Prop where
  port : s.lp = { t.lp with attn := attnCondition s }
  memory : s.sm = t.sm
  station : s.sc = t.sc

theorem SameButAttn.post {t : State} (h : SameButAttn s t) (k : EventKind) (a b : Nat) :
    SameButAttn (post k a b s) (post k a b t) := by
  have hlp : (Machine.post k a b s).lp = (Machine.post k a b t).lp :=
    post_lp_congr (t := s) (s := { t with lp := { t.lp with attn := attnCondition s } }) k a b h.port h.station h.memory
  refine ⟨hlp.trans ?_, h.memory, h.station⟩
  rw [attnCondition_congr (s := Machine.post k a b t) (t := Machine.post k a b s) h.memory (congrArg (·.queue) hlp)
    (congrArg (·.stale) hlp)]
  rfl

/-- ATTN of the state a line held leaves (R178). -/
theorem heldTaken_sameButAttn {t : State} (h : SameButAttn s t) (k : StopKind) :
    SameButAttn (heldTaken k s) (Machine.post .stopChange (kindCode k) 2 t) := by
  have hp := h.post .stopChange (kindCode k) 2
  cases k <;> exact ⟨hp.port, hp.memory, hp.station⟩

/-- A state is known by its stop controller and load port, where the rest stands. -/
theorem eq_of_sp_lp {t u : State} {sp : StopController} {lp : LoadPort} (h : t = { u with sp := t.sp, lp := t.lp })
    (hsp : t.sp = sp) (hlp : t.lp = lp) : t = { u with sp := sp, lp := lp } := by
  rw [h, hsp, hlp]

/-- What VALIDATION_END does where it has an image to take (R29). -/
theorem validationEnd_of_ok {image : ShowImage} (hs : s.sc.state = .validating) (hv : validate (loadedBytes s) = .ok image) :
    validationEnd s = takeHeldLine .b (takeHeldLine .a (imageTaken image s)) := by
  rw [validationEnd, if_pos hs, hv]
  rfl

theorem loadedStale_of_image {image : ShowImage} (h : s.sm.image = some image) : loadedStale s =
    if image.header.staleTime = 0 then .off else .running (image.header.staleTime * 1000) := by
  have : staleTime s = image.header.staleTime * 1000 := by simp [staleTime, setting, h, show Config.ms = 1000 from rfl]
  simp [loadedStale, this]

/-- Settles O14, by which of the two lines stood asserted through the load. -/
theorem validationEndTakesOrRejectsTheImage : Obligations.ValidationEndTakesOrRejectsTheImage := by
  refine fun s => ⟨_, rfl, fun hs => if_neg hs, fun hs image hv => ?_, fun hs reason offset hv => ?_⟩
  · intro held stale loaded first second
    have hlisten : (imageTaken image s).sc.state ≠ .run := by simp [imageTaken, enterListen]
    have hstart : SameButAttn (imageTaken image s) loaded := by
      refine ⟨?_, rfl, rfl⟩
      have hstale := loadedStale_of_image (s := imageTaken image s) (image := image) rfl
      show ({ s.lp with stale := loadedStale (imageTaken image s), attn := _ } : LoadPort) = _
      rw [hstale]
      rfl
    rw [validationEnd_of_ok hs hv]
    cases ha : held .a <;> cases hb : held .b
    · rw [takeHeldLine_of_none (k := .a) (s := imageTaken image s) ha, takeHeldLine_of_none (k := .b) (s := imageTaken image s) hb]
      simp only [first, second, ha, hb, Bool.false_eq_true, if_false, or_self, false_and]
      exact ⟨eq_of_sp_lp rfl rfl hstart.port, rfl, fun _ _ => hstart.port⟩
    · rw [takeHeldLine_of_none (k := .a) (s := imageTaken image s) ha, takeHeldLine_of_held (k := .b) hlisten hb]
      simp only [first, second, ha, hb, Bool.false_eq_true, if_false, if_true, false_or, true_and]
      exact ⟨eq_of_sp_lp rfl rfl (heldTaken_sameButAttn hstart .b).port, rfl, by simp⟩
    · rw [takeHeldLine_of_held (k := .a) hlisten ha, takeHeldLine_of_none (k := .b) (s := heldTaken .a (imageTaken image s)) hb]
      simp only [first, second, ha, hb, Bool.false_eq_true, if_false, if_true, or_false, true_and]
      exact ⟨eq_of_sp_lp rfl rfl (heldTaken_sameButAttn hstart .a).port, rfl, by simp⟩
    · rw [takeHeldLine_of_held (k := .a) hlisten ha, takeHeldLine_of_held (k := .b) (s := heldTaken .a (imageTaken image s)) hlisten hb]
      simp only [first, second, ha, hb, if_true, or_self, true_and]
      refine ⟨eq_of_sp_lp rfl rfl (heldTaken_sameButAttn (heldTaken_sameButAttn hstart .a) .b).port, ?_, by simp⟩
      have hd : derivedStop (heldTaken .b (heldTaken .a (imageTaken image s))) = .a := derivedStop_of_held_a rfl
      show raisedTo (raisedTo _ (derivedStop (setMachine (imageTaken image s) .a _))) (derivedStop (setMachine (heldTaken .a (imageTaken image s)) .b _)) = _
      rw [hd, derivedStop_of_held_a (s := setMachine (imageTaken image s) .a _) rfl,
        derivedStop_of_held_a (s := setMachine (heldTaken .a (imageTaken image s)) .b _) rfl, raisedTo_a]
      exact (raisedTo_a _).symm
  · show validationEnd s = _
    rw [validationEnd, if_pos hs, hv]
    rfl

end Sys2Proof.Machine
end

section
/-!
PROOFS. Fade levels and level points (chapter 4).
-/

namespace Sys2Proof.Machine

variable {s t : State}

/-! ## The fade level between its ends (R69) -/

theorem scaled_le {f k : Nat} (hf : f ≤ 4096) : k * f / 4096 ≤ k :=
  Nat.div_le_of_le_mul (by rw [Nat.mul_comm 4096]; exact Nat.mul_le_mul_left k hf)

theorem fadeLevel_rising {start target : Position} (curve : Curve) {e d : Nat} (hd : 1 ≤ d) (he : e ≤ d)
    (h : start ≤ target) : (fadeLevel start target curve e d).val
      = start.val + (target.val - start.val) * fadeFraction curve e d / 4096 := by
  obtain ⟨k, hk⟩ := Nat.exists_eq_add_of_le (Fin.le_def.mp h)
  have hle := scaled_le (k := k) (fadeFraction_le curve hd he)
  have hdiff : ((target.val : Int) - start.val) * fadeFraction curve e d = ((k * fadeFraction curve e d : Nat) : Int) := by
    rw [hk]
    push_cast
    ring
  have hquot : (((k * fadeFraction curve e d : Nat) : Int)).tdiv 4096 = ((k * fadeFraction curve e d / 4096 : Nat) : Int) :=
    Int.ofNat_tdiv _ _
  have htarget := target.isLt
  rw [fadeLevel, hdiff, hquot, show target.val - start.val = k by omega]
  simp only [clampPosition]
  omega

theorem fadeLevel_falling {start target : Position} (curve : Curve) {e d : Nat} (hd : 1 ≤ d) (he : e ≤ d)
    (h : target ≤ start) : (fadeLevel start target curve e d).val
      = start.val - (start.val - target.val) * fadeFraction curve e d / 4096 := by
  obtain ⟨k, hk⟩ := Nat.exists_eq_add_of_le (Fin.le_def.mp h)
  have hle := scaled_le (k := k) (fadeFraction_le curve hd he)
  have hdiff : ((target.val : Int) - start.val) * fadeFraction curve e d = -((k * fadeFraction curve e d : Nat) : Int) := by
    rw [hk]
    push_cast
    ring
  have hquot : (((k * fadeFraction curve e d : Nat) : Int)).tdiv 4096 = ((k * fadeFraction curve e d / 4096 : Nat) : Int) :=
    Int.ofNat_tdiv _ _
  have hstart := start.isLt
  rw [fadeLevel, hdiff, Int.neg_tdiv, hquot, show start.val - target.val = k by omega]
  simp only [clampPosition]
  omega

/-- A fade ends at its target (R68, R69). -/
theorem fadeLevel_end (start target : Position) (curve : Curve) {d : Nat} (hd : 1 ≤ d) :
    fadeLevel start target curve d d = target := by
  rw [fadeLevel, fadeFraction_end curve hd]
  have : ((target.val : Int) - start.val) * (4096 : Nat) = (target.val - start.val) * 4096 := rfl
  rw [this, Int.mul_tdiv_cancel _ (by norm_num), add_sub_cancel]
  exact clampPosition_val target

/-- Settles O25, by the fraction's rise in each direction of the fade. -/
theorem fadeLevelRunsFromStartToTarget : Obligations.FadeLevelRunsFromStartToTarget := by
  intro start target curve d hd
  refine ⟨fadeLevel_start start target curve d, fadeLevel_end start target curve hd,
    fun e he => ⟨fadeLevel_rising curve hd he, fadeLevel_falling curve hd he⟩, fun e e' hle he' => ?_⟩
  have he := hle.trans he'
  have hmono (k : Nat) : k * fadeFraction curve e d / 4096 ≤ k * fadeFraction curve e' d / 4096 :=
    Nat.div_le_div_right (Nat.mul_le_mul_left k (fadeFraction_le_fadeFraction curve hd hle he'))
  have hbound (k : Nat) : k * fadeFraction curve e' d / 4096 ≤ k := scaled_le (fadeFraction_le curve hd he')
  refine ⟨fun h => ?_, fun h => ?_⟩
  · have hm := hmono (target.val - start.val)
    have hb := hbound (target.val - start.val)
    simp only [Fin.le_def, fadeLevel_rising curve hd he h, fadeLevel_rising curve hd he' h] at h ⊢
    omega
  · have hm := hmono (start.val - target.val)
    have hb := hbound (start.val - target.val)
    simp only [Fin.le_def, fadeLevel_falling curve hd he h, fadeLevel_falling curve hd he' h] at h ⊢
    omega

/-! ## The level point (R61, R77, R169) -/

theorem lowerStop_of_none (h : s.sp.effective = .none) : lowerStop s = s := by
  rw [lowerStop, if_neg]
  rw [h]
  exact Nat.not_lt_zero _

theorem fadeEngineWorks_of_run (hs : s.sc.state = .run) (he : s.sp.effective = .none) : fadeEngineWorks s = true := by
  simp [fadeEngineWorks, stopped, hs, he]

theorem runDue_of_run (hs : s.sc.state = .run) : runDue s = false := by
  simp [runDue, hs]

/-- In RUN with no stop a level point is its three steps. -/
theorem levelPoint_of_works (hs : s.sc.state = .run) (he : s.sp.effective = .none) :
    levelPoint s = fadeSteps s := by
  rw [levelPoint, lowerStop_of_none he, if_neg (by simp [runDue_of_run hs]), if_pos (fadeEngineWorks_of_run hs he)]

theorem commit_of_nil (h : s.fe.commits = []) : commit s = s := by
  rw [commit, h, List.foldl_nil, ← h]

theorem splitDue_none {pool : List PoolRecord} : splitDue pool = none ↔ ∀ r ∈ pool, r.isDue = false := by
  induction pool with
  | nil => simp [splitDue]
  | cons r rest ih =>
    cases hr : r.isDue <;> simp [splitDue, hr, ih]

theorem splitDue_of_append {before after : List PoolRecord} {r : PoolRecord} (hr : r.isDue = true)
    (hb : ∀ x ∈ before, x.isDue = false) : splitDue (before ++ r :: after) = some (before, r, after) := by
  induction before with
  | nil => simp [splitDue, hr]
  | cons x rest ih =>
    rw [List.cons_append, splitDue, if_neg (by simp [hb x List.mem_cons_self]),
      ih fun y hy => hb y (List.mem_cons_of_mem _ hy)]
    rfl

theorem startDue_of_none (h : ∀ r ∈ s.fe.pool, r.isDue = false) (n : Nat) : startDue n s = s := by
  cases n with
  | zero => rfl
  | succ n => rw [startDue, splitDue_none.mpr h]

/-- What a due record is (R63). -/
theorem isDue_iff (r : PoolRecord) : r.isDue = true ↔
    (∃ target d curve, r.state = .waitingLevel 0 target d curve) ∨ ∃ on, r.state = .waitingMute 0 on := by
  obtain ⟨ch, origin, state⟩ := r
  rcases state with ⟨_ | k, target, d, curve⟩ | ⟨_ | k, on⟩ | _ <;> simp [PoolRecord.isDue]

/-! ## O26 -/

/-- One record over a level point at which it does not come due. -/
theorem countRecord_advanceRecord (r : PoolRecord) : (advanceRecord r).map countRecord =
    match r.state with
    | .running start target d e curve =>
      if e + 1 < d then some { r with state := .running start target d (e + 1) curve } else none
    | .waitingLevel k target d curve => some { r with state := .waitingLevel (k - 1) target d curve }
    | .waitingMute k on => some { r with state := .waitingMute (k - 1) on } := by
  obtain ⟨ch, origin, state⟩ := r
  cases state with
  | running start target d e curve =>
    by_cases h : e + 1 < d <;> simp [advanceRecord, countRecord, h]
  | waitingLevel => rfl
  | waitingMute => rfl

/-- The pool after advance and count, before any record starts. -/
def countedPool (s : State) : List PoolRecord := (s.fe.pool.filterMap advanceRecord).map countRecord

theorem countedPool_eq (s : State) :
    countedPool s = s.fe.pool.filterMap (fun r => (advanceRecord r).map countRecord) := by
  rw [countedPool, List.map_filterMap]

/-- The state after advance and count, before any record starts. -/
def counted (s : State) : State :=
  { s with fe := { s.fe with levels := s.fe.pool.foldl advanceLevel s.fe.levels, pool := countedPool s } }

theorem countDown_advance (s : State) :
    countDown (advance s) = startDue (s.fe.pool.filterMap advanceRecord).length (counted s) := rfl

/-- Settles O26: with nothing due and nothing to commit a level point is its advance and its count. -/
theorem levelPointAdvancesAndCountsDown : Obligations.LevelPointAdvancesAndCountsDown := by
  intro s hs he hc hone hpool
  have hdue : ∀ r ∈ (counted s).fe.pool, r.isDue = false := by
    intro x hx
    change x ∈ countedPool s at hx
    rw [countedPool_eq, List.mem_filterMap] at hx
    obtain ⟨r, hr, hrx⟩ := hx
    obtain ⟨hlevel, hmute, -⟩ := hpool r hr
    rw [countRecord_advanceRecord] at hrx
    rw [← Bool.not_eq_true, isDue_iff]
    cases hst : r.state with
    | waitingLevel k target d curve =>
      rw [hst] at hrx
      cases hrx
      have := hlevel k target d curve hst
      simp
      omega
    | waitingMute k on =>
      rw [hst] at hrx
      cases hrx
      have := hmute k on hst
      simp
      omega
    | running start target d e curve =>
      rw [hst] at hrx
      dsimp only at hrx
      split at hrx
      · cases hrx
        simp
      · cases hrx
  have hpoint : levelPoint s = counted s := by
    rw [levelPoint_of_works hs he, fadeSteps, countDown_advance, startDue_of_none hdue, commit_of_nil (s := counted s) hc]
  refine ⟨counted s, congrArg (fun u => Host.Outcome.next (settle u)) hpoint, ?_, fun r hr start target d e curve hst => ?_,
    fun ch hn => ?_, ?_⟩
  · show counted s = _
    rw [← hc]
    rfl
  · have hrun := PoolOk.advanceLevels_running hone hr hst s.fe.levels
    refine ⟨hrun, fun hend => hrun.trans ?_⟩
    rw [hend]
    exact fadeLevel_end start target curve (by omega)
  · exact PoolOk.advanceLevels_other (fun r hr hrun hch => by simp [hn r hr hch] at hrun) s.fe.levels
  · show countedPool s = _
    rw [countedPool_eq]
    refine List.filterMap_congr fun r hr => ?_
    rw [countRecord_advanceRecord]
    cases hst : r.state with
    | waitingLevel => rfl
    | waitingMute => rfl
    | running start target d e curve =>
      have := (hpool r hr).2.2 start target d e curve hst
      by_cases hend : e + 1 = d
      · simp [hend]
      · simp [hend, show e + 1 < d by omega]

/-! ## Starting a record (R63, R65, R66, R76) -/

/-- The strips after a LEVEL-start notice. -/
def noticedStrips (s : State) (ch : Channel) : Vector Strip 16 :=
  if isPlain s ch = true then put s.st.strips ch { s.st.strips[ch] with
    mode := .auto, park := s.st.strips[ch].measured
    crossing := if s.st.strips[ch].mode = .hand then none else s.st.strips[ch].crossing }
  else s.st.strips

theorem levelStartNotice_eq (ch : Channel) (s : State) :
    levelStartNotice ch s = { s with st := { s.st with strips := noticedStrips s ch } } := by
  unfold levelStartNotice noticedStrips
  by_cases hp : isPlain s ch = true
  · rw [if_pos hp, if_pos hp]
    dsimp only [setStrip]
    generalize s.st.strips[ch] = x
    obtain ⟨_, _, _, mode⟩ := x
    cases mode <;> rfl
  · rw [if_neg hp, if_neg hp]

theorem setLevelAtOnce_eq (ch : Channel) (target : Position) (s : State) : setLevelAtOnce ch target s =
    { s with
      fe := { s.fe with pool := takeOver ch s.fe.pool, levels := put s.fe.levels ch target }
      st := { s.st with strips := noticedStrips s ch } } := levelStartNotice_eq ch _

/-- A WAITING record that starts (R63, R65, R66). -/
theorem startWaiting_mute {r : PoolRecord} {k : Nat} {on : Bool} (before after : List PoolRecord) (s : State)
    (h : r.state = .waitingMute k on) : startWaiting before r after s =
      { s with
        fe := { s.fe with pool := before ++ after }
        mr := { s.mr with mute := put s.mr.mute r.channel on } } := by
  rw [startWaiting, h]
  rfl

theorem startWaiting_level {r : PoolRecord} {k d : Nat} {target : Position} {curve : Curve}
    (before after : List PoolRecord) (s : State) (h : r.state = .waitingLevel k target d curve) (hd : 0 < d) :
    startWaiting before r after s = { s with
      fe := { s.fe with pool := takeOver r.channel before
        ++ { r with state := .running s.fe.levels[r.channel] target d 0 curve } :: takeOver r.channel after }
      st := { s.st with strips := noticedStrips s r.channel } } := by
  rw [startWaiting, h]
  simp only [if_neg hd.ne']
  exact levelStartNotice_eq r.channel _

theorem startWaiting_snap {r : PoolRecord} {k : Nat} {target : Position} {curve : Curve}
    (before after : List PoolRecord) (s : State) (h : r.state = .waitingLevel k target 0 curve) :
    startWaiting before r after s = { s with
      fe := { s.fe with
        pool := takeOver r.channel before ++ takeOver r.channel after, levels := put s.fe.levels r.channel target }
      st := { s.st with strips := noticedStrips s r.channel } } := by
  rw [startWaiting_of_duration_zero before after s h, setLevelAtOnce_eq, ← takeOver_append]
  rfl

/-- One due record of the pool starts, if there is one. -/
def startNext (s : State) : State :=
  match splitDue s.fe.pool with
  | some (before, r, after) => startWaiting before r after s
  | none => s

theorem startNext_of_none (h : splitDue s.fe.pool = none) : startNext s = s := by rw [startNext, h]

theorem startNext_of_some {before after : List PoolRecord} {r : PoolRecord}
    (h : splitDue s.fe.pool = some (before, r, after)) : startNext s = startWaiting before r after s := by rw [startNext, h]

theorem startDue_of_some {n : Nat} {before after : List PoolRecord} {r : PoolRecord}
    (h : splitDue s.fe.pool = some (before, r, after)) :
    startDue (n + 1) s = startDue n (startWaiting before r after s) := by rw [startDue, h]

theorem startDue_eq (n : Nat) (s : State) : startDue n s = startNext^[n] s := by
  induction n generalizing s with
  | zero => rfl
  | succ n ih =>
    rw [Function.iterate_succ_apply]
    cases h : splitDue s.fe.pool with
    | none =>
      rw [startDue_of_none (splitDue_none.mp h), startNext_of_none h]
      exact (Function.iterate_fixed (startNext_of_none h) n).symm
    | some x =>
      obtain ⟨before, r, after⟩ := x
      rw [startDue_of_some h, startNext_of_some h]
      exact ih _

theorem startWaiting_commits (before : List PoolRecord) (r : PoolRecord) (after : List PoolRecord) (s : State) :
    (startWaiting before r after s).fe.commits = s.fe.commits := by
  unfold startWaiting
  split
  · rfl
  · split
    · rw [setLevelAtOnce_eq]
      rfl
    · rw [levelStartNotice_eq]
      rfl
  · rfl

theorem startNext_iterate_commits (s : State) (n : Nat) : (startNext^[n] s).fe.commits = s.fe.commits := by
  induction n with
  | zero => rfl
  | succ n ih =>
    rw [Function.iterate_succ_apply', ← ih]
    cases h : splitDue (startNext^[n] s).fe.pool with
    | none => rw [startNext_of_none h]
    | some x => rw [startNext_of_some h, startWaiting_commits]

theorem not_running_of_due {r : PoolRecord} (h : r.isDue = true) : r.isRunning = false := by
  rcases (isDue_iff r).mp h with ⟨target, d, curve, hst⟩ | ⟨on, hst⟩ <;> simp [PoolRecord.isRunning, hst]

/-- The due records of a state. -/
def dueCount (s : State) : Nat := s.fe.pool.countP PoolRecord.isDue

theorem dueCount_takeOver (ch : Channel) (l : List PoolRecord) :
    (takeOver ch l).countP PoolRecord.isDue = l.countP PoolRecord.isDue := by
  rw [takeOver, List.countP_filter]
  refine List.countP_congr fun r _ => ?_
  obtain ⟨c, origin, state⟩ := r
  cases state <;> simp [PoolRecord.isDue, PoolRecord.isRunning]

/-- Each start takes one due record from the pool. -/
theorem dueCount_startNext {before after : List PoolRecord} {r : PoolRecord}
    (h : splitDue s.fe.pool = some (before, r, after)) : dueCount s = dueCount (startNext s) + 1 := by
  obtain ⟨hpool, hdue, -⟩ := splitDue_eq h
  have hs : dueCount s = before.countP PoolRecord.isDue + after.countP PoolRecord.isDue + 1 := by
    rw [dueCount, hpool, List.countP_append, List.countP_cons, hdue]
    rfl
  rw [hs, startNext_of_some h]
  congr 1
  rcases (isDue_iff r).mp hdue with ⟨target, d, curve, hst⟩ | ⟨on, hst⟩
  · rcases Nat.eq_zero_or_pos d with rfl | hd
    · rw [startWaiting_snap before after s hst]
      simp only [dueCount, List.countP_append, dueCount_takeOver]
    · rw [startWaiting_level before after s hst hd]
      simp only [dueCount, List.countP_append, List.countP_cons, dueCount_takeOver]
      rfl
  · rw [startWaiting_mute before after s hst]
    simp only [dueCount, List.countP_append]

theorem dueCount_eq_zero : dueCount s = 0 ↔ splitDue s.fe.pool = none := by
  rw [splitDue_none, dueCount, List.countP_eq_zero]
  simp

/-- After `i` starts `i` fewer records are due. -/
theorem dueCount_iterate (s : State) {i : Nat} (h : i ≤ dueCount s) : dueCount (startNext^[i] s) + i = dueCount s := by
  induction i with
  | zero => rfl
  | succ i ih =>
    have hi := ih (by omega)
    rw [Function.iterate_succ_apply']
    cases hsplit : splitDue (startNext^[i] s).fe.pool with
    | none =>
      have := dueCount_eq_zero.mpr hsplit
      omega
    | some x =>
      have := dueCount_startNext hsplit
      omega

theorem startDue_of_enough {n : Nat} (h : dueCount s ≤ n) : startDue n s = startNext^[dueCount s] s := by
  obtain ⟨k, rfl⟩ := Nat.exists_eq_add_of_le h
  rw [startDue_eq, Nat.add_comm, Function.iterate_add_apply]
  refine Function.iterate_fixed (startNext_of_none (dueCount_eq_zero.mp ?_)) k
  have := dueCount_iterate s (le_refl (dueCount s))
  omega

theorem countDown_advance_iterate (s : State) : countDown (advance s) = startNext^[dueCount (counted s)] (counted s) := by
  rw [countDown_advance]
  refine startDue_of_enough (List.countP_le_length.trans ?_)
  show (countedPool s).length ≤ _
  rw [countedPool, List.length_map]

/-! ## O27 -/

theorem splitAt?_of_append {pool before after : List PoolRecord} {r : PoolRecord} (h : pool = before ++ r :: after) :
    splitAt? pool before.length = some (before, r, after) := by
  simp [splitAt?, h]

theorem delayCountExpiry_of_append {slot : Fin 64} {before after : List PoolRecord} {r : PoolRecord}
    (hw : fadeEngineWorks s = true) (h : s.fe.pool = before ++ r :: after) (hb : before.length = slot.val) :
    delayCountExpiry slot s = startWaiting before r after s := by
  rw [delayCountExpiry, if_pos hw, ← hb, splitAt?_of_append h]

theorem fadeComplete_of_append {slot : Fin 64} {before after : List PoolRecord} {r : PoolRecord} {start target : Position}
    {d e : Nat} {curve : Curve} (hw : fadeEngineWorks s = true) (h : s.fe.pool = before ++ r :: after)
    (hb : before.length = slot.val) (hr : r.state = .running start target d e curve) :
    fadeComplete slot s = setLevel (setPool s (before ++ after)) r.channel target := by
  rw [fadeComplete, if_pos hw, ← hb, splitAt?_of_append h]
  simp only [hr]

theorem filterMap_advanceRecord_of_waiting {pool : List PoolRecord} (h : ∀ r ∈ pool, r.isRunning = false) :
    pool.filterMap advanceRecord = pool := by
  refine (List.filterMap_congr (g := some) fun r hr => ?_).trans List.filterMap_some
  have := h r hr
  obtain ⟨ch, origin, state⟩ := r
  cases state with
  | running => simp [PoolRecord.isRunning] at this
  | waitingLevel => rfl
  | waitingMute => rfl

theorem advanceLevels_of_waiting {pool : List PoolRecord} (h : ∀ r ∈ pool, r.isRunning = false)
    (levels : Vector Position 16) : pool.foldl advanceLevel levels = levels := by
  induction pool with
  | nil => rfl
  | cons r rest ih =>
    have hr := h r List.mem_cons_self
    obtain ⟨ch, origin, state⟩ := r
    cases state with
    | running => simp [PoolRecord.isRunning] at hr
    | waitingLevel => exact ih fun x hx => h x (List.mem_cons_of_mem _ hx)
    | waitingMute => exact ih fun x hx => h x (List.mem_cons_of_mem _ hx)

/-- A level point at which one WAITING record alone comes due, with no fade running, is its start. -/
theorem levelPoint_of_one_due {slot : Fin 64} {before after : List PoolRecord} {r : PoolRecord} (hs : s.sc.state = .run)
    (he : s.sp.effective = .none) (hp : s.fe.pool = before ++ r :: after) (hb : before.length = slot.val)
    (hc : s.fe.commits = []) (hr : (countRecord r).isDue = true) (hrun : ∀ y ∈ s.fe.pool, y.isRunning = false)
    (hother : ∀ y ∈ before ++ after, (countRecord y).isDue = false) :
    levelPoint s = delayCountExpiry slot (setPool s (s.fe.pool.map countRecord)) := by
  have hpool : (setPool s (s.fe.pool.map countRecord)).fe.pool
      = before.map countRecord ++ countRecord r :: after.map countRecord := by
    simp [hp]
  have hcounted : counted s = setPool s (s.fe.pool.map countRecord) := by
    rw [counted, countedPool, filterMap_advanceRecord_of_waiting hrun, advanceLevels_of_waiting hrun]
    rfl
  have hcpool : (counted s).fe.pool = before.map countRecord ++ countRecord r :: after.map countRecord := by
    rw [hcounted, hpool]
  have hnone (l : List PoolRecord) (hl : l ⊆ before ++ after) : ∀ y ∈ l.map countRecord, y.isDue = false := by
    intro y hy
    obtain ⟨x, hx, rfl⟩ := List.mem_map.mp hy
    exact hother x (hl hx)
  have hbefore := hnone before (List.subset_append_left _ _)
  have hafter := hnone after (List.subset_append_right _ _)
  have hsplit := hcpool ▸ splitDue_of_append hr hbefore (after := after.map countRecord)
  have hcount : dueCount (counted s) = 1 := by
    rw [dueCount, hcpool, List.countP_append, List.countP_cons, hr,
      List.countP_eq_zero.mpr (by simpa using hbefore), List.countP_eq_zero.mpr (by simpa using hafter)]
    rfl
  rw [levelPoint_of_works hs he, fadeSteps, countDown_advance_iterate, hcount, Function.iterate_one, startNext_of_some hsplit,
    delayCountExpiry_of_append (s := setPool s (s.fe.pool.map countRecord)) (fadeEngineWorks_of_run hs he) hpool
      (by simpa using hb), hcounted]
  exact commit_of_nil ((startWaiting_commits _ _ _ _).trans hc)

/-- Settles O27: the due records of a level point start one after another, and each start by its kind. -/
theorem dueRecordStartsAndFadeEnds : Obligations.DueRecordStartsAndFadeEnds := by
  refine ⟨fun s => ?_, fun s slot before after r hs he hp hb => ?_⟩
  · intro started due cs
    have hcs : counted s = cs := by
      have hpool := countedPool_eq s
      rw [funext countRecord_advanceRecord] at hpool
      rw [counted, hpool]
      rfl
    refine ⟨dueCount (counted s), fun i => startNext^[i] (counted s), hcs, countDown_advance_iterate s,
      fun i hi => ?_, fun y hy => ?_, fun hs he hc => ?_⟩
    · have hcount := dueCount_iterate (counted s) hi.le
      cases hsplit : splitDue (startNext^[i] (counted s)).fe.pool with
      | none =>
        have := dueCount_eq_zero.mpr hsplit
        omega
      | some x =>
        obtain ⟨before, r, after⟩ := x
        obtain ⟨hpool, hdue, hfirst⟩ := splitDue_eq hsplit
        refine ⟨before, r, after, hpool, (isDue_iff r).mp hdue, fun y hy hd => ?_, ?_⟩
        · exact absurd ((isDue_iff y).mpr hd) (by simp [hfirst y hy])
        · dsimp only
          rw [Function.iterate_succ_apply', startNext_of_some hsplit]
          rcases (isDue_iff r).mp hdue with ⟨target, d, curve, hst⟩ | ⟨on, hst⟩
          · cases d with
            | zero =>
              simp only [started, hst]
              exact startWaiting_snap before after _ hst
            | succ d =>
              simp only [started, hst]
              exact startWaiting_level before after _ hst d.succ_pos
          · simp only [started, hst]
            exact startWaiting_mute before after _ hst
    · have hzero : dueCount (startNext^[dueCount (counted s)] (counted s)) = 0 := by
        have := dueCount_iterate (counted s) (le_refl _)
        omega
      have hnone := splitDue_none.mp (dueCount_eq_zero.mp hzero) y hy
      exact fun hd => absurd ((isDue_iff y).mpr hd) (by simp [hnone])
    · refine congrArg (fun u => Host.Outcome.next (settle u)) ?_
      rw [levelPoint_of_works hs he, fadeSteps, countDown_advance_iterate]
      exact commit_of_nil ((startNext_iterate_commits (counted s) _).trans hc)
  · have hw := fadeEngineWorks_of_run hs he
    have hexpiry : exec (.delayCountExpiry slot) s = .next (settle (startWaiting before r after s)) :=
      congrArg (fun u => Host.Outcome.next (settle u)) (delayCountExpiry_of_append hw hp hb)
    intro x noticed others
    refine ⟨fun k on hst => ?_, fun k target d curve hst hd => ?_, fun k target curve hst => ?_,
      fun start target d e curve hst => ?_, fun hc hr hcr hall => ?_⟩
    · rw [hexpiry, startWaiting_mute before after s hst]
    · rw [hexpiry, startWaiting_level before after s hst hd]
      rfl
    · rw [hexpiry, startWaiting_snap before after s hst]
      rfl
    · exact congrArg (fun u => Host.Outcome.next (settle u)) (fadeComplete_of_append hw hp hb hst)
    · refine congrArg (fun u => Host.Outcome.next (settle u))
        (levelPoint_of_one_due hs he hp hb hc hcr (fun y hy => ?_) fun y hy => (hall y hy).2.2)
      rw [hp] at hy
      rcases List.mem_append.mp hy with hy | hy
      · exact (hall y (List.mem_append_left _ hy)).1
      rcases List.mem_cons.mp hy with rfl | hy
      · rw [← (PoolOk.countRecord_parts y).2.1]
        exact not_running_of_due hcr
      · exact (hall y (List.mem_append_right _ hy)).1

/-! ## Committing a move (R59, R64, R66, R71, R73) -/

/-- The commit step move by move. -/
theorem commit_eq_foldl (s : State) : commit s =
    (s.fe.commits.flatMap (fun e => e.moves.map (fun m => (e.cue, m)))).foldl
      (fun u cueMove => commitMove cueMove.1 u cueMove.2) { s with fe := { s.fe with commits := [] } } := by
  have hcue : ∀ (l : List ExpandedCue) (u : State), l.foldl commitCue u =
      (l.flatMap (fun e => e.moves.map (fun m => (e.cue, m)))).foldl
        (fun u cueMove => commitMove cueMove.1 u cueMove.2) u := by
    intro l
    induction l with
    | nil => exact fun _ => rfl
    | cons e rest ih =>
      intro u
      rw [List.foldl_cons, ih, List.flatMap_cons, List.foldl_append, List.foldl_map]
      rfl
  exact hcue _ _

theorem hasRoom_of_lt {pool : List PoolRecord} (h : pool.length < 64) : hasRoom pool = true := hasRoom_iff.mpr h

theorem hasRoom_of_le {pool : List PoolRecord} (h : 64 ≤ pool.length) : hasRoom pool = false := by
  rw [← Bool.not_eq_true, hasRoom_iff]
  omega

/-- A delayed move waits at the end of the pool. -/
theorem commitMove_delayed {m : Move} (origin : CueNumber) (s : State)
    (hheld : (m.isLevel && heldUnderKeep s m.channel) = false) (hd : 0 < m.delay) (hroom : s.fe.pool.length < 64) :
    commitMove origin s m = setPool s (s.fe.pool ++ [waitingRecord origin m]) := by
  rw [commitMove, if_neg (by simp [hheld]), if_neg hd.ne', if_pos (hasRoom_of_lt hroom)]

theorem commitMove_delayed_full {m : Move} (origin : CueNumber) (s : State)
    (hheld : (m.isLevel && heldUnderKeep s m.channel) = false) (hd : 0 < m.delay) (hfull : 64 ≤ s.fe.pool.length) :
    commitMove origin s m = snap origin m s := by
  rw [commitMove, if_neg (by simp [hheld]), if_neg hd.ne', if_neg (by simp [hasRoom_of_le hfull])]

theorem commitMove_undelayed {m : Move} (origin : CueNumber) (s : State)
    (hheld : (m.isLevel && heldUnderKeep s m.channel) = false) (hd : m.delay = 0) :
    commitMove origin s m = startMove origin m s := by
  rw [commitMove, if_neg (by simp [hheld]), if_pos hd]

theorem snap_level {m : Move} {fade : Nat} {curve : Curve} {target : Position} (origin : CueNumber) (s : State)
    (hk : m.kind = .level fade curve target) : snap origin m s = post .poolFull origin (m.channel.val + 1) { s with
      fe := { s.fe with pool := takeOver m.channel s.fe.pool, levels := put s.fe.levels m.channel target }
      st := { s.st with strips := noticedStrips s m.channel } } := by
  rw [snap, hk]
  exact congrArg (post .poolFull origin (m.channel.val + 1)) (setLevelAtOnce_eq m.channel target s)

/-- Settles O28: the commit step move by move, and each move by its kind, its delay and the room there is. -/
theorem levelPointCommitsMovesInOrder : Obligations.LevelPointCommitsMovesInOrder := by
  refine ⟨fun s hs he => congrArg (fun u => Host.Outcome.next (settle u)) ?_, fun origin s m => ?_⟩
  · have hcommits : (countDown (advance s)).fe.commits = s.fe.commits := by
      rw [countDown_advance_iterate, startNext_iterate_commits]
      rfl
    rw [levelPoint_of_works hs he, fadeSteps, commit_eq_foldl, hcommits]
  intro x held noticed others place
  refine ⟨fun on hk => ?_, fun fade curve target hk => ?_⟩
  · have hheld : (m.isLevel && heldUnderKeep s m.channel) = false := by
      cases on <;> simp [Move.isLevel, hk]
    refine ⟨fun hd => ?_, fun hd hroom => ?_, fun hd hfull => ?_⟩
    · rw [commitMove_undelayed origin s hheld hd, startMove, hk]
      cases on <;> rfl
    · rw [commitMove_delayed origin s hheld hd hroom, waitingRecord, hk]
      cases on <;> rfl
    · rw [commitMove_delayed_full origin s hheld hd hfull, snap, hk]
      cases on <;> rfl
  · have hlevel : m.isLevel = true := by simp [Move.isLevel, hk]
    have hheld : heldUnderKeep s m.channel = true ↔ held := by
      rw [heldUnderKeep, Bool.and_eq_true, beq_iff_eq]
    have hfree (hn : ¬held) : (m.isLevel && heldUnderKeep s m.channel) = false := by
      rwa [hlevel, Bool.true_and, ← Bool.not_eq_true, hheld]
    refine ⟨fun hh => ?_, fun hn hd hroom => ?_, fun hn hd hf => ?_, fun hn hd hf hroom => ?_, fun hn hfull => ?_⟩
    · rw [commitMove, if_pos]
      · rfl
      · rwa [hlevel, Bool.true_and, hheld]
    · rw [commitMove_delayed origin s (hfree hn) hd hroom, waitingRecord, hk]
      rfl
    · rw [commitMove_undelayed origin s (hfree hn) hd, startMove, hk]
      simp only [if_pos hf]
      exact setLevelAtOnce_eq m.channel target s
    · rw [commitMove_undelayed origin s (hfree hn) hd, startMove, hk]
      simp only [if_neg hf.ne', if_pos (hasRoom_of_lt hroom : hasRoom (takeOver m.channel s.fe.pool) = true)]
      exact levelStartNotice_eq m.channel _
    · have hsnap : commitMove origin s m = snap origin m s := by
        rcases hfull with ⟨hd, hfull⟩ | ⟨hd, hf, hfull⟩
        · exact commitMove_delayed_full origin s (hfree hn) hd hfull
        · rw [commitMove_undelayed origin s (hfree hn) hd, startMove, hk]
          have hno : hasRoom (takeOver m.channel s.fe.pool) = false := hasRoom_of_le hfull
          simp only [if_neg hf.ne', hno, Bool.false_eq_true, if_false]
      rw [hsnap, snap_level origin s hk]
      rfl

/-! ## A level point in a stop (R77, R168, R169) -/

theorem derivedStop_eq_a : derivedStop s = .a ↔ kindInForce s .a = true := by
  unfold derivedStop
  cases kindInForce s .a <;> cases kindInForce s .b <;> simp

theorem derivedStop_eq_b : derivedStop s = .b ↔ kindInForce s .a = false ∧ kindInForce s .b = true := by
  unfold derivedStop
  cases kindInForce s .a <;> cases kindInForce s .b <;> simp

theorem lowerStop_of_derived_none (h : derivedStop s = .none) : lowerStop s = setEffective s .none := by
  rw [lowerStop_eq, h]
  cases s.sp.effective <;> rfl

/-- Settles O29: the derived stop by its kinds, and the level point by the stop it leaves in force. -/
theorem levelPointInAStopLowersItAlone : Obligations.LevelPointInAStopLowersItAlone := by
  intro s forced stop
  have hforced (k : StopKind) : kindInForce s k = true ↔ forced k := by
    rw [kindInForce_iff]
    have hmachine : (machineOf s k).holds = true ↔
        (machineOf s k).state = .held ∨ (machineOf s k).state = .releasing := by
      cases h : (machineOf s k).state <;> simp [StopMachine.holds, h]
    have hpeer (p : Peer) : s.sc.peers[p].stop k = true ↔
        if k = .a then s.sc.peers[p].stopA = true else s.sc.peers[p].stopB = true := by
      cases k <;> rfl
    simp only [hmachine, hpeer, or_assoc]
    rfl
  refine ⟨derivedStop_eq_a.trans (hforced .a), ?_, fun h => congrArg (fun u => Host.Outcome.next (settle u)) ?_,
    fun hs hd => congrArg (fun u => Host.Outcome.next (settle u)) ?_⟩
  · rw [derivedStop_eq_b, hforced .b, ← Bool.not_eq_true, hforced .a]
  · have hlow : lowerStop s = { s with sp := { s.sp with effective := stop } } := lowerStop_eq s
    rw [levelPoint, hlow]
    rcases h with ⟨hs, hstop⟩ | ⟨hs, hdue⟩
    · rw [if_neg (by simp [runDue, hs]), if_neg (by simpa [fadeEngineWorks, stopped, hs] using hstop)]
    · have hnot : runDue s = false := by
        rcases hdue with hc | hw
        · simp [runDue, hc]
        · simp [runDue, hw]
      exact (if_neg (ne_true_of_eq_false hnot)).trans (if_neg (by simp [fadeEngineWorks, hs]))
  · rw [levelPoint, levelPoint, lowerStop_of_derived_none hd, lowerStop_of_none (s := { s with sp := _ }) rfl]
    rfl

end Sys2Proof.Machine
end

section
/-!
PROOFS. What a received frame of a PRESENT peer does: GROUP, STATE and STOP frames (chapters 5 and 8).
-/

namespace Sys2Proof.Machine

variable {s t : State}

/-! ## A new frame of a PRESENT peer is handed on (R129, R130, R149) -/

/-- The state in which a new frame of a PRESENT peer reaches its owner: the gap begins, the frame is recorded, and the
peer is heard. -/
def heardFrame (groups : List (BitVec 5)) (p : Peer) (payload : Payload) (s : State) : State :=
  { s with
    bc := { s.bc with
      phase := .idle, gap := 0, run := lastRun groups, lineHeld := false
      copies := put s.bc.copies p (s.bc.copies[p].set (payloadClass payload) (some payload)) }
    sc := { s.sc with peers := put s.sc.peers p { s.sc.peers[p] with heard := 0 } } }

/-- A frame that reaches its owner: read, of another station, and no copy. -/
structure NewFrame (groups : List (BitVec 5)) (p : Peer) (repeated : Bool) (payload : Payload) (s : State) : Prop where
  result : (readFrame groups).result = .ok (p, repeated, payload)
  fresh : repeated = false ∨ s.bc.copies[p].get (payloadClass payload) ≠ some payload
  reads : readsFrame s = true
  other : peerNumber p ≠ s.sc.number.val
  present : s.sc.peers[p].presence = .present

theorem frameReceived_of_ok {groups : List (BitVec 5)} {p : Peer} {repeated : Bool} {payload : Payload}
    (hr : (readFrame groups).result = .ok (p, repeated, payload)) (hreads : readsFrame s = true) :
    frameReceived groups s = takeFrame p repeated payload (frameOver (lastRun groups) s) := by
  simp [frameReceived, hreads, hr]

theorem isOwn_of_ne {p : Peer} (h : peerNumber p ≠ s.sc.number.val) : isOwn s p = false := by
  simpa [isOwn] using h

/-- The notices for a PRESENT peer: its time since heard starts over. -/
theorem noticed_of_present {p : Peer} (c : FrameClass) (ho : isOwn s p = false) (hp : s.sc.peers[p].presence = .present) :
    noticed p c s = setPeer s p { s.sc.peers[p] with heard := 0 } := by
  have hnotice : presenceNotice p s = setPeer s p { s.sc.peers[p] with heard := 0 } := by
    rw [presenceNotice, if_neg (by simp [ho])]
    simp only [hp, if_true]
  rw [noticed, hnotice, if_neg]
  simpa [isOwn] using ho

theorem NewFrame.handed {groups : List (BitVec 5)} {p : Peer} {repeated : Bool} {payload : Payload}
    (h : NewFrame groups p repeated payload s) :
    frameReceived groups s = handFrame payload p (heardFrame groups p payload s) := by
  have hcopy : (repeated && s.bc.copies[p].get (payloadClass payload) == some payload) = false := by
    rcases h.fresh with hr | hc
    · rw [hr, Bool.false_and]
    · rw [beq_eq_false_iff_ne.mpr hc, Bool.and_false]
  have hn := noticed_of_present (s := frameOver (lastRun groups) s) (payloadClass payload) (isOwn_of_ne h.other) h.present
  rw [frameReceived_of_ok h.result h.reads, takeFrame_eq, hn]
  exact if_neg (Bool.not_eq_true _ ▸ hcopy)

theorem NewFrame.exec_eq {groups : List (BitVec 5)} {p : Peer} {repeated : Bool} {payload : Payload}
    (h : NewFrame groups p repeated payload s) {t : State} (ht : handFrame payload p (heardFrame groups p payload s) = t) :
    exec (.frameReceived groups) s = .next (settle t) :=
  congrArg (fun u => Host.Outcome.next (settle u)) (h.handed.trans ht)

/-! ## GROUP frames (R91 to R93) -/

theorem applyGroup_of_not_taken {g : Group} {mute : Bool} {position : Position} {p : Peer} (ht : groupsTaken s = false) :
    applyGroup g mute position p s = s := by
  rw [applyGroup, if_pos (by simp [ht])]

/-- A frame for a group whose master is HOSTING here (R92). -/
theorem applyGroup_of_hosting {g : Group} {mute : Bool} {position : Position} {p : Peer} {ch : Channel}
    (ho : isOwn s p = false) (ht : groupsTaken s = true) (hh : hostingMaster s g = some ch) :
    applyGroup g mute position p s = if peerNumber p < s.sc.number.val then
      post .groupConflict (groupNumber g) (peerNumber p)
        (setGroup (setMaster s ch { s.mr.masters[ch] with demoted := true }) g (acceptedEntry p mute position))
      else s := by
  rw [applyGroup, if_neg (by simp [ho, ht])]
  simp only [hh]

theorem applyGroup_of_elsewhere {g : Group} {mute : Bool} {position : Position} {p : Peer}
    (ho : isOwn s p = false) (ht : groupsTaken s = true) (hh : hostingMaster s g = none) :
    applyGroup g mute position p s =
      if entryAccepts s g p = true then setGroup s g (acceptedEntry p mute position) else s := by
  rw [applyGroup, if_neg (by simp [ho, ht])]
  simp only [hh]

/-- Settles O30, by whether groups are taken, who hosts the group, and whether its entry accepts. -/
theorem groupFrameTakesTheEntry : Obligations.GroupFrameTakesTheEntry := by
  intro groups p repeated g mute position s hresult hfresh hreads hother hpresent heard live
  have hnew : NewFrame groups p repeated (.group g mute position) s := ⟨hresult, hfresh, hreads, hother, hpresent⟩
  have hheard : heardFrame groups p (.group g mute position) s = heard := rfl
  have ho : isOwn heard p = false := isOwn_of_ne hother
  refine ⟨fun hs => hnew.exec_eq (applyGroup_of_not_taken ?_), fun hs => ?_⟩
  · rcases hs with hs | hs | hs <;> simp [groupsTaken, heardFrame, hs]
  have ht : groupsTaken heard = true := by
    rcases hs with hs | hs | hs <;> simp [groupsTaken, heard, hs]
  refine ⟨fun ch hhost hd => ?_, fun hhost => ?_⟩
  · have happly := applyGroup_of_hosting (mute := mute) (position := position) ho ht
      (hostingMaster_of_hosting (s := heard) hhost hd)
    refine ⟨fun hlow => hnew.exec_eq (happly.trans (if_pos hlow)), fun hhigh => hnew.exec_eq (happly.trans (if_neg ?_))⟩
    exact not_lt.mpr hhigh.le
  · have happly := applyGroup_of_elsewhere (mute := mute) (position := position) ho ht
      (hostingMaster_of_elsewhere (s := heard) hhost)
    have hpresence (q : Peer) : heard.sc.peers[q].presence = s.sc.peers[q].presence := by
      show (put s.sc.peers p _)[q].presence = _
      by_cases hq : p = q
      · subst hq
        rw [put_same]
      · rw [put_other _ _ hq]
    refine ⟨fun hacc => hnew.exec_eq (happly.trans (if_pos ?_)), fun e he hown hlow => hnew.exec_eq (happly.trans (if_neg ?_))⟩
    · rcases hacc with hu | ⟨e, he, hown⟩
      · simp only [entryAccepts, show heard.mr.groups[g] = .unowned from hu]
      · simp only [entryAccepts, show heard.mr.groups[g] = .owned e from he, hpresence]
        rw [Bool.or_eq_true]
        rcases hown with hp | hle
        · exact .inl (bne_iff_ne.mpr hp)
        · exact .inr (decide_eq_true hle)
    · simp only [entryAccepts, show heard.mr.groups[g] = .owned e from he, hpresence, hown]
      simpa using hlow

/-! ## STATE and STOP frames (R145, R151, R152) -/

theorem applyState_eq {solo a b : Bool} {last : Option CueNumber} {p : Peer} (ho : isOwn s p = false) :
    applyState solo a b last p s = raiseStop { s with sc := { s.sc with
      peers := put s.sc.peers p { s.sc.peers[p] with solo := solo, stopA := a, stopB := b, last := last }
      candidate := if s.sc.state = .listen then candidateFromState last s.sc.candidate else s.sc.candidate } } := by
  rw [applyState, if_neg (by simp [ho])]
  by_cases hs : s.sc.state = .listen
  · rw [if_pos hs]
    exact congrArg raiseStop (if_pos hs)
  · rw [if_neg hs]
    exact congrArg raiseStop (if_neg hs)

/-- What hearing a peer leaves in its entry, before the frame writes it. -/
theorem put_heardPeer (v : Vector PeerEntry 31) (p : Peer) (f : PeerEntry → PeerEntry) :
    put (put v p { v[p] with heard := 0 }) p (f (put v p { v[p] with heard := 0 })[p])
      = put v p (f { v[p] with heard := 0 }) := by
  rw [put_same, put_put]

theorem applyStop_assert {k : StopKind} {target : Station} {p : Peer} (ho : isOwn s p = false) :
    applyStop false k target p s = raiseStop (setPeer s p (s.sc.peers[p].withStop k true)) := by
  rw [applyStop, if_neg (by simp [ho]), if_neg (by simp)]

/-- A RELEASE clears the flag of the station it names, where that is the sender or LOST (R152). -/
theorem applyStop_release {k : StopKind} {target p : Peer} (ho : isOwn s p = false) :
    applyStop true k target.succ p s = if target = p ∨ (isOwn s target = false ∧ s.sc.peers[target].presence = .lost)
      then setPeer s target (s.sc.peers[target].withStop k false) else s := by
  have htarget : toPeer? (target.succ : Station).val = some target := toPeer?_peerNumber target
  rw [applyStop, if_neg (by simp [ho]), if_pos rfl]
  simp only [htarget, Bool.or_eq_true, decide_eq_true_eq, Bool.and_eq_true, Bool.not_eq_true']

theorem withStop_eq (e : PeerEntry) (k : StopKind) (on : Bool) : e.withStop k on =
    { e with stopA := if k = .a then on else e.stopA, stopB := if k = .b then on else e.stopB } := by
  cases k <;> rfl

theorem candidateFromState_of_named {c : CueNumber} {candidate : Option Candidate}
    (h : ∃ x, candidate = some x ∧ x.cue = c) : candidateFromState (some c) candidate = candidate := by
  obtain ⟨x, rfl, rfl⟩ := h
  simp [candidateFromState]

theorem candidateFromState_of_other {c : CueNumber} {candidate : Option Candidate}
    (h : ∀ x, candidate = some x → x.cue ≠ c) :
    candidateFromState (some c) candidate = some { cue := c, source := .state, age := 0 } := by
  cases candidate with
  | none => rfl
  | some x => simp [candidateFromState, h x rfl]

/-- Settles O48, by the frame. -/
theorem stateAndStopFramesWriteThePeer : Obligations.StateAndStopFramesWriteThePeer := by
  intro groups p repeated payload s hresult hfresh hreads hother hpresent bc heard raised
  have hnew : NewFrame groups p repeated payload s := ⟨hresult, hfresh, hreads, hother, hpresent⟩
  have ho : isOwn (heardFrame groups p payload s) p = false := isOwn_of_ne hother
  refine ⟨?_, ?_, ?_⟩
  · rintro solo a b last rfl
    have happly := applyState_eq (solo := solo) (a := a) (b := b) (last := last) ho
    rw [raiseStop_eq, show (heardFrame groups p _ s).sc.peers = heard from rfl,
      put_heardPeer s.sc.peers p fun e => { e with solo := solo, stopA := a, stopB := b, last := last }] at happly
    refine ⟨_, hnew.exec_eq happly, rfl, fun h => ?_, fun hs c hc => ⟨fun h => ?_, fun h => ?_⟩⟩
    · rcases h with h | rfl
      · exact if_neg h
      · exact ite_self _
    · subst hc
      exact (if_pos hs).trans (candidateFromState_of_named h)
    · subst hc
      exact (if_pos hs).trans (candidateFromState_of_other h)
  · rintro k target rfl
    have happly := applyStop_assert (k := k) (target := target) ho
    rw [raiseStop_eq, withStop_eq, setPeer, show (heardFrame groups p _ s).sc.peers = heard from rfl,
      put_heardPeer s.sc.peers p fun e =>
        { e with stopA := if k = .a then true else e.stopA, stopB := if k = .b then true else e.stopB }] at happly
    exact ⟨_, hnew.exec_eq happly, rfl⟩
  · rintro k target rfl
    have happly := applyStop_release (k := k) (target := target) ho
    have hlost (h : target ≠ p) : (heardFrame groups p (.stop true k target.succ) s).sc.peers[target]
        = s.sc.peers[target] := put_other _ _ h.symm
    refine ⟨fun h => hnew.exec_eq (happly.trans ?_), fun hne h => hnew.exec_eq (happly.trans (if_neg ?_))⟩
    · rw [if_pos, withStop_eq]
      · rfl
      · by_cases hp : target = p
        · exact .inl hp
        · obtain ⟨hown, hl⟩ := h.resolve_left hp
          refine .inr ⟨isOwn_of_ne hown, ?_⟩
          rw [hlost hp, hl]
    · rintro (hp | ⟨hown, hl⟩)
      · exact hne hp
      · rw [hlost hne] at hl
        rcases h with h | h
        · exact absurd (isOwn_iff (s := s).mpr h) (Bool.not_eq_true _ ▸ hown)
        · exact h hl

/-! ## The timers of groups (R94, R97) -/

theorem masterDirty_iff (s : State) (ch : Channel) : masterDirty s ch = true ↔
    s.mr.masters[ch].lastSent ≠ some (sourcePosition s ch, s.mr.mute[ch]) := bne_iff_ne

theorem masterEligible_iff (s : State) (ch : Channel) : masterEligible s ch = true ↔
    (∃ g, hostedGroup s ch = some g) ∧ s.mr.masters[ch].demoted = false
      ∧ ((s.mr.masters[ch].lastSent ≠ some (sourcePosition s ch, s.mr.mute[ch]) ∧ 8000 ≤ s.mr.masters[ch].since)
        ∨ 250000 ≤ s.mr.masters[ch].since) := by
  have hspacing : Config.groupSpacing = 8000 := rfl
  have hrefresh : Config.groupRefresh = 250000 := rfl
  simp only [masterEligible, Bool.and_eq_true, Bool.or_eq_true, Bool.not_eq_true', Option.isSome_iff_exists,
    decide_eq_true_eq, masterDirty_iff, hspacing, hrefresh, and_assoc]

/-- GROUP_SEND_DUE for a HOSTING master (R97). -/
theorem groupSendDue_of_hosting {ch : Channel} {g : Group} (hg : hostedGroup s ch = some g)
    (hd : s.mr.masters[ch].demoted = false) : groupSendDue ch s = setMaster s ch
      { s.mr.masters[ch] with since := max s.mr.masters[ch].since (sendLimit (masterDirty s ch) s.mr.masters[ch].since) } := by
  rw [groupSendDue]
  exact if_pos (by rw [hg, hd]; rfl)

/-- A LIVE entry becomes STALE, with its post (R94). -/
theorem makeStale_of_live {g : Group} {e : Ownership} (he : s.mr.groups[g] = .owned e) (hl : e.stale = false) :
    makeStale g s = post .groupStale (groupNumber g) (peerNumber e.owner)
      (setGroup s g (.owned { e with stale := true })) := by
  unfold makeStale
  rw [he]
  exact if_neg (by simp [hl])

theorem makeStale_of_stale {g : Group} {e : Ownership} (he : s.mr.groups[g] = .owned e) (hst : e.stale = true) :
    makeStale g s = s := by
  unfold makeStale
  rw [he]
  exact if_pos hst

/-- The age limit of a LIVE entry (R94). -/
theorem groupAgeLimit_of_live {g : Group} {e : Ownership} (he : s.mr.groups[g] = .owned e) (hl : e.stale = false) :
    groupAgeLimit g s = post .groupStale (g.val + 1) (e.owner.val + 1) { s with mr := { s.mr with
      groups := put s.mr.groups g (.owned { e with stale := true, age := 1000000 }) } } := by
  have hread : (setGroup s g (.owned { e with age := Config.ageLimit })).mr.groups[g]
      = .owned { e with age := Config.ageLimit } := put_same _ _ _
  have hage : groupAgeLimit g s = makeStale g (setGroup s g (.owned { e with age := Config.ageLimit })) := by
    simp only [groupAgeLimit, he, hl, Bool.false_eq_true, if_false]
  rw [hage, makeStale_of_live hread hl]
  refine congrArg (post .groupStale (g.val + 1) (e.owner.val + 1)) ?_
  simp only [setGroup, put_put]
  rfl

/-- The age limit of a STALE entry (R94). -/
theorem groupAgeLimit_of_stale {g : Group} {e : Ownership} (he : s.mr.groups[g] = .owned e) (hst : e.stale = true) :
    groupAgeLimit g s = s := by
  simp only [groupAgeLimit, he, hst, if_true]

/-- Settles O31, by the entry's age and by whether the master is dirty. -/
theorem groupTimersAgeAndSend : Obligations.GroupTimersAgeAndSend := by
  refine ⟨fun s g e he => ⟨fun hl => congrArg Host.Outcome.next (groupAgeLimit_of_live he hl),
    fun hst => congrArg Host.Outcome.next (groupAgeLimit_of_stale he hst)⟩, masterEligible_iff, ?_⟩
  intro s ch g hg hd m dirty
  have hsend := groupSendDue_of_hosting hg hd
  have hdirty : masterDirty s ch = true ↔ dirty := masterDirty_iff s ch
  have hmaster (x : Master) : (setMaster s ch x).mr.masters[ch] = x := put_same _ _ _
  refine ⟨_, congrArg (fun u => Host.Outcome.next (settle u)) hsend, rfl, fun other ho => put_other _ _ ho.symm,
    fun h => ?_, fun h hs => ?_, fun h hs => ?_⟩
  · rw [hdirty.mpr h, sendLimit_dirty]
    refine ⟨hmaster _, (masterEligible_iff _ _).mpr ⟨⟨g, hg⟩, ?_⟩⟩
    rw [hmaster]
    exact ⟨hd, .inl ⟨h, le_max_right _ _⟩⟩
  · have hclean : masterDirty s ch = false := by rwa [← Bool.not_eq_true, hdirty]
    rw [hclean, sendLimit_clean hs]
    refine ⟨hmaster _, (masterEligible_iff _ _).mpr ⟨⟨g, hg⟩, ?_⟩⟩
    rw [hmaster]
    exact ⟨hd, .inr (le_max_right _ _)⟩
  · have hstand : setMaster s ch { m with since := max m.since (sendLimit (masterDirty s ch) m.since) } = s := by
      rw [hs, sendLimit_at_spacing, max_self, ← hs]
      exact congrArg (fun v => { s with mr := { s.mr with masters := v } }) (put_self s.mr.masters ch)
    refine ⟨hstand, ?_⟩
    rw [hstand, ← Bool.not_eq_true, masterEligible_iff]
    rintro ⟨-, -, ⟨hd', -⟩ | hr⟩
    · exact h hd'
    · change 250000 ≤ m.since at hr
      rw [hs] at hr
      exact absurd hr (by decide)

/-! ## The loss of a peer (R94, R96, R150, R153) -/

/-- The entry is that of station `p`. -/
def ownedBy (p : Peer) : GroupEntry → Bool
  | .owned e => e.owner == p
  | .unowned => false

/-- An entry after the loss of station `p`. -/
def entryLost (p : Peer) : GroupEntry → GroupEntry
  | .owned e => if e.owner = p then .owned { e with stale := true } else .owned e
  | .unowned => .unowned

/-- A master whose demotion ends, with its refresh due (R96). -/
def promoted (m : Master) : Master :=
  if m.demoted = true then { demoted := false, lastSent := none, since := 250000 } else m

/-- GROUP STALE for an entry that station `p` held LIVE, posted on a state that stands for the event queue. -/
def stalePost (p : Peer) (g : Group) (e : GroupEntry) (u : State) : State :=
  match e with
  | .owned e => if e.owner = p ∧ e.stale = false then post .groupStale (g.val + 1) (p.val + 1) u else u
  | .unowned => u

theorem ownedBy_entryLost (p : Peer) (e : GroupEntry) : ownedBy p (entryLost p e) = ownedBy p e := by
  cases e with
  | unowned => rfl
  | owned e =>
    by_cases h : e.owner = p
    · simp only [entryLost, if_pos h]
      rfl
    · simp only [entryLost, if_neg h]

theorem promote_eq (ch : Channel) (s : State) :
    promote ch s = { s with mr := { s.mr with masters := put s.mr.masters ch (promoted s.mr.masters[ch]) } } := by
  unfold promote promoted
  split
  · rfl
  · exact (congrArg (fun v => { s with mr := { s.mr with masters := v } }) (put_self s.mr.masters ch)).symm

/-- The masters after the loss of the owner of one group. -/
def mastersLost (p : Peer) (s : State) (g : Group) : Vector Master 16 :=
  if ownedBy p s.mr.groups[g] = true then
    match hostOf s g with
    | some ch => put s.mr.masters ch (promoted s.mr.masters[ch])
    | none => s.mr.masters
  else s.mr.masters

theorem makeStale_eq {g : Group} {e : Ownership} (he : s.mr.groups[g] = .owned e) : makeStale g s =
    { s with
      mr := { s.mr with groups := put s.mr.groups g (.owned { e with stale := true }) }
      lp := (stalePost e.owner g (.owned e) s).lp } := by
  cases hst : e.stale with
  | false =>
    rw [makeStale_of_live he hst]
    simp only [stalePost, hst, and_self, if_true]
    rfl
  | true =>
    rw [makeStale_of_stale he hst]
    simp only [stalePost, hst, Bool.true_eq_false, and_false, if_false]
    have hput : put s.mr.groups g (.owned { e with stale := true }) = s.mr.groups := by
      rw [← hst, ← he]
      exact put_self _ _
    rw [hput]

/-- One group at the loss of a peer writes its entry, its master and its post. -/
theorem groupOwnerLost_eq (p : Peer) (s : State) (g : Group) : groupOwnerLost p s g =
    { s with
      mr := { s.mr with
        groups := put s.mr.groups g (entryLost p s.mr.groups[g]), masters := mastersLost p s g }
      lp := (stalePost p g s.mr.groups[g] s).lp } := by
  have hstand : { s with mr := { s.mr with groups := put s.mr.groups g s.mr.groups[g] } } = s :=
    congrArg (fun v => { s with mr := { s.mr with groups := v } }) (put_self s.mr.groups g)
  unfold groupOwnerLost mastersLost
  cases he : s.mr.groups[g] with
  | unowned =>
    rw [he] at hstand
    exact hstand.symm
  | owned e =>
    rw [he] at hstand
    by_cases ho : e.owner = p
    · subst ho
      simp only [entryLost, ownedBy, beq_self_eq_true, if_true]
      cases hostOf s g with
      | none => exact makeStale_eq he
      | some ch =>
        simp only [makeStale_eq he, promote_eq]
    · simp only [entryLost, ownedBy, stalePost, beq_eq_false_iff_ne.mpr ho, ho, false_and, if_false,
        Bool.false_eq_true]
      exact hstand.symm

theorem promoted_promoted (m : Master) : promoted (promoted m) = promoted m := by
  unfold promoted
  split
  · rfl
  · rfl

/-- The state after the loss of the owner of each group of a list. -/
def groupsLost (p : Peer) (l : List Group) (s : State) : State := l.foldl (groupOwnerLost p) s

/-- The state `t` with the group entries, masters and load port of `s`. -/
def sansOwnership (s t : State) : State :=
  { t with mr := { t.mr with groups := s.mr.groups, masters := s.mr.masters }, lp := s.lp }

theorem eq_of_sansOwnership (h : sansOwnership s t = s) : t = { s with
    mr := { s.mr with groups := t.mr.groups, masters := t.mr.masters }, lp := t.lp } :=
  (rfl : t = { sansOwnership s t with
    mr := { (sansOwnership s t).mr with groups := t.mr.groups, masters := t.mr.masters }, lp := t.lp }).trans
  (congrArg (fun u : State => { u with
    mr := { u.mr with groups := t.mr.groups, masters := t.mr.masters }, lp := t.lp }) h)

theorem groupsLost_frame (p : Peer) (l : List Group) (s : State) : groupsLost p l s = { s with
    mr := { s.mr with groups := (groupsLost p l s).mr.groups, masters := (groupsLost p l s).mr.masters }
    lp := (groupsLost p l s).lp } := by
  refine eq_of_sansOwnership ((foldl_frame (sansOwnership s) (fun t g => ?_) l s).trans rfl)
  rw [groupOwnerLost_eq]
  rfl

theorem groupsLost_group (p : Peer) {l : List Group} (hl : l.Nodup) (s : State) (g : Group) :
    (groupsLost p l s).mr.groups[g] = if g ∈ l then entryLost p s.mr.groups[g] else s.mr.groups[g] := by
  refine foldl_places (f := groupOwnerLost p) (fun t g => t.mr.groups[g]) (fun t g => entryLost p t.mr.groups[g])
    (fun t g => ?_) (fun t i j hij => ?_) (fun t i j hij => ?_) l hl s g
  · rw [groupOwnerLost_eq]
    exact put_same _ _ _
  · rw [groupOwnerLost_eq]
    exact put_other _ _ hij
  · rw [groupOwnerLost_eq]
    exact congrArg (entryLost p) (put_other _ _ hij)

/-- A turn leaves who owns each group, and who hosts it. -/
theorem groupOwnerLost_owner (p : Peer) (s : State) (i g : Group) :
    ownedBy p (groupOwnerLost p s i).mr.groups[g] = ownedBy p s.mr.groups[g] := by
  rw [groupOwnerLost_eq]
  by_cases h : i = g
  · subst h
    exact (congrArg (ownedBy p) (put_same _ _ _)).trans (ownedBy_entryLost p _)
  · exact congrArg (ownedBy p) (put_other _ _ h)

theorem groupOwnerLost_hostOf (p : Peer) (s : State) (i g : Group) : hostOf (groupOwnerLost p s i) g = hostOf s g := by
  rw [groupOwnerLost_eq]
  rfl

theorem groupOwnerLost_master (p : Peer) (s : State) (g : Group) (ch : Channel) :
    (groupOwnerLost p s g).mr.masters[ch] =
      if ownedBy p s.mr.groups[g] = true ∧ hostOf s g = some ch then promoted s.mr.masters[ch] else s.mr.masters[ch] := by
  rw [groupOwnerLost_eq]
  show (mastersLost p s g)[ch] = _
  unfold mastersLost
  cases ho : ownedBy p s.mr.groups[g] with
  | false => simp
  | true =>
    cases hh : hostOf s g with
    | none => simp
    | some host =>
      by_cases hc : host = ch
      · subst hc
        simp
      · simp only [if_true, true_and, Option.some.injEq, hc, if_false]
        exact put_other _ _ hc

theorem groupsLost_master (p : Peer) (l : List Group) (s : State) (ch : Channel) : (groupsLost p l s).mr.masters[ch] =
    if ∃ g ∈ l, ownedBy p s.mr.groups[g] = true ∧ hostOf s g = some ch then promoted s.mr.masters[ch]
    else s.mr.masters[ch] := by
  induction l generalizing s with
  | nil => simp [groupsLost]
  | cons i rest ih =>
    have hstep := ih (groupOwnerLost p s i)
    simp only [groupOwnerLost_owner, groupOwnerLost_hostOf, groupOwnerLost_master] at hstep
    rw [groupsLost, List.foldl_cons]
    refine hstep.trans ?_
    by_cases hi : ownedBy p s.mr.groups[i] = true ∧ hostOf s i = some ch
    · rw [if_pos hi, promoted_promoted, ite_self, if_pos ⟨i, List.mem_cons_self, hi⟩]
    · have hiff : (∃ g ∈ i :: rest, ownedBy p s.mr.groups[g] = true ∧ hostOf s g = some ch) ↔
          ∃ g ∈ rest, ownedBy p s.mr.groups[g] = true ∧ hostOf s g = some ch := by
        rw [List.exists_mem_cons_iff, or_iff_right hi]
      simp only [hi, if_false, hiff]

/-- A post reads the load port, the settings and the stamp alone (R176). -/
theorem post_lp_of_stamp (k : EventKind) (a b : Nat) (hl : t.lp = s.lp) (hs : t.sc.stamp = s.sc.stamp) (hm : t.sm = s.sm) :
    (post k a b t).lp = (post k a b s).lp :=
  (post_lp_congr (t := t) (s := { s with sc := t.sc }) k a b hl rfl hm).trans (by
    simp only [post, timestamp, hs]
    rfl)

theorem groupsLost_lp (p : Peer) (l : List Group) (hn : l.Nodup) (u : State) (hl : t.lp = u.lp)
    (hs : t.sc.stamp = u.sc.stamp) (hm : t.sm = u.sm) (hg : ∀ g ∈ l, t.mr.groups[g] = s.mr.groups[g]) :
    (groupsLost p l t).lp = (l.foldl (fun u g => stalePost p g s.mr.groups[g] u) u).lp := by
  refine (foldl_lockstep (R := fun (l : List Group) (v w : State) => v.lp = w.lp ∧ v.sc.stamp = w.sc.stamp ∧ v.sm = w.sm
    ∧ l.Nodup ∧ ∀ g ∈ l, v.mr.groups[g] = s.mr.groups[g]) (fun i l v w ⟨hl, hs, hm, hn, hg⟩ => ?_) l ⟨hl, hs, hm, hn, hg⟩).1
  obtain ⟨hi, hrest⟩ := List.nodup_cons.mp hn
  have hkeep : (stalePost p i s.mr.groups[i] w).sc = w.sc ∧ (stalePost p i s.mr.groups[i] w).sm = w.sm := by
    unfold stalePost
    split
    · split <;> exact ⟨rfl, rfl⟩
    · exact ⟨rfl, rfl⟩
  rw [groupOwnerLost_eq, hkeep.1, hkeep.2, hg i List.mem_cons_self]
  refine ⟨?_, hs, hm, hrest, fun g hgl => (put_other _ _ fun h : i = g => hi (h ▸ hgl)).trans (hg g (List.mem_cons_of_mem _ hgl))⟩
  show (stalePost p i s.mr.groups[i] v).lp = _
  unfold stalePost
  split
  · split
    · exact post_lp_of_stamp _ _ _ hl hs hm
    · exact hl
  · exact hl

/-- The state of a lost peer before its groups are (R150). -/
def peerGone (p : Peer) (s : State) : State :=
  let lost := post .peerLost (peerNumber p) (cueCode s.sc.peers[p].last) (setPeer s p { s.sc.peers[p] with
    presence := .lost, solo := false, heard := max s.sc.peers[p].heard Config.lostTime })
  if kindsHeld s.sc.peers[p] = 0 then lost else post .orphanStop (peerNumber p) (kindsHeld s.sc.peers[p]) lost

theorem peerLost_eq {p : Peer} (hp : s.sc.peers[p].presence = .present) :
    peerLost p s = groupsLost p groupNumbers (peerGone p s) := if_pos hp

theorem peerGone_frame (p : Peer) (s : State) : peerGone p s = { s with
    sc := { s.sc with peers := put s.sc.peers p { s.sc.peers[p] with
      presence := .lost, solo := false, heard := max s.sc.peers[p].heard 400000 } }
    lp := (peerGone p s).lp } := by
  unfold peerGone
  dsimp only
  split <;> rfl

theorem kindsHeld_eq_zero (e : PeerEntry) : kindsHeld e = 0 ↔ e.stopA = false ∧ e.stopB = false := by
  unfold kindsHeld
  cases e.stopA <;> cases e.stopB <;> simp

theorem peerGone_lp (p : Peer) (s : State) : (peerGone p s).lp =
    (let lost := post .peerLost (p.val + 1) (s.sc.peers[p].last.getD 0) s
      if s.sc.peers[p].stopA = false ∧ s.sc.peers[p].stopB = false then lost
      else post .orphanStop (p.val + 1) ((if s.sc.peers[p].stopA = true then 1 else 0)
        + (if s.sc.peers[p].stopB = true then 2 else 0)) lost).lp := by
  have hlost : (post .peerLost (peerNumber p) (cueCode s.sc.peers[p].last) (setPeer s p { s.sc.peers[p] with
      presence := .lost, solo := false, heard := max s.sc.peers[p].heard Config.lostTime })).lp
      = (post .peerLost (p.val + 1) (s.sc.peers[p].last.getD 0) s).lp := post_lp_of_stamp _ _ _ rfl rfl rfl
  unfold peerGone
  dsimp only
  by_cases h : kindsHeld s.sc.peers[p] = 0
  · rw [if_pos h, if_pos ((kindsHeld_eq_zero _).mp h)]
    exact hlost
  · rw [if_neg h, if_neg (mt (kindsHeld_eq_zero _).mpr h)]
    exact post_lp_of_stamp _ _ _ hlost rfl rfl

/-- What a master is after the loss: promoted where the lost station owned its group (R96). -/
theorem promoted_of_demoted {m : Master} (h : m.demoted = true) :
    promoted m = { demoted := false, lastSent := none, since := 250000 } := if_pos h

theorem promoted_of_hosting {m : Master} (h : m.demoted = false) : promoted m = m := if_neg (by simp [h])

theorem ownedBy_iff {p : Peer} {e : GroupEntry} : ownedBy p e = true ↔ ∃ o, e = .owned o ∧ o.owner = p := by
  cases e <;> simp [ownedBy]

/-- Settles O47: the entry of the lost peer, then its groups one after another. -/
theorem peerLossAndStateRefresh : Obligations.PeerLossAndStateRefresh := by
  refine ⟨fun s p hp => ?_, fun s p hp => congrArg (fun u => Host.Outcome.next (settle u)) (if_neg hp),
    fun s hs => congrArg (fun u => Host.Outcome.next (settle u)) (if_pos hs)⟩
  have hframe := groupsLost_frame p groupNumbers (peerGone p s)
  have hgone := peerGone_frame p s
  have hmr : (peerGone p s).mr = s.mr := congrArg (·.mr) hgone
  have hsc : (peerGone p s).sc = { s.sc with peers := put s.sc.peers p { s.sc.peers[p] with
      presence := .lost, solo := false, heard := max s.sc.peers[p].heard 400000 } } := congrArg (·.sc) hgone
  have hsm : (peerGone p s).sm = s.sm := congrArg (·.sm) hgone
  have hhost (g : Group) : hostOf (peerGone p s) g = hostOf s g := by
    rw [hgone]
    rfl
  refine ⟨_, congrArg (fun u => Host.Outcome.next (settle u)) (peerLost_eq hp), ?_, ?_, fun g => ?_, fun ch => ?_, ?_⟩
  · exact (congrArg (·.sc) hframe).trans hsc
  · generalize groupsLost p groupNumbers (peerGone p s) = t at hframe
    rw [hframe, hgone]
  · rw [groupsLost_group p (l := groupNumbers) (List.nodup_finRange 32), if_pos (mem_groupNumbers g), hmr]
    refine ⟨fun e he ho => ?_, fun ho => ?_⟩
    · rw [he, entryLost, if_pos ho]
    · cases he : s.mr.groups[g] with
      | unowned => rfl
      | owned e => exact if_neg (ho e he)
  · have hmaster := groupsLost_master p groupNumbers (peerGone p s) ch
    have howner : (∃ g ∈ groupNumbers, ownedBy p (peerGone p s).mr.groups[g] = true ∧ hostOf (peerGone p s) g = some ch) ↔
        ∃ g e, hostOf s g = some ch ∧ s.mr.groups[g] = .owned e ∧ e.owner = p := by
      simp only [hmr, hhost, ownedBy_iff]
      constructor
      · rintro ⟨g, -, ⟨e, he, ho⟩, hg⟩
        exact ⟨g, e, hg, he, ho⟩
      · rintro ⟨g, e, hg, he, ho⟩
        exact ⟨g, mem_groupNumbers g, ⟨e, he, ho⟩, hg⟩
    rw [hmr] at hmaster
    refine ⟨fun ⟨hown, hd⟩ => ?_, fun h => ?_⟩
    · rw [← promoted_of_demoted hd]
      exact hmaster.trans (if_pos (hmr ▸ howner.mpr hown))
    · rcases h with h | h
      · exact hmaster.trans (if_neg (hmr ▸ mt howner.mp fun ⟨g, e, hg, he, ho⟩ => h g e hg he ho))
      · rw [hmaster, promoted_of_hosting h, ite_self]
  · have hpost := groupsLost_lp (s := s) p groupNumbers (List.nodup_finRange 32)
      (let lost := post .peerLost (p.val + 1) (s.sc.peers[p].last.getD 0) s
        if s.sc.peers[p].stopA = false ∧ s.sc.peers[p].stopB = false then lost
        else post .orphanStop (p.val + 1) ((if s.sc.peers[p].stopA = true then 1 else 0)
          + (if s.sc.peers[p].stopB = true then 2 else 0)) lost)
      (peerGone_lp p s) ?stamp ?memory (fun g _ => by rw [hmr])
    case stamp =>
      rw [hsc]
      dsimp only
      split <;> rfl
    case memory =>
      rw [hsm]
      dsimp only
      split <;> rfl
    exact hpost

/-! ## The end of the listen period (R32, R33, R50, R146) -/

theorem cueTable_of_image {im : ShowImage} (h : s.sm.image = some im) : cueTable s = im.cues := by
  simp [cueTable, h]

/-- Settles O45, by the candidate. -/
theorem listenExpiryAdoptsTheCandidate : Obligations.ListenExpiryAdoptsTheCandidate := by
  intro s im hs him
  have hexpiry : listenExpiry s = { s with
      cq := cueSequencerCatchup im.cues s.sc.candidate s.cq
      sc := { s.sc with
        state := .catchup, listen := none, walkEnded := false
        tracked := some (mapTable (fun e => { level := e.preset, mute := e.presetMute }) im.channels) } } := by
    rw [listenExpiry, if_pos hs, cueTable_of_image him, him]
    rfl
  refine ⟨_, congrArg Host.Outcome.next hexpiry, ?_, fun hc => ?_, fun c hc => ?_⟩
  · cases hc : s.sc.candidate <;> simp only [cueSequencerCatchup]
  · simp only [hc, cueSequencerCatchup, and_self]
  · simp only [hc, cueSequencerCatchup]
    refine ⟨trivial, trivial, fun hf => ?_, fun hst => ?_⟩
    · rw [hf]
    · rw [hst]
      rfl

end Sys2Proof.Machine
end

section
/-!
PROOFS. Fader strips (chapter 6): conversions, touch, keys, rests, stalls and CLEAR MOTOR.
-/

namespace Sys2Proof.Machine

variable {s t : State}

/-! ## Conversions (R103, R109, R111, R112) -/

theorem within_iff (n : Nat) (x y : Position) : within n x y = true ↔ x.val ≤ y.val + n ∧ y.val ≤ x.val + n := by
  simp only [within, Bool.and_eq_true, decide_eq_true_eq]
  omega

theorem oppositeSigns_iff (x y : Int) : oppositeSigns x y = true ↔ (0 < x ∧ y < 0) ∨ (x < 0 ∧ 0 < y) := by
  simp [oppositeSigns]

/-- The pickup test (R112). -/
theorem pickupMeets_iff (x : Strip) (m c : Position) : pickupMeets x m c = true ↔
    (x.park.val + 4 ≤ m.val ∨ m.val + 4 ≤ x.park.val)
      ∧ ((m.val ≤ c.val + 2 ∧ c.val ≤ m.val + 2)
        ∨ ∃ q d, x.crossing = some (q, d) ∧ m ≠ q ∧ ((0 < d ∧ m < c) ∨ (d < 0 ∧ c < m))) := by
  have hpark : (!within 3 m x.park) = true ↔ x.park.val + 4 ≤ m.val ∨ m.val + 4 ≤ x.park.val := by
    rw [Bool.not_eq_true', ← Bool.not_eq_true, within_iff]
    omega
  rw [pickupMeets, Bool.and_eq_true, Bool.or_eq_true, hpark, within_iff]
  refine and_congr_right fun _ => or_congr_right ?_
  cases x.crossing with
  | none => simp
  | some p =>
    obtain ⟨q, d⟩ := p
    simp only [Bool.and_eq_true, bne_iff_ne, oppositeSigns_iff, Option.some.injEq, Prod.mk.injEq, Fin.lt_def]
    constructor
    · rintro ⟨hq, h⟩
      exact ⟨q, d, ⟨rfl, rfl⟩, hq, by omega⟩
    · rintro ⟨q', d', ⟨rfl, rfl⟩, hq, h⟩
      exact ⟨hq, by omega⟩

/-- The hand follows a change of 2 and the ends of travel (R109). -/
theorem trackHand_of_moved {m hand : Position} (h : hand.val + 2 ≤ m.val ∨ m.val + 2 ≤ hand.val ∨ m = 0 ∨ m = 1023) :
    trackHand m hand = m := by
  rw [trackHand, if_pos]
  rw [Bool.or_eq_true, Bool.or_eq_true, Bool.not_eq_true', ← Bool.not_eq_true, within_iff, decide_eq_true_eq,
    decide_eq_true_eq]
  rcases h with h | h | h | h
  · exact .inl (.inl (by omega))
  · exact .inl (.inl (by omega))
  · exact .inl (.inr h)
  · exact .inr h

theorem trackHand_of_still {m hand : Position} (h1 : m.val < hand.val + 2) (h2 : hand.val < m.val + 2) (h3 : m ≠ 0)
    (h4 : m ≠ 1023) : trackHand m hand = hand := by
  rw [trackHand, if_neg]
  rw [Bool.or_eq_true, Bool.or_eq_true, Bool.not_eq_true', ← Bool.not_eq_true, within_iff, decide_eq_true_eq,
    decide_eq_true_eq]
  rintro ((h | h) | h)
  · omega
  · exact h3 h
  · exact h4 h

/-- The crossing memory after a conversion (R112). -/
def convertedCrossing (s : State) (ch : Channel) (m : Position) : Option (Position × Int) :=
  if isPlain s ch = true then some (m, (m.val : Int) - s.fe.levels[ch].val) else s.st.strips[ch].crossing

theorem convertedStrip_of_hand {ch : Channel} (m : Position) (hx : s.st.strips[ch].mode = .hand) :
    convertedStrip s ch m = { s.st.strips[ch] with
      measured := m, hand := trackHand m s.st.strips[ch].hand, crossing := convertedCrossing s ch m } := by
  unfold convertedStrip convertedCrossing
  simp only [hx]
  split <;> rfl

theorem convertedStrip_of_pickup {ch : Channel} {m : Position} (hx : s.st.strips[ch].mode = .auto)
    (hp : isPlain s ch = true) (hm : pickupMeets s.st.strips[ch] m s.fe.levels[ch] = true) :
    convertedStrip s ch m = { s.st.strips[ch] with
      measured := m, mode := .hand, hand := m, crossing := convertedCrossing s ch m } := by
  have hmeets (mode : Mode) :
      pickupMeets { s.st.strips[ch] with measured := m, mode := mode } m s.fe.levels[ch] = true := hm
  unfold convertedStrip convertedCrossing
  simp only [hx, hp, hmeets, Bool.and_self, if_true]

theorem convertedStrip_of_auto {ch : Channel} {m : Position} (hx : s.st.strips[ch].mode = .auto)
    (hm : isPlain s ch = false ∨ pickupMeets s.st.strips[ch] m s.fe.levels[ch] = false) :
    convertedStrip s ch m = { s.st.strips[ch] with measured := m, crossing := convertedCrossing s ch m } := by
  have hno (mode : Mode) :
      (isPlain s ch && pickupMeets { s.st.strips[ch] with measured := m, mode := mode } m s.fe.levels[ch]) = false := by
    show (isPlain s ch && pickupMeets s.st.strips[ch] m s.fe.levels[ch]) = false
    rcases hm with hm | hm
    · rw [hm, Bool.false_and]
    · rw [hm, Bool.and_false]
  unfold convertedStrip convertedCrossing
  simp only [hx, hno, Bool.false_eq_true, if_false]
  split <;> rfl

theorem hasWiper_iff (s : State) (ch : Channel) : hasWiper s ch = true ↔ faderOf s ch ≠ .absent := bne_iff_ne

/-- A conversion in RUN (R107, R109, R112). -/
theorem conversion_of_run {ch : Channel} (m : Position) (hf : faderOf s ch ≠ .absent) (hs : s.sc.state = .run) :
    conversion ch m s = setStrip s ch (convertedStrip s ch m) := by
  rw [conversion, if_pos ((hasWiper_iff s ch).mpr hf), if_pos hs]

/-- Settles O32, by the fader, the station state and the mode. -/
theorem conversionTracksHandsAndPicksUp : Obligations.ConversionTracksHandsAndPicksUp := by
  intro ch m s x c with' crossing meets
  have next {u : State} (h : conversion ch m s = u) : exec (.conversionComplete ch m) s = .next (settle u) :=
    congrArg (fun v => Host.Outcome.next (settle v)) h
  have hmeets : pickupMeets x m c = true ↔ meets := pickupMeets_iff _ _ _
  have hauto (hn : isPlain s ch = false ∨ ¬meets) : isPlain s ch = false
      ∨ pickupMeets s.st.strips[ch] m s.fe.levels[ch] = false :=
    hn.imp_right fun h => Bool.not_eq_true _ ▸ mt hmeets.mp h
  refine ⟨fun hf => next (if_neg ?_), fun hf hs => next ?_, fun hf hs hx => ⟨fun h => next ?_, fun h1 h2 h3 h4 => next ?_⟩,
    fun hf hs hx => ⟨fun hp hm => next ?_, fun h => next ?_⟩⟩
  · rw [hasWiper_iff]
    exact fun h => h hf
  · rw [conversion, if_pos ((hasWiper_iff s ch).mpr hf), if_neg hs]
    rfl
  · rw [conversion_of_run m hf hs, convertedStrip_of_hand m hx, trackHand_of_moved h]
    rfl
  · rw [conversion_of_run m hf hs, convertedStrip_of_hand m hx, trackHand_of_still h1 h2 h3 h4]
    rfl
  · rw [conversion_of_run m hf hs, convertedStrip_of_pickup hx hp (hmeets.mpr hm)]
    rfl
  · rw [conversion_of_run m hf hs, convertedStrip_of_auto hx (hauto h)]
    rfl

/-! ## Touch (R104, R108, R110) -/

theorem strip_setStrip (s : State) (ch : Channel) (x : Strip) : (setStrip s ch x).st.strips[ch] = x := put_same _ _ _

theorem setStrip_twice (s : State) (ch : Channel) (x y : Strip) : setStrip (setStrip s ch x) ch y = setStrip s ch y := by
  simp only [setStrip, put_put]

theorem stallCleared_eq (x : Strip) : stallCleared x = { x with
    motor := if x.motor = .stalled then .off else x.motor, stall := if x.motor = .stalled then 0 else x.stall } := by
  obtain ⟨_, _, _, _, _, _, _, motor⟩ := x
  cases motor <;> rfl

theorem motorReleased_eq (x : Strip) : motorReleased x = { x with
    motor := if x.motor = .stalled then .stalled else .off
    rest := if x.motor = .stalled then x.rest else 0, stall := if x.motor = .stalled then x.stall else 0 } := by
  obtain ⟨_, _, _, _, _, _, _, motor⟩ := x
  cases motor <;> rfl

/-- A FREE arrival on a channel whose touch has become FREE (R74, R110). -/
theorem freeAct_setStrip (s : State) (ch : Channel) (y : Strip) : freeAct ch (setStrip s ch y) =
    if s.sc.state = .run ∧ y.mode = .hand then
      setStrip { s with fe := { s.fe with levels := if isKeep s ch = true then put s.fe.levels ch y.hand else s.fe.levels } }
        ch { stallCleared y with mode := .auto }
    else setStrip s ch (stallCleared y) := by
  have hmode : (stallCleared y).mode = y.mode := by rw [stallCleared_eq]
  have hhand : (stallCleared y).hand = y.hand := by rw [stallCleared_eq]
  have hkeep (z : Strip) : isKeep (setStrip s ch z) ch = isKeep s ch := rfl
  have hcond : (decide ((setStrip s ch y).sc.state = .run) && decide ((stallCleared y).mode = .hand)) = true ↔
      s.sc.state = .run ∧ y.mode = .hand := by
    rw [hmode, Bool.and_eq_true, decide_eq_true_iff, decide_eq_true_iff]
    rfl
  unfold freeAct
  simp only [strip_setStrip]
  by_cases h : s.sc.state = .run ∧ y.mode = .hand
  · rw [if_pos h, if_pos (hcond.mpr h), hhand, setStrip_twice, hkeep]
    split <;> rfl
  · rw [if_neg h, if_neg (mt hcond.mp h), setStrip_twice]

/-- A TOUCHED arrival on a channel whose touch has become TOUCHED (R72, R108). -/
theorem touchedAct_setStrip (s : State) (ch : Channel) (y : Strip) : touchedAct ch (setStrip s ch y) =
    if s.sc.state = .run ∧ y.mode = .auto then
      setStrip
        { s with fe := { s.fe with
            pool := if isKeep s ch = true then s.fe.pool.filter (fun r => !(r.isLevel && r.channel == ch))
              else s.fe.pool } }
        ch { motorReleased y with mode := .hand, hand := y.measured }
    else setStrip s ch (motorReleased y) := by
  have hmode : (motorReleased y).mode = y.mode := by rw [motorReleased_eq]
  have hmeasured : (motorReleased y).measured = y.measured := by rw [motorReleased_eq]
  have hkeep (z : Strip) : isKeep (setStrip s ch z) ch = isKeep s ch := rfl
  have hcond : (decide ((setStrip s ch y).sc.state = .run) && decide ((motorReleased y).mode = .auto)) = true ↔
      s.sc.state = .run ∧ y.mode = .auto := by
    rw [hmode, Bool.and_eq_true, decide_eq_true_iff, decide_eq_true_iff]
    rfl
  unfold touchedAct
  simp only [strip_setStrip]
  by_cases h : s.sc.state = .run ∧ y.mode = .auto
  · rw [if_pos h, if_pos (hcond.mpr h), hmeasured, setStrip_twice, hkeep]
    split <;> rfl
  · rw [if_neg h, if_neg (mt hcond.mp h), setStrip_twice]

section Touch

variable {ch : Channel}

theorem touchAsserted_of_not_motor (hm : isMotor s ch = false) :
    touchAsserted ch s = setStrip s ch { s.st.strips[ch] with touchInput := true } := if_neg (by
  rw [show isMotor (setTouchInput s ch true) ch = isMotor s ch from rfl, hm]
  simp)

theorem touchAbsent_of_not_motor (hm : isMotor s ch = false) :
    touchAbsent ch s = setStrip s ch { s.st.strips[ch] with touchInput := false } := if_neg (by
  rw [show isMotor (setTouchInput s ch false) ch = isMotor s ch from rfl, hm]
  simp)

/-- On a MOTOR channel the asserted pin acts by the touch (R104). -/
theorem touchAsserted_of_motor (hm : isMotor s ch = true) : touchAsserted ch s =
    setStrip s ch { s.st.strips[ch] with
      touchInput := true
      touch := match s.st.strips[ch].touch with
        | .free => .pending 0
        | .hold _ => .touched
        | .pending held => .pending held
        | .touched => .touched } := by
  unfold touchAsserted
  dsimp only
  rw [show isMotor (setTouchInput s ch true) ch = isMotor s ch from rfl, hm]
  simp only [setTouchInput, strip_setStrip, if_true]
  cases h : s.st.strips[ch].touch <;> simp only [setTouch, strip_setStrip, setStrip_twice, ← h]

theorem touchAbsent_of_pending {held : Micros} (hm : isMotor s ch = true) (hx : s.st.strips[ch].touch = .pending held) :
    touchAbsent ch s = setStrip s ch { s.st.strips[ch] with touchInput := false, touch := .free } := by
  unfold touchAbsent
  dsimp only
  rw [show isMotor (setTouchInput s ch false) ch = isMotor s ch from rfl, hm]
  simp only [setTouchInput, strip_setStrip, if_true, hx, setTouch, setStrip_twice]

theorem touchAbsent_of_touched (hm : isMotor s ch = true) (hx : s.st.strips[ch].touch = .touched) :
    touchAbsent ch s = if touchHold s = 0
      then freeAct ch (setStrip s ch { s.st.strips[ch] with touchInput := false, touch := .free })
      else setStrip s ch { s.st.strips[ch] with touchInput := false, touch := .hold (touchHold s) } := by
  unfold touchAbsent
  dsimp only
  rw [show isMotor (setTouchInput s ch false) ch = isMotor s ch from rfl, hm]
  simp only [setTouchInput, strip_setStrip, if_true, hx, setTouch, setStrip_twice]
  rfl

theorem touchedArrival_of_pending {held : Micros} (hm : isMotor s ch = true) (hx : s.st.strips[ch].touch = .pending held) :
    touchedArrival ch s = touchedAct ch (setStrip s ch { s.st.strips[ch] with touch := .touched }) := by
  simp only [touchedArrival, hx, hm, if_true, setTouch]

theorem freeArrival_of_hold {left : Micros} (hm : isMotor s ch = true) (hx : s.st.strips[ch].touch = .hold left) :
    freeArrival ch s = freeAct ch (setStrip s ch { s.st.strips[ch] with touch := .free }) := by
  simp only [freeArrival, hx, hm, if_true, setTouch]

end Touch

/-- Settles O33, by the pin's change and the touch it meets. -/
theorem touchGivesTheChannelToTheHand : Obligations.TouchGivesTheChannelToTheHand := by
  intro ch s x with' stalled touched free released
  have hfree (pin : Bool) : freeAct ch (setStrip s ch { x with touchInput := pin, touch := .free }) = released pin := by
    rw [freeAct_setStrip, stallCleared_eq]
    rfl
  refine ⟨fun hm => ⟨congrArg Host.Outcome.next (touchAsserted_of_not_motor hm),
    congrArg (fun u => Host.Outcome.next (settle u)) (touchAbsent_of_not_motor hm)⟩, fun hm => ⟨fun hx => ?_,
    fun left hx => ⟨?_, ?_⟩, fun held hx => ⟨?_, fun hs ha => ?_, fun h => ?_⟩, fun hx => ⟨fun hh => ?_, fun hh => ?_⟩⟩⟩
  · refine congrArg Host.Outcome.next ((touchAsserted_of_motor hm).trans ?_)
    rw [hx]
    rfl
  · refine congrArg Host.Outcome.next ((touchAsserted_of_motor hm).trans ?_)
    rw [hx]
    rfl
  · exact congrArg (fun u => Host.Outcome.next (settle u)) ((freeArrival_of_hold hm hx).trans (hfree x.touchInput))
  · exact congrArg (fun u => Host.Outcome.next (settle u)) (touchAbsent_of_pending hm hx)
  · refine congrArg (fun u => Host.Outcome.next (settle u)) ((touchedArrival_of_pending hm hx).trans ?_)
    rw [touchedAct_setStrip, motorReleased_eq]
    exact if_pos ⟨hs, ha⟩
  · refine congrArg (fun u => Host.Outcome.next (settle u)) ((touchedArrival_of_pending hm hx).trans ?_)
    rw [touchedAct_setStrip, motorReleased_eq]
    refine if_neg fun hc => ?_
    rcases h with h | h
    · exact h hc.1
    · exact absurd (hc.2.symm.trans h) (by simp)
  · exact congrArg (fun u => Host.Outcome.next (settle u)) ((touchAbsent_of_touched hm hx).trans (if_neg hh.ne'))
  · exact congrArg (fun u => Host.Outcome.next (settle u))
      ((touchAbsent_of_touched hm hx).trans ((if_pos hh).trans (hfree false)))

/-! ## Rests, stalls and CLEAR MOTOR (R116 to R119, R175) -/

theorem restEnd_of_rest {ch : Channel} {im : ShowImage} (him : s.sm.image = some im) (hs : s.sc.state = .run)
    (hm : isMotor s ch = true) (hx : s.st.strips[ch].motor = .rest) : restEnd ch s = servoAct im.header ch .off s := by
  unfold restEnd
  rw [him, hx]
  exact if_pos (by rw [hs, hm]; rfl)

theorem channelArgument_of_number {arg : Byte} {ch : Channel} (h : arg.toNat = ch.val + 1) :
    channelArgument arg = some ch := by
  rw [channelArgument, h]
  exact toChannel?_channelNumber ch

/-- The servo acts on a motor by its decision, and the stall timer counts (R116, R118). -/
theorem servoAct_eq {h : Header} {ch : Channel} {motor next : Motor} {rest : Nat}
    (hd : servoDecision h motor ((s.fe.levels[ch].val : Int) - s.st.strips[ch].measured.val) = (next, rest)) :
    servoAct h ch motor s = countStall ch { s.st.strips[ch] with motor := next, rest := rest } s := by
  simp only [servoAct, hd]

theorem countStall_of_idle {ch : Channel} {x : Strip} (hb : motorBusy x.motor = false) :
    countStall ch x s = setStrip s ch { x with stall := 0 } := if_neg (by simp [hb])

theorem countStall_of_busy {ch : Channel} {x : Strip} (hb : motorBusy x.motor = true) (hl : x.stall + 1 < stallLimit s) :
    countStall ch x s = setStrip s ch { x with stall := x.stall + 1 } := (if_pos hb).trans (if_pos hl)

theorem countStall_at_limit {ch : Channel} {x : Strip} (hb : motorBusy x.motor = true) (hl : stallLimit s ≤ x.stall + 1) :
    countStall ch x s = post .motorStall (channelNumber ch) x.measured.val
      (setStrip s ch { x with motor := .stalled, rest := 0, stall := stallLimit s }) :=
  (if_pos hb).trans (if_neg (not_lt.mpr hl))

/-- A resting motor beyond the deadband is driven toward the cue level (R116). -/
theorem servoDecision_of_rest {h : Header} {e : Int} (he : h.deadband < e.natAbs) : servoDecision h .off e =
    (if 0 < e then .driveUp (driveDuty h e.natAbs) else .driveDown (driveDuty h e.natAbs), 0) := by
  by_cases hpos : 0 < e
  · rw [if_pos hpos, servoDecision_up he hpos (.inl fun d => by simp)]
  · rw [if_neg hpos, servoDecision_down he (by omega) (.inl fun d => by simp)]

theorem channelArgument_none_of_outside {arg : Byte} (h : arg.toNat = 0 ∨ 16 < arg.toNat) : channelArgument arg = none := by
  rw [channelArgument, toChannel?, dif_neg]
  omega

/-- Settles O36: the servo's action on a resting motor, and each command by its condition. -/
theorem restStallAndClearMotor : Obligations.RestStallAndClearMotor := by
  intro s ch im him x h with' error duty stalled
  have hstalled : post .motorStall (channelNumber ch) x.measured.val
      (setStrip s ch { x with motor := .stalled, rest := 0, stall := stallLimit s }) = stalled := by
    rw [stallLimit_of_image him]
    rfl
  refine ⟨fun hs hm hx => ?_, fun hs hm hx => congrArg Host.Outcome.next ?_, fun hp hs arg => ⟨fun harg hm => ?_, fun harg => ?_⟩⟩
  · have hrest : exec (.restEnd ch) s = .next (servoAct h ch .off s) :=
      congrArg Host.Outcome.next (restEnd_of_rest him hs hm hx)
    have hbusy : motorBusy (if 0 < error then .driveUp duty else .driveDown duty) = true := by
      split <;> rfl
    refine ⟨fun he => ?_, fun he hl => ?_, fun he hl => ?_⟩
    · rw [hrest, servoAct_eq (servoDecision_brake he), countStall_of_idle rfl]
      rfl
    · rw [hrest, servoAct_eq (servoDecision_of_rest he), countStall_of_busy hbusy (by rwa [stallLimit_of_image him])]
      rfl
    · rw [hrest, servoAct_eq (servoDecision_of_rest he), countStall_at_limit hbusy (by rwa [stallLimit_of_image him])]
      exact congrArg Host.Outcome.next hstalled
  · have hbusy : motorBusy s.st.strips[ch].motor = true := by
      rcases hx with hx | ⟨d, hx | hx⟩
      · exact congrArg motorBusy hx
      · exact congrArg motorBusy hx
      · exact congrArg motorBusy hx
    exact (if_pos (by rw [hs, hm, hbusy]; rfl)).trans hstalled
  · refine congrArg Host.Outcome.next ((byStateRow_act hp hs _).trans ?_)
    rw [channelArgument_of_number harg, Option.filter_some_pos hm]
    simp only [stallCleared_eq]
    rfl
  · refine congrArg Host.Outcome.next ((byStateRow_act hp hs _).trans ?_)
    have hnone : (channelArgument arg).filter (isMotor s) = none := by
      rcases harg with h0 | h16 | ⟨hn, hm⟩
      · rw [channelArgument_none_of_outside (.inl h0)]
        rfl
      · rw [channelArgument_none_of_outside (.inr h16)]
        rfl
      · rw [channelArgument_of_number hn, Option.filter_some_neg (by simp [hm])]
    rw [hnone]
    rfl

end Sys2Proof.Machine
end

section
/-!
PROOFS. The keys (chapter 6): the scan of the 33 keys, mute and solo presses, and GO.
-/

namespace Sys2Proof.Machine

variable {s t : State}

/-! ## One key (R105, R106) -/

theorem scanKey_eq (k : Key) (pressed : Bool) : scanKey k pressed =
    if pressed = k.down then { down := k.down, count := 0 }
    else if k.count < 2 then { down := k.down, count := k.count + 1 }
    else { down := pressed, count := 0 } := by
  have hscans : k.count + 1 < Config.keyScans ↔ k.count < 2 := by
    show k.count + 1 < 3 ↔ _
    omega
  simp only [scanKey, hscans]

theorem pressAccepted_iff (k : Key) (pressed : Bool) :
    pressAccepted k pressed = true ↔ k.down = false ∧ pressed = true ∧ 2 ≤ k.count := by
  obtain ⟨down, count⟩ := k
  rw [pressAccepted, scanKey_eq]
  by_cases h : count < 2
  · cases down <;> cases pressed <;> simp [h]
  · cases down <;> cases pressed <;> simp [h, not_lt.mp h]

/-! ## Mute presses (R82, R83) -/

/-- The flag of a mute after the presses of a scan. -/
def mutePressed (s : State) (p : Channel → Bool) (ch : Channel) : Bool :=
  if p ch = true ∧ roleOf s ch ≠ .unused then !s.mr.mute[ch] else s.mr.mute[ch]

theorem muteKeyPress_eq (ch : Channel) (s : State) : muteKeyPress ch s =
    { s with mr := { s.mr with mute := put s.mr.mute ch (mutePressed s (fun _ => true) ch) } } := by
  unfold muteKeyPress mutePressed
  cases h : roleOf s ch with
  | unused =>
    simp only [ne_eq, not_true, and_false, if_false]
    exact (congrArg (fun v => { s with mr := { s.mr with mute := v } }) (put_self s.mr.mute ch)).symm
  | audio members safe => simp [setMute]
  | master g => simp [setMute]

/-- A press on one channel leaves the presses on the others as they are. -/
theorem mutePressed_other {i ch : Channel} (hi : i ≠ ch) (p : Channel → Bool) (s : State) :
    mutePressed (muteKeyPress i s) p ch = mutePressed s p ch := by
  have hmute : (muteKeyPress i s).mr.mute[ch] = s.mr.mute[ch] := by
    rw [muteKeyPress_eq]
    exact put_other _ _ hi
  have hrole : roleOf (muteKeyPress i s) ch = roleOf s ch := by
    rw [muteKeyPress_eq]
    rfl
  rw [mutePressed, mutePressed, hmute, hrole]

/-- The mute presses of a scan, in channel order. -/
theorem mutePresses_eq (p : Channel → Bool) (l : List Channel) (hl : l.Nodup) (s : State) :
    (l.filter p).foldl (fun t ch => muteKeyPress ch t) s = { s with mr := { s.mr with
      mute := tabulate (fun ch => if ch ∈ l then mutePressed s p ch else s.mr.mute[ch]) } } := by
  induction l generalizing s with
  | nil =>
    have hsame : tabulate (fun ch : Channel => s.mr.mute[ch]) = s.mr.mute := by
      ext j hj
      exact getElem_tabulate _ j hj
    simp only [List.filter_nil, List.foldl_nil, List.not_mem_nil, if_false, hsame]
  | cons i rest ih =>
    obtain ⟨hi, hrest⟩ := List.nodup_cons.mp hl
    cases hp : p i with
    | false =>
      have htab : (fun ch => if ch ∈ rest then mutePressed s p ch else s.mr.mute[ch])
          = fun ch => if ch ∈ i :: rest then mutePressed s p ch else s.mr.mute[ch] := by
        funext ch
        by_cases hc : ch = i
        · subst hc
          simp [hi, mutePressed, hp]
        · simp [hc]
      rw [List.filter_cons_of_neg (by simp [hp]), ih hrest, htab]
    | true =>
      rw [List.filter_cons_of_pos hp, List.foldl_cons, ih hrest]
      have htab : tabulate (fun ch => if ch ∈ rest then mutePressed (muteKeyPress i s) p ch
            else (muteKeyPress i s).mr.mute[ch])
          = tabulate (fun ch => if ch ∈ i :: rest then mutePressed s p ch else s.mr.mute[ch]) := by
        congr 1
        funext ch
        by_cases hc : i = ch
        · subst hc
          rw [if_neg hi, if_pos List.mem_cons_self, muteKeyPress_eq]
          refine (put_same _ _ _).trans ?_
          simp [mutePressed, hp]
        · rw [mutePressed_other hc]
          have hmute : (muteKeyPress i s).mr.mute[ch] = s.mr.mute[ch] := by
            rw [muteKeyPress_eq]
            exact put_other _ _ hc
          have hmem : ch ∈ i :: rest ↔ ch ∈ rest := by
            rw [List.mem_cons, or_iff_right (Ne.symm hc)]
          rw [hmute, if_congr hmem rfl rfl]
      rw [htab, muteKeyPress_eq]

/-! ## Solo presses (R85, R86) -/

/-- A solo flag is set. -/
def soloAny (v : Vector Bool 16) : Bool := v.toList.any id

/-- The solo flags once the channels below `n` are done. -/
def soloUpTo (s : State) (p : Channel → Bool) (n : Nat) : Vector Bool 16 :=
  tabulate (fun ch => if ch.val < n ∧ p ch = true ∧ isAudio s ch = true then !s.mr.solo[ch] else s.mr.solo[ch])

theorem soloUpTo_at (s : State) (p : Channel → Bool) (n : Nat) (ch : Channel) : (soloUpTo s p n)[ch] =
    if ch.val < n ∧ p ch = true ∧ isAudio s ch = true then !s.mr.solo[ch] else s.mr.solo[ch] :=
  getElem_tabulate _ ch.val ch.isLt

theorem soloUpTo_zero (s : State) (p : Channel → Bool) : soloUpTo s p 0 = s.mr.solo := by
  ext j hj
  exact (soloUpTo_at s p 0 ⟨j, hj⟩).trans (by simp)

/-- The next channel's press. -/
theorem soloUpTo_succ_of_pressed {p : Channel → Bool} {ch : Channel} (hp : p ch = true) (ha : isAudio s ch = true) :
    soloUpTo s p (ch.val + 1) = put (soloUpTo s p ch.val) ch (!(soloUpTo s p ch.val)[ch]) := by
  ext j hj
  have hsucc := soloUpTo_at s p (ch.val + 1) ⟨j, hj⟩
  by_cases hc : ch.val = j
  · subst hc
    refine hsucc.trans ?_
    rw [getElem_put, if_pos rfl, soloUpTo_at]
    simp [hp, ha]
  · refine hsucc.trans ?_
    rw [getElem_put, if_neg hc]
    refine Eq.trans ?_ (soloUpTo_at s p ch.val ⟨j, hj⟩).symm
    have hlt : j < ch.val + 1 ↔ j < ch.val := by omega
    simp only [hlt]

theorem soloUpTo_succ_of_not_pressed {p : Channel → Bool} {ch : Channel} (h : ¬(p ch = true ∧ isAudio s ch = true)) :
    soloUpTo s p (ch.val + 1) = soloUpTo s p ch.val := by
  ext j hj
  refine (soloUpTo_at s p (ch.val + 1) ⟨j, hj⟩).trans (Eq.trans ?_ (soloUpTo_at s p ch.val ⟨j, hj⟩).symm)
  by_cases hc : ch.val = j
  · subst hc
    rw [if_neg fun hn => h hn.2, if_neg fun hn => h hn.2]
  · have hlt : j < ch.val + 1 ↔ j < ch.val := by omega
    simp only [hlt]

/-- The STATE request once the channels below `n` are done (R86). -/
def soloRequest (s : State) (p : Channel → Bool) (n : Nat) : Bool :=
  s.sc.stateRequest || (List.range n).any (fun m => soloAny (soloUpTo s p m) != soloAny (soloUpTo s p (m + 1)))

theorem soloRequest_succ (s : State) (p : Channel → Bool) (n : Nat) : soloRequest s p (n + 1) =
    (soloRequest s p n || soloAny (soloUpTo s p n) != soloAny (soloUpTo s p (n + 1))) := by
  rw [soloRequest, soloRequest, List.range_succ, List.any_append, List.any_cons, List.any_nil, Bool.or_false,
    Bool.or_assoc]

/-- The state once the solo presses of the channels below `n` have acted. -/
def soloed (s : State) (p : Channel → Bool) (n : Nat) : State :=
  { s with
    mr := { s.mr with solo := soloUpTo s p n }
    sc := { s.sc with stateRequest := soloRequest s p n } }

/-- A solo press on an AUDIO channel (R85, R86). -/
theorem soloKeyPress_of_audio {ch : Channel} (hs : s.sc.state = .run) (ha : isAudio s ch = true) : soloKeyPress ch s =
    { s with
      mr := { s.mr with solo := put s.mr.solo ch (!s.mr.solo[ch]) }
      sc := { s.sc with
        stateRequest := s.sc.stateRequest || soloAny s.mr.solo != soloAny (put s.mr.solo ch (!s.mr.solo[ch])) } } := by
  refine (if_pos ha).trans ?_
  by_cases h : soloAny (put s.mr.solo ch (!s.mr.solo[ch])) = soloAny s.mr.solo
  · refine (if_pos h).trans ?_
    rw [h, bne_self_eq_false, Bool.or_false]
  · refine (if_neg h).trans ((if_pos hs).trans ?_)
    rw [bne_iff_ne.mpr (Ne.symm h), Bool.or_true]

theorem soloKeyPress_of_other {ch : Channel} (ha : isAudio s ch = false) : soloKeyPress ch s = s :=
  if_neg (by simp [ha])

/-- The solo presses of a scan, in channel order. -/
theorem soloPresses_eq (hs : s.sc.state = .run) (p : Channel → Bool) {n : Nat} (hn : n ≤ 16) :
    ((channels.take n).filter p).foldl (fun t ch => soloKeyPress ch t) s = soloed s p n := by
  induction n with
  | zero =>
    have hzero : soloRequest s p 0 = s.sc.stateRequest := Bool.or_false _
    rw [soloed, soloUpTo_zero, hzero]
    rfl
  | succ n ih =>
    have hlast : channels.take (n + 1) = channels.take n ++ [⟨n, hn⟩] := by
      rw [List.take_succ_eq_append_getElem (by simpa [channels] using hn)]
      simp [channels]
    rw [hlast, List.filter_append, List.foldl_append, ih (by omega)]
    have haudio : isAudio (soloed s p n) ⟨n, hn⟩ = isAudio s ⟨n, hn⟩ := rfl
    by_cases hp : p ⟨n, hn⟩ = true ∧ isAudio s ⟨n, hn⟩ = true
    · rw [List.filter_cons_of_pos hp.1, List.filter_nil, List.foldl_cons, List.foldl_nil,
        soloKeyPress_of_audio (s := soloed s p n) hs hp.2]
      have hsucc := soloUpTo_succ_of_pressed (s := s) (p := p) (ch := ⟨n, hn⟩) hp.1 hp.2
      show _ = { s with
        mr := { s.mr with solo := soloUpTo s p (n + 1) }
        sc := { s.sc with stateRequest := soloRequest s p (n + 1) } }
      rw [soloRequest_succ, hsucc]
      rfl
    · have hsucc := soloUpTo_succ_of_not_pressed (s := s) (p := p) (ch := ⟨n, hn⟩) hp
      have hstand : soloed s p (n + 1) = soloed s p n := by
        rw [soloed, soloRequest_succ, hsucc, bne_self_eq_false, Bool.or_false]
        rfl
      rw [hstand]
      by_cases hpn : p ⟨n, hn⟩ = true
      · rw [List.filter_cons_of_pos hpn]
        refine soloKeyPress_of_other (haudio.trans ?_)
        rw [← Bool.not_eq_true]
        exact fun ha => hp ⟨hpn, ha⟩
      · rw [List.filter_cons_of_neg hpn]
        rfl

/-! ## The scan -/

/-- The presses that a scan accepts, key by key. -/
def accepts (keys : Vector Key 16) (bits : BitVec 16) (ch : Channel) : Bool := pressAccepted keys[ch] (bits.getLsbD ch.val)

/-- The state after a scan and its mute and solo presses, before GO acts (log 5). -/
def keysActed (mute solo : BitVec 16) (go : Bool) (s : State) : State :=
  let scanned := { s with st := scanKeys mute solo go s.st }
  if s.sc.state = .run then
    soloed { scanned with mr := { s.mr with
        mute := tabulate (fun ch => mutePressed s (accepts s.st.muteKeys mute) ch) } }
      (accepts s.st.soloKeys solo) 16
  else scanned

theorem keyScan_eq (mute solo : BitVec 16) (go : Bool) (s : State) : keyScan mute solo go s =
    if s.sc.state = .run ∧ pressAccepted s.st.goKey go = true then goKeyPress (keysActed mute solo go s)
    else keysActed mute solo go s := by
  unfold keyScan keysActed
  dsimp only
  by_cases hs : s.sc.state = .run
  · have hmutes := mutePresses_eq (accepts s.st.muteKeys mute) channels (List.nodup_finRange 16)
      { s with st := scanKeys mute solo go s.st }
    have hsolos := soloPresses_eq (s := { s with
      st := scanKeys mute solo go s.st
      mr := { s.mr with mute := tabulate (fun ch => mutePressed s (accepts s.st.muteKeys mute) ch) } })
      hs (accepts s.st.soloKeys solo) (le_refl 16)
    simp only [mem_channels, if_true] at hmutes
    rw [List.take_of_length_le (by simp [channels])] at hsolos
    have hacted := (congrArg (fun u =>
      (channels.filter (accepts s.st.soloKeys solo)).foldl (fun t ch => soloKeyPress ch t) u) hmutes).trans hsolos
    rw [if_pos hs, if_pos hs]
    by_cases hg : pressAccepted s.st.goKey go = true
    · rw [if_pos hg, if_pos ⟨hs, hg⟩]
      exact congrArg goKeyPress hacted
    · rw [if_neg hg, if_neg fun h => hg h.2]
      exact hacted
  · rw [if_neg hs, if_neg hs, if_neg fun h => hs h.1]

/-- The 33 keys after a scan. -/
theorem scanKeys_parts (mute solo : BitVec 16) (go : Bool) (st : StripController) (ch : Channel) :
    (scanKeys mute solo go st).muteKeys[ch] = scanKey st.muteKeys[ch] (mute.getLsbD ch.val)
      ∧ (scanKeys mute solo go st).soloKeys[ch] = scanKey st.soloKeys[ch] (solo.getLsbD ch.val) :=
  ⟨getElem_tabulate _ ch.val ch.isLt, getElem_tabulate _ ch.val ch.isLt⟩

theorem keysActed_of_run (mute solo : BitVec 16) (go : Bool) (hs : s.sc.state = .run) : keysActed mute solo go s =
    { s with
      st := scanKeys mute solo go s.st
      mr := { s.mr with
        mute := tabulate (fun ch => mutePressed s (accepts s.st.muteKeys mute) ch)
        solo := soloUpTo s (accepts s.st.soloKeys solo) 16 }
      sc := { s.sc with stateRequest := soloRequest s (accepts s.st.soloKeys solo) 16 } } := if_pos hs

theorem keysActed_of_not_run (mute solo : BitVec 16) (go : Bool) (hs : s.sc.state ≠ .run) :
    keysActed mute solo go s = { s with st := scanKeys mute solo go s.st } := if_neg hs

/-- The flags of a scan hold the presses of the channels done and the flags before it of the others. -/
theorem tabulate_soloUpTo (s : State) (p : Channel → Bool) (n : Nat) :
    tabulate (fun ch : Channel => if ch.val < n then (soloUpTo s p 16)[ch] else s.mr.solo[ch]) = soloUpTo s p n := by
  ext j hj
  refine (getElem_tabulate _ j hj).trans (Eq.trans ?_ (soloUpTo_at s p n ⟨j, hj⟩).symm)
  by_cases hn : j < n
  · simp only [hn, if_true, soloUpTo_at, hj, true_and]
  · simp only [hn, if_false, false_and]

/-- From channel 16 on no press is left. -/
theorem soloUpTo_of_le (s : State) (p : Channel → Bool) {n : Nat} (hn : 16 ≤ n) : soloUpTo s p n = soloUpTo s p 16 := by
  rw [← tabulate_soloUpTo s p n]
  ext j hj
  refine (getElem_tabulate _ j hj).trans (if_pos ?_)
  show j < n
  omega

theorem soloRequest_iff (s : State) (p : Channel → Bool) : soloRequest s p 16 = true ↔
    s.sc.stateRequest = true ∨ ∃ n, soloAny (soloUpTo s p n) ≠ soloAny (soloUpTo s p (n + 1)) := by
  rw [soloRequest, Bool.or_eq_true, List.any_eq_true]
  refine or_congr_right ⟨fun ⟨n, _, hn⟩ => ⟨n, bne_iff_ne.mp hn⟩, fun ⟨n, hn⟩ => ⟨n, ?_, bne_iff_ne.mpr hn⟩⟩
  rw [List.mem_range]
  by_contra hle
  rw [soloUpTo_of_le s p (by omega : 16 ≤ n), soloUpTo_of_le s p (by omega : 16 ≤ n + 1)] at hn
  exact hn rfl

theorem keysActed_scanned (mute solo : BitVec 16) (go : Bool) (s : State) :
    KeysScanned mute solo go s (keysActed mute solo go s) := by
  unfold KeysScanned
  intro scanned accepted soloed
  have hscanned (k : Key) (pressed : Bool) : scanKey k pressed = scanned k pressed := scanKey_eq k pressed
  have hgo : (scanKeys mute solo go s.st).goKey = scanned s.st.goKey go := hscanned _ _
  by_cases hs : s.sc.state = .run
  · have hacc (k : Key) (pressed : Bool) : pressAccepted k pressed = true ↔ accepted k pressed := by
      rw [pressAccepted_iff]
      exact (and_iff_right hs).symm
    have hsoloed (n : Nat) : stationSolo (soloed n) = soloAny (soloUpTo s (accepts s.st.soloKeys solo) n) := by
      rw [← tabulate_soloUpTo]
      simp only [soloed, keysActed_of_run mute solo go hs]
      rfl
    simp only [hsoloed]
    rw [keysActed_of_run mute solo go hs, ← hgo]
    refine ⟨rfl, fun ch => ?_, soloRequest_iff s _⟩
    obtain ⟨hm, hso⟩ := scanKeys_parts mute solo go s.st ch
    have hmute : (tabulate (fun ch => mutePressed s (accepts s.st.muteKeys mute) ch))[ch] = _ :=
      getElem_tabulate _ ch.val ch.isLt
    have hsolo := soloUpTo_at s (accepts s.st.soloKeys solo) 16 ch
    refine ⟨hm.trans (hscanned _ _), hso.trans (hscanned _ _), fun h => hmute.trans (if_pos ?_),
      fun h => hmute.trans (if_neg ?_), fun h => hsolo.trans (if_pos ?_), fun h => hsolo.trans (if_neg ?_)⟩
    · exact ⟨(hacc _ _).mpr h.1, h.2⟩
    · exact fun hn => h ⟨(hacc _ _).mp hn.1, hn.2⟩
    · exact ⟨ch.isLt, (hacc _ _).mpr h.1, h.2⟩
    · exact fun hn => h ⟨(hacc _ _).mp hn.2.1, hn.2.2⟩
  · have hsoloed (n : Nat) : stationSolo (soloed n) = soloAny s.mr.solo := by
      simp only [soloed, keysActed_of_not_run mute solo go hs, ite_self]
      refine congrArg soloAny (Vector.ext fun j hj => getElem_tabulate _ j hj)
    simp only [hsoloed]
    rw [keysActed_of_not_run mute solo go hs, ← hgo]
    refine ⟨rfl, fun ch => ?_, by simp⟩
    obtain ⟨hm, hso⟩ := scanKeys_parts mute solo go s.st ch
    exact ⟨hm.trans (hscanned _ _), hso.trans (hscanned _ _), fun h => absurd h.1.1 hs, fun _ => rfl,
      fun h => absurd h.1.1 hs, fun _ => rfl⟩

/-- Settles O34. -/
theorem keyScanTogglesMutesAndSolos : Obligations.KeyScanTogglesMutesAndSolos := by
  intro mute solo go s hgo
  have hscan : keyScan mute solo go s = keysActed mute solo go s := by
    rw [keyScan_eq, if_neg]
    rintro ⟨hs, hp⟩
    obtain ⟨hd, hg, hc⟩ := (pressAccepted_iff _ _).mp hp
    rcases hgo with h | h | h | h
    · exact h hs
    · rw [hd] at h
      cases h
    · rw [hg] at h
      cases h
    · omega
  refine ⟨_, congrArg (fun u => Host.Outcome.next (settle u)) hscan, keysActed_scanned mute solo go s, fun h => ?_,
    fun h => ?_⟩
  · by_cases hs : s.sc.state = .run
    · rw [keysActed_of_run mute solo go hs] at h ⊢
      refine (soloRequest_iff s _).mpr (.inr ?_)
      by_contra hn
      push Not at hn
      have hconst (n : Nat) : soloAny (soloUpTo s (accepts s.st.soloKeys solo) n) = soloAny s.mr.solo := by
        induction n with
        | zero => rw [soloUpTo_zero]
        | succ n ih => rw [← hn n, ih]
      exact h (hconst 16)
    · rw [keysActed_of_not_run mute solo go hs] at h
      exact absurd rfl h
  · by_cases hs : s.sc.state = .run
    · rw [keysActed_of_run mute solo go hs] at h ⊢
      have hconst (n : Nat) : soloUpTo s (accepts s.st.soloKeys solo) n = s.mr.solo := by
        rw [← tabulate_soloUpTo, show soloUpTo s (accepts s.st.soloKeys solo) 16 = s.mr.solo from h]
        simp only [ite_self]
        exact Vector.ext fun j hj => getElem_tabulate _ j hj
      show soloRequest s (accepts s.st.soloKeys solo) 16 = _
      simp [soloRequest, hconst]
    · rw [keysActed_of_not_run mute solo go hs]

/-- A request that is offered and refused posts, and one that is taken joins the queue (R36, R37). -/
theorem requestFire_of_duplicate {c : CueNumber} {origin : OriginKind}
    (h : ∃ r ∈ s.cq.outgoing, r.kind = .fire ∧ r.cue = c) : requestFire c origin s = s := by
  rcases offerRequest_cases s .fire c origin with ⟨he, -⟩ | ⟨-, -, hn⟩ | ⟨-, -, hn⟩
  · rw [requestFire, he]
  · obtain ⟨r, hr, hrc⟩ := h
    exact absurd hrc (hn r hr)
  · obtain ⟨r, hr, hrc⟩ := h
    exact absurd hrc (hn r hr)

theorem requestFire_of_room {c : CueNumber} {origin : OriginKind}
    (h : ∀ r ∈ s.cq.outgoing, ¬(r.kind = .fire ∧ r.cue = c)) (hl : s.cq.outgoing.length < 4) :
    requestFire c origin s = { s with cq := { s.cq with
      outgoing := s.cq.outgoing ++ [{ kind := .fire, cue := c, origin := origin, sent := false }] } } := by
  rcases offerRequest_cases s .fire c origin with ⟨-, r, hr, hrc⟩ | ⟨-, hfull, -⟩ | ⟨he, -, -⟩
  · exact absurd hrc (h r hr)
  · omega
  · rw [requestFire, he]

theorem requestFire_of_full {c : CueNumber} {origin : OriginKind}
    (h : ∀ r ∈ s.cq.outgoing, ¬(r.kind = .fire ∧ r.cue = c)) (hl : 4 ≤ s.cq.outgoing.length) :
    requestFire c origin s = post .requestRefused c (ownOrigin s origin) s := by
  rcases offerRequest_cases s .fire c origin with ⟨-, r, hr, hrc⟩ | ⟨he, -, -⟩ | ⟨-, hroom, -⟩
  · exact absurd hrc (h r hr)
  · rw [requestFire, he]
  · omega

theorem not_stopped_of_none (he : s.sp.effective = .none) : stopped s = false := by
  simp [stopped, he]

theorem stopped_of_ne (he : s.sp.effective ≠ .none) : stopped s = true := by
  simp [stopped, he]

/-- GO by the state it meets (R37). -/
theorem goKeyPress_of_stopped (hc : cannotSend s = false) (he : s.sp.effective ≠ .none) :
    goKeyPress s = post .goRefused (cueCode s.cq.standby) (ownOrigin s .key) s := by
  rw [goKeyPress, if_neg (by simp [hc]), if_pos (stopped_of_ne he)]

theorem goKeyPress_of_no_standby (hc : cannotSend s = false) (he : s.sp.effective = .none) (hn : s.cq.standby = none) :
    goKeyPress s = post .endOfList (cueCode s.cq.last) (ownOrigin s .key) s := by
  rw [goKeyPress, if_neg (by simp [hc]), if_neg (by simp [not_stopped_of_none he]), hn]

theorem goKeyPress_of_standby {c : CueNumber} (hc : cannotSend s = false) (he : s.sp.effective = .none)
    (hn : s.cq.standby = some c) : goKeyPress s = requestFire c .key s := by
  rw [goKeyPress, if_neg (by simp [hc]), if_neg (by simp [not_stopped_of_none he]), hn]

/-- Settles O35: GO acts on the state the other keys leave. -/
theorem goKeyRequestsTheStandby : Obligations.GoKeyRequestsTheStandby := by
  intro mute solo s hs hd hc
  have hscan : keyScan mute solo true s = goKeyPress (keysActed mute solo true s) := by
    rw [keyScan_eq, if_pos ⟨hs, (pressAccepted_iff _ _).mpr ⟨hd, rfl, hc⟩⟩]
  have next {u : State} (h : goKeyPress (keysActed mute solo true s) = u) :
      exec (.keyScan mute solo true) s = .next (settle u) :=
    congrArg (fun v => Host.Outcome.next (settle v)) (hscan.trans h)
  obtain ⟨t, ht⟩ : ∃ t, t = keysActed mute solo true s := ⟨_, rfl⟩
  have hrun := keysActed_of_run mute solo true hs
  refine ⟨t, ht ▸ keysActed_scanned mute solo true s, ?_⟩
  rw [← ht] at next hrun
  have hcq : t.cq = s.cq := congrArg (·.cq) hrun
  have hcannot : cannotSend t = cannotSend s := by
    rw [hrun]
    rfl
  have hstop : t.sp.effective = s.sp.effective := by rw [hrun]
  have hnumber : t.sc.number = s.sc.number := by rw [hrun]
  refine ⟨fun h => next (if_pos (hcannot.trans h)), fun h hst => next ?_, fun h hst => ⟨fun hn => next ?_, fun c hsb =>
    ⟨fun hdup => next ?_, fun hnew => ⟨fun hroom => next ?_, fun hfull => next ?_⟩⟩⟩⟩
  · rw [goKeyPress_of_stopped (hcannot.trans h) (hstop ▸ hst), hcq, ownOrigin, hnumber]
    rfl
  · rw [goKeyPress_of_no_standby (hcannot.trans h) (hstop.trans hst) (hcq ▸ hn), hcq, ownOrigin, hnumber]
    rfl
  · rw [goKeyPress_of_standby (hcannot.trans h) (hstop.trans hst) (hcq ▸ hsb)]
    exact requestFire_of_duplicate (hcq ▸ hdup)
  · rw [goKeyPress_of_standby (hcannot.trans h) (hstop.trans hst) (hcq ▸ hsb),
      requestFire_of_room (hcq ▸ hnew) (hcq ▸ hroom), hcq]
  · rw [goKeyPress_of_standby (hcannot.trans h) (hstop.trans hst) (hcq ▸ hsb),
      requestFire_of_full (hcq ▸ hnew) (hcq ▸ hfull), ownOrigin, hnumber]
    rfl

end Sys2Proof.Machine
end

section
/-!
PROOFS. Show stop (chapter 9): the lines, the machines, the ends of STOP frames and STOP RELEASE.
-/

namespace Sys2Proof.Machine

variable {s t : State}

/-! ## The moves of a machine (R160 to R164) -/

/-- The station controller after a STATE request: outside RUN nothing is set (R153). -/
def requested (sc : StationController) : StationController :=
  { sc with stateRequest := sc.stateRequest || sc.state == .run }

theorem requestState_eq (s : State) : requestState s = { s with sc := requested s.sc } := by
  unfold requestState requested
  by_cases h : s.sc.state = .run
  · rw [if_pos h, beq_iff_eq.mpr h, Bool.or_true]
  · rw [if_neg h, beq_eq_false_iff_ne.mpr h, Bool.or_false]

theorem requested_requested (sc : StationController) : requested (requested sc) = requested sc := by
  simp only [requested, Bool.or_assoc, Bool.or_self]

/-- The stop in force once a derived stop is at hand: it rises at once and falls at no event (R169). -/
def raisedBy (s : State) (d : EffectiveStop) : EffectiveStop :=
  if stopRank s.sp.effective < stopRank d then d else s.sp.effective

/-- The state after a move of the machine of kind `k`: the machine, a STATE request, the event queue and the stop in
force. -/
def machineMoved (k : StopKind) (m : StopMachine) (lp : LoadPort) (effective : EffectiveStop) (s : State) : State :=
  { setMachine s k m with
    sc := requested s.sc
    lp := lp
    sp := { (setMachine s k m).sp with effective := effective } }

section Moved

variable {k : StopKind} {m : StopMachine} {lp : LoadPort} {effective : EffectiveStop}

theorem machineOf_machineMoved : machineOf (machineMoved k m lp effective s) k = m := by cases k <;> rfl

theorem machineOf_machineMoved_other {j : StopKind} (h : j ≠ k) :
    machineOf (machineMoved k m lp effective s) j = machineOf s j := by
  cases k <;> cases j <;> first | rfl | exact absurd rfl h

theorem lineOf_machineMoved (j : StopKind) : lineOf (machineMoved k m lp effective s) j = lineOf s j := by
  cases k <;> cases j <;> rfl

theorem canAnnounce_machineMoved : canAnnounce (machineMoved k m lp effective s) = canAnnounce s := by cases k <;> rfl

theorem machineMoved_twice {m' : StopMachine} {lp' : LoadPort} {effective' : EffectiveStop} :
    machineMoved k m' lp' effective' (machineMoved k m lp effective s) = machineMoved k m' lp' effective' s := by
  have hsc : requested (machineMoved k m lp effective s).sc = requested s.sc := requested_requested _
  unfold machineMoved at hsc ⊢
  rw [hsc]
  cases k <;> rfl

/-- What no move of the machine of kind `k` touches. -/
theorem machineMoved_frame : machineMoved k m lp effective s = { s with
    sc := requested s.sc, lp := lp
    sp := { s.sp with
      machineA := (machineMoved k m lp effective s).sp.machineA
      machineB := (machineMoved k m lp effective s).sp.machineB, effective := effective } } := by
  cases k <;> rfl

end Moved

theorem enterClear_eq (k : StopKind) (s : State) : enterClear k s =
    machineMoved k { state := .clear, ack := false } (post .stopChange (kindCode k) 0 s).lp s.sp.effective s := by
  rw [enterClear, requestState_eq]
  cases k <;> rfl

/-- Entry to HELD before the release condition is tested (R164, R169). -/
def heldEntry (k : StopKind) (s : State) : State :=
  machineMoved k { machineOf s k with state := .held } (post .stopChange (kindCode k) 2 s).lp
    (raisedBy s (derivedStop (setMachine s k { machineOf s k with state := .held }))) s

theorem enterHeld_eq (k : StopKind) (s : State) : enterHeld k s = testRelease k (heldEntry k s) := by
  rw [enterHeld, requestState_eq, raiseStop_eq]
  cases k <;> rfl

theorem releaseCondition_heldEntry (k : StopKind) (s : State) : releaseCondition (heldEntry k s) k = releaseCondition s k := by
  cases k <;> rfl

/-- The derived stop reads the machines and the peers alone (R168). -/
theorem derivedStop_heldEntry (k : StopKind) (s : State) :
    derivedStop (heldEntry k s) = derivedStop (setMachine s k { machineOf s k with state := .held }) := by
  cases k <;> rfl

theorem testRelease_of_unmet {k : StopKind} (h : ¬((machineOf s k).state = .held ∧ releaseCondition s k = true)) :
    testRelease k s = s := if_neg (by simpa using h)

theorem testRelease_of_announcer {k : StopKind} (hm : (machineOf s k).state = .held) (hr : releaseCondition s k = true)
    (hc : canAnnounce s = true) : testRelease k s = setMachine s k { state := .releasing, ack := false } := by
  rw [testRelease, if_pos (by simp [hm, hr]), if_pos hc]

theorem testRelease_of_silent {k : StopKind} (hm : (machineOf s k).state = .held) (hr : releaseCondition s k = true)
    (hc : canAnnounce s = false) : testRelease k s = enterClear k s := by
  rw [testRelease, if_pos (by simp [hm, hr]), if_neg (by simp [hc])]

theorem enterHeld_of_unmet {k : StopKind} (h : releaseCondition s k = false) : enterHeld k s = heldEntry k s := by
  rw [enterHeld_eq, testRelease_of_unmet]
  rw [releaseCondition_heldEntry, h]
  simp

theorem heldEntry_held (k : StopKind) (s : State) : machineOf (heldEntry k s) k = { machineOf s k with state := .held } :=
  machineOf_machineMoved

theorem releaseCondition_of_asserted {k : StopKind} (h : (lineOf s k).asserted = true) : releaseCondition s k = false := by
  simp [releaseCondition, h]

/-! ## The ends of own STOP frames (R161 to R163, R167) -/

theorem frameEnd_assert {k : StopKind} (completed : Bool) (hm : (machineOf s k).state = .announcing) :
    frameEnd completed (.stop false k s.sc.number) s = enterHeld k s := by
  simp only [frameEnd, stopFrameEnd, if_true, hm]

theorem frameEnd_release {k : StopKind} (completed : Bool) (hm : (machineOf s k).state = .releasing) :
    frameEnd completed (.stop true k s.sc.number) s =
      if (lineOf (enterClear k s) k).asserted then assertFromClear k (enterClear k s) else enterClear k s := by
  simp only [frameEnd, stopFrameEnd, if_true, hm]

theorem withStop_false (e : PeerEntry) (k : StopKind) : e.withStop k false =
    { e with stopA := if k = .a then false else e.stopA, stopB := if k = .b then false else e.stopB } :=
  withStop_eq e k false

/-- Settles O50, by the frame's sort and what then meets the machine. -/
theorem stopFramesMoveTheMachines : Obligations.StopFramesMoveTheMachines := by
  intro s completed k m cleared held raised others
  have hothers {m : StopMachine} {lp : LoadPort} {effective : EffectiveStop} : others (machineMoved k m lp effective s) :=
    ⟨fun j => ⟨lineOf_machineMoved j, machineOf_machineMoved_other⟩, rfl, machineMoved_frame⟩
  refine ⟨fun t ht hm => ?_, fun t ht hm => ?_, fun p ho hp => ?_⟩
  · rw [frameEnd_assert completed hm] at ht
    subst ht
    cases hr : releaseCondition s k with
    | false =>
      rw [enterHeld_of_unmet hr]
      exact ⟨hothers, rfl, fun _ => ⟨machineOf_machineMoved, rfl⟩, fun h => (by cases h), fun h => (by cases h)⟩
    | true =>
      have hstate : (machineOf (heldEntry k s) k).state = .held := by rw [heldEntry_held]
      have hcond := (releaseCondition_heldEntry k s).trans hr
      have hann : canAnnounce (heldEntry k s) = canAnnounce s := canAnnounce_machineMoved
      rw [enterHeld_eq]
      cases hc : canAnnounce s with
      | true =>
        rw [testRelease_of_announcer hstate hcond (hann.trans hc)]
        have hmoved : setMachine (heldEntry k s) k { state := .releasing, ack := false } =
            machineMoved k { state := .releasing, ack := false } held.lp (heldEntry k s).sp.effective s := by
          cases k <;> rfl
        rw [hmoved]
        exact ⟨hothers, rfl, fun h => (by cases h), fun _ _ => ⟨machineOf_machineMoved, rfl⟩, fun _ h => (by cases h)⟩
      | false =>
        rw [testRelease_of_silent hstate hcond (hann.trans hc), enterClear_eq]
        have hlp : (post .stopChange (kindCode k) 0 (heldEntry k s)).lp = (post .stopChange (kindCode k) 0 held).lp :=
          post_lp_of_stamp _ _ _ rfl rfl (by cases k <;> rfl)
        rw [hlp, heldEntry, machineMoved_twice]
        exact ⟨hothers, rfl, fun h => (by cases h), fun _ h => (by cases h), fun _ _ => ⟨machineOf_machineMoved, rfl⟩⟩
  · rw [frameEnd_release completed hm, enterClear_eq] at ht
    subst ht
    rw [lineOf_machineMoved]
    cases hl : (lineOf s k).asserted with
    | false =>
      exact ⟨hothers, fun _ => ⟨machineOf_machineMoved, rfl, rfl⟩, fun h => (by cases h)⟩
    | true =>
      rw [if_pos rfl]
      cases hc : canAnnounce s with
      | true =>
        rw [assertFromClear, if_pos (canAnnounce_machineMoved.trans hc), machineOf_machineMoved]
        have hmoved (lp : LoadPort) : setMachine (machineMoved k { state := .clear, ack := false } lp s.sp.effective s) k
            { state := .announcing, ack := false } =
              machineMoved k { state := .announcing, ack := false } lp s.sp.effective s := by
          cases k <;> rfl
        rw [hmoved]
        exact ⟨hothers, fun _ => ⟨machineOf_machineMoved, rfl, rfl⟩, fun _ h => (by cases h)⟩
      | false =>
        have hline : (lineOf (machineMoved k { state := .clear, ack := false } cleared.lp s.sp.effective s) k).asserted = true :=
          (congrArg (·.asserted) (lineOf_machineMoved k)).trans hl
        have hne : ¬canAnnounce (machineMoved k { state := .clear, ack := false } cleared.lp s.sp.effective s) = true := by
          rw [canAnnounce_machineMoved, hc]
          simp
        rw [assertFromClear, if_neg hne, enterHeld_of_unmet (releaseCondition_of_asserted hline)]
        have hlp : (post .stopChange (kindCode k) 2
            (machineMoved k { state := .clear, ack := false } cleared.lp s.sp.effective s)).lp
              = (post .stopChange (kindCode k) 2 cleared).lp :=
          post_lp_of_stamp _ _ _ rfl rfl (by cases k <;> rfl)
        have heff : raisedBy (machineMoved k { state := .clear, ack := false } cleared.lp s.sp.effective s)
              (derivedStop (heldEntry k (machineMoved k { state := .clear, ack := false } cleared.lp s.sp.effective s)))
            = raised (heldEntry k (machineMoved k { state := .clear, ack := false } cleared.lp s.sp.effective s)) := by
          cases k <;> rfl
        rw [derivedStop_heldEntry] at heff
        refine ⟨?_, fun h => ?_, fun _ _ => ⟨?_, hlp, heff⟩⟩
        · rw [heldEntry, machineMoved_twice]
          exact hothers
        · rcases h with h | h <;> cases h
        · rw [heldEntry_held, machineOf_machineMoved]
  · have hneq : ¬p.succ = s.sc.number := hp
    simp only [frameEnd, stopFrameEnd, if_neg hneq, ho, clearOrphanFlag, withStop_false]
    split <;> rfl

/-! ## The stop lines (R159, R160, R163) -/

section Lines

variable {k : StopKind} {l : StopLine}

theorem canAnnounce_setLine : canAnnounce (setLine s k l) = canAnnounce s := by cases k <;> rfl

/-- A line that becomes asserted (R159). -/
theorem lineAssertion_eq (hr : (lineOf s k).raw = true) (ha : (lineOf s k).asserted = false) : lineAssertion k s =
    if s.sm.image.isSome = true then takeAssertion k (setLine s k { lineOf s k with asserted := true, timer := none })
    else setLine s k { lineOf s k with asserted := true, timer := none } := by
  rw [← setLine_sm s k { lineOf s k with asserted := true, timer := none }]
  exact if_pos (by rw [hr, ha]; rfl)

theorem lineRelease_eq (hr : (lineOf s k).raw = false) (ha : (lineOf s k).asserted = true) : lineRelease k s =
    if s.sm.image.isSome = true then testRelease k (setLine s k { lineOf s k with asserted := false, timer := none })
    else setLine s k { lineOf s k with asserted := false, timer := none } := by
  rw [← setLine_sm s k { lineOf s k with asserted := false, timer := none }]
  exact if_pos (by rw [hr, ha]; rfl)

/-- What an assertion does by the machine it meets (R160 to R163). -/
theorem takeAssertion_stands (h : (machineOf s k).state = .announcing ∨ (machineOf s k).state = .held
    ∨ ((machineOf s k).state = .releasing ∧ releaseInFlight s k = true)) : takeAssertion k s = s := by
  unfold takeAssertion
  rcases h with h | h | ⟨h, hf⟩
  · simp only [h]
  · simp only [h]
  · simp only [h, hf, if_true]

theorem takeAssertion_of_clear (h : (machineOf s k).state = .clear) : takeAssertion k s = assertFromClear k s := by
  simp only [takeAssertion, h]

theorem takeAssertion_of_releasing (h : (machineOf s k).state = .releasing) (hf : releaseInFlight s k = false) :
    takeAssertion k s = enterHeld k (withdrawStop (.stop true k s.sc.number) s) := by
  simp only [takeAssertion, h, hf, Bool.false_eq_true, if_false]

theorem releaseInFlight_iff : releaseInFlight s k = true ↔
    ∃ f, s.bc.stopFlight = some f ∧ f.payload = .stop true k s.sc.number := by
  rw [releaseInFlight]
  cases s.bc.stopFlight <;> simp

/-- The bus after a withdrawal (R131, log 15). -/
def busWithdrawn (p : Payload) (s : State) : BusController :=
  if inArbitration s p = true then { s.bc with phase := .receiving, sending := none } else s.bc

theorem withdrawStop_eq (p : Payload) (s : State) : withdrawStop p s = { s with bc := busWithdrawn p s } := by
  unfold withdrawStop busWithdrawn
  split <;> rfl

theorem inArbitration_iff (s : State) (p : Payload) : inArbitration s p = true ↔
    s.bc.sending = some { payload := p, won := false } := beq_iff_eq

/-- A machine that is held at the assertion of its line, on a bus that an owner may have left (R163, R164, R169). -/
theorem heldEntry_at_line (k : StopKind) (l : StopLine) (bc : BusController) (s : State) :
    ∃ t, t = heldEntry k { setLine s k l with bc := bc }
      ∧ machineOf t k = { machineOf s k with state := .held }
      ∧ (∀ j, j ≠ k → machineOf t j = machineOf s j ∧ lineOf t j = lineOf s j)
      ∧ lineOf t k = l
      ∧ t.lp = (post .stopChange (kindCode k) 2 s).lp
      ∧ t.sc = requested s.sc
      ∧ t.sp.effective = raisedBy s (derivedStop t)
      ∧ t = { s with bc := bc, sc := t.sc, lp := t.lp, sp := t.sp } := by
  have hlp : (post .stopChange (kindCode k) 2 { setLine s k l with bc := bc }).lp
      = (post .stopChange (kindCode k) 2 s).lp := by cases k <;> rfl
  have heff : (heldEntry k { setLine s k l with bc := bc }).sp.effective
      = raisedBy s (derivedStop (heldEntry k { setLine s k l with bc := bc })) := by
    rw [derivedStop_heldEntry]
    cases k <;> rfl
  refine ⟨_, rfl, (heldEntry_held k _).trans ?_, fun j hj => ?_, ?_, hlp, ?_, heff, ?_⟩
  · cases k <;> rfl
  · cases k <;> cases j <;> first | exact ⟨rfl, rfl⟩ | exact absurd rfl hj
  · cases k <;> rfl
  · cases k <;> rfl
  · cases k <;> rfl

end Lines

/-- Settles O49, by the line's change and the machine it meets. -/
theorem stopLinesReachTheirMachines : Obligations.StopLinesReachTheirMachines := by
  intro s k l m
  refine ⟨fun b => congrArg Host.Outcome.next rfl, fun hr ha => ?_, fun hr ha => ?_⟩
  · intro asserted
    have next {u : State} (h : lineAssertion k s = u) : exec (.lineAssertion k) s = .next (settle u) :=
      congrArg (fun v => Host.Outcome.next (settle v)) h
    have hm : machineOf asserted k = m := machineOf_setLine s k k _
    have hline : (lineOf asserted k).asserted = true := by
      rw [lineOf_setLine, if_pos rfl]
    have hflight : releaseInFlight asserted k = releaseInFlight s k := by
      rw [releaseInFlight, setLine_bc, setLine_sc, releaseInFlight]
    have hann : canAnnounce asserted = canAnnounce s := canAnnounce_setLine
    have hvalid (hi : s.sm.image ≠ none) : lineAssertion k s = takeAssertion k asserted :=
      (lineAssertion_eq hr ha).trans (if_pos (Option.isSome_iff_ne_none.mpr hi))
    refine ⟨fun h => next ?_, fun hi hc hcan => next ?_, fun hi h => ?_⟩
    · by_cases hi : s.sm.image = none
      · exact (lineAssertion_eq hr ha).trans (if_neg (by simp [hi]))
      · rw [hvalid hi]
        refine takeAssertion_stands ?_
        rw [hm, hflight, releaseInFlight_iff]
        exact h.resolve_left hi
    · rw [hvalid hi, takeAssertion_of_clear (hm ▸ hc), assertFromClear, if_pos (hann.trans hcan), hm]
    · have hheld : lineAssertion k s = heldEntry k { asserted with
          bc := if m.state = .clear then s.bc else busWithdrawn (.stop true k s.sc.number) s } := by
        rw [hvalid hi]
        rcases h with ⟨hc, hcan⟩ | ⟨hc, hf⟩
        · rw [takeAssertion_of_clear (hm ▸ hc), assertFromClear, if_neg (by simp [hann, hcan]),
            enterHeld_of_unmet (releaseCondition_of_asserted hline), if_pos hc, ← setLine_bc s k]
        · have hnot : releaseInFlight asserted k = false := by
            rw [hflight, ← Bool.not_eq_true, releaseInFlight_iff]
            rintro ⟨f, hs, hp⟩
            exact hf f hs hp
          have hbus : busWithdrawn (.stop true k asserted.sc.number) asserted = busWithdrawn (.stop true k s.sc.number) s := by
            rw [setLine_sc]
            exact if_congr (by rw [inArbitration, setLine_bc, inArbitration]) (by rw [setLine_bc]) (setLine_bc s k _)
          rw [takeAssertion_of_releasing (hm ▸ hc) hnot, withdrawStop_eq, hbus, if_neg (by simp [hc])]
          exact enterHeld_of_unmet (releaseCondition_of_asserted hline)
      obtain ⟨t, ht, hmachine, hother, hl, hlp, hsc, heff, hframe⟩ := heldEntry_at_line k
        { l with asserted := true, timer := none }
        (if m.state = .clear then s.bc else busWithdrawn (.stop true k s.sc.number) s) s
      have hbc : t.bc = if m.state = .clear then s.bc else busWithdrawn (.stop true k s.sc.number) s := congrArg (·.bc) hframe
      refine ⟨t, next (hheld.trans ht.symm), hmachine, hother, hl, hlp, hsc, heff, ?_, fun hsend hrel => ?_, fun hn => ?_⟩
      · rw [← hbc] at hframe
        exact hframe
      · rw [hbc, if_neg (by simp [hrel]), busWithdrawn, if_pos ((inArbitration_iff _ _).mpr hsend)]
      · rw [hbc]
        rcases hn with hn | hn
        · rw [busWithdrawn, if_neg (mt (inArbitration_iff _ _).mp hn), ite_self]
        · rw [if_pos hn]
  · intro released meets
    have next {u : State} (h : lineRelease k s = u) : exec (.lineRelease k) s = .next (settle u) :=
      congrArg (fun v => Host.Outcome.next (settle v)) h
    have hm : machineOf released k = m := machineOf_setLine s k k _
    have hann : canAnnounce released = canAnnounce s := canAnnounce_setLine
    have hmeets : (machineOf released k).state = .held ∧ releaseCondition released k = true ↔ meets := by
      have hline : (lineOf released k).asserted = false := by
        rw [lineOf_setLine, if_pos rfl]
      have hmode : stopModeOf released k = stopModeOf s k := by
        cases k <;> rfl
      simp only [releaseCondition, hline, hmode, hm, Bool.not_false, Bool.true_and, Bool.or_eq_true, beq_iff_eq, meets]
    have hvalid (hi : s.sm.image ≠ none) : lineRelease k s = testRelease k released :=
      (lineRelease_eq hr ha).trans (if_pos (Option.isSome_iff_ne_none.mpr hi))
    refine ⟨fun h => next ?_, fun hi h hcan => next ?_, fun hi h hcan => ?_⟩
    · by_cases hi : s.sm.image = none
      · exact (lineRelease_eq hr ha).trans (if_neg (by simp [hi]))
      · exact (hvalid hi).trans (testRelease_of_unmet (mt hmeets.mp (h.resolve_left hi)))
    · obtain ⟨hstate, hcond⟩ := hmeets.mpr h
      exact (hvalid hi).trans (testRelease_of_announcer hstate hcond (hann.trans hcan))
    · obtain ⟨hstate, hcond⟩ := hmeets.mpr h
      have hclear := (hvalid hi).trans (testRelease_of_silent hstate hcond (hann.trans hcan))
      rw [enterClear_eq] at hclear
      refine ⟨_, next hclear, machineOf_machineMoved, fun j hj => ⟨?_, ?_⟩, ?_, ?_, ?_, ?_, ?_⟩
      · rw [machineOf_machineMoved_other hj, machineOf_setLine]
      · rw [lineOf_machineMoved, lineOf_setLine, if_neg hj.symm]
      · rw [lineOf_machineMoved, lineOf_setLine, if_pos rfl]
      · cases k <;> rfl
      · cases k <;> rfl
      · cases k <;> rfl
      · cases k <;> rfl

/-! ## STOP RELEASE (R165, R166) -/

section Release

variable {k : StopKind} {p : Peer}

theorem kindArgument_of_le {b : Byte} (h : b.toNat ≤ 1) : kindArgument b = some (if b.toNat = 0 then .a else .b) := by
  rw [kindArgument]
  obtain h | h : b.toNat = 0 ∨ b.toNat = 1 := by omega
  · simp only [h, if_true]
  · simp only [h, one_ne_zero, if_false]

theorem kindArgument_of_gt {b : Byte} (h : 1 < b.toNat) : kindArgument b = none := by
  obtain ⟨n, hn⟩ : ∃ n, b.toNat = n + 2 := ⟨b.toNat - 2, by omega⟩
  simp only [kindArgument, hn]

theorem toPeer?_of_outside {n : Nat} (h : n = 0 ∨ 31 < n) : toPeer? n = none := dif_neg (by omega)

theorem portAcknowledge_of_wrong (h : stopModeOf s k = .follow ∨ (machineOf s k).state = .clear
    ∨ (machineOf s k).state = .releasing) : portAcknowledge k s = answerOnly .wrongState s := by
  rw [portAcknowledge]
  by_cases hf : stopModeOf s k = .follow
  · exact if_pos hf
  · rcases h.resolve_left hf with h | h <;> simp only [if_neg hf, h]

theorem portAcknowledge_of_latched (hl : stopModeOf s k = .latched)
    (h : (machineOf s k).state = .announcing ∨ (machineOf s k).state = .held) :
    portAcknowledge k s = answerOnly .ok (acknowledge k s) := by
  rw [portAcknowledge, if_neg (by simp [hl])]
  rcases h with h | h <;> simp only [h]

/-- The acknowledged machine's release condition is the line's alone (R162, R165). -/
theorem releaseCondition_acknowledged : releaseCondition (setMachine s k { machineOf s k with ack := true }) k =
    !(lineOf s k).asserted := by
  cases k <;> simp [releaseCondition, machineOf, setMachine, lineOf]

theorem canAnnounce_setMachine {m : StopMachine} : canAnnounce (setMachine s k m) = canAnnounce s := by cases k <;> rfl

theorem acknowledge_of_unmet (h : (machineOf s k).state = .announcing
    ∨ ((machineOf s k).state = .held ∧ (lineOf s k).asserted = true)) :
    acknowledge k s = setMachine s k { machineOf s k with ack := true } := by
  refine testRelease_of_unmet ?_
  rw [machineOf_setMachine, if_pos rfl, releaseCondition_acknowledged]
  rcases h with h | ⟨-, h⟩ <;> simp [h]

/-- The machine an acknowledgement finds HELD with its line released meets its release condition (R162). -/
theorem acknowledged_meets (hm : (machineOf s k).state = .held) (hl : (lineOf s k).asserted = false) :
    (machineOf (setMachine s k { machineOf s k with ack := true }) k).state = .held
      ∧ releaseCondition (setMachine s k { machineOf s k with ack := true }) k = true := by
  rw [releaseCondition_acknowledged, hl, machineOf_setMachine, if_pos rfl]
  exact ⟨hm, rfl⟩

theorem acknowledge_of_announcer (hm : (machineOf s k).state = .held) (hl : (lineOf s k).asserted = false)
    (hc : canAnnounce s = true) : acknowledge k s = setMachine s k { state := .releasing, ack := false } := by
  obtain ⟨hstate, hcond⟩ := acknowledged_meets hm hl
  rw [acknowledge, testRelease_of_announcer hstate hcond (canAnnounce_setMachine.trans hc)]
  cases k <;> rfl

theorem acknowledge_of_silent (hm : (machineOf s k).state = .held) (hl : (lineOf s k).asserted = false)
    (hc : canAnnounce s = false) : acknowledge k s = enterClear k s := by
  obtain ⟨hstate, hcond⟩ := acknowledged_meets hm hl
  rw [acknowledge, testRelease_of_silent hstate hcond (canAnnounce_setMachine.trans hc)]
  cases k <;> rfl

theorem portOrphan_of_bad (h : s.sc.peers[p].presence ≠ .lost ∨ s.sc.peers[p].stop k = false) :
    portOrphan k p s = answerOnly .badArgument s := by
  refine if_pos ?_
  rw [Bool.not_eq_true', Bool.and_eq_false_iff, beq_eq_false_iff_ne]
  exact h

theorem portOrphan_of_same (hp : s.sc.peers[p].presence = .lost) (hs : s.sc.peers[p].stop k = true)
    (ho : s.sp.orphan = some (k, p)) : portOrphan k p s = answerOnly .ok s := by
  rw [portOrphan, hp, hs, ho]
  exact if_pos rfl

theorem portOrphan_of_other {o : StopKind × Peer} (hp : s.sc.peers[p].presence = .lost) (hs : s.sc.peers[p].stop k = true)
    (ho : s.sp.orphan = some o) (hne : o ≠ (k, p)) : portOrphan k p s = answerOnly .full s := by
  rw [portOrphan, hp, hs, ho]
  exact if_neg hne

theorem portOrphan_of_free (hp : s.sc.peers[p].presence = .lost) (hs : s.sc.peers[p].stop k = true)
    (ho : s.sp.orphan = none) : portOrphan k p s =
      if canAnnounce s then answerOnly .ok { s with sp := { s.sp with orphan := some (k, p) } }
      else answerOnly .ok (setPeer s p (s.sc.peers[p].withStop k false)) := by
  rw [portOrphan, clearOrphanFlag, if_pos hp, hp, hs, ho]
  rfl

/-- STOP RELEASE of a kind, once the state row lets it act (R165, R166). -/
theorem portStopRelease_of_kind {kind target : Byte} (hp : s.lp.port = .reading)
    (hs : s.sc.state = .listen ∨ s.sc.state = .catchup ∨ s.sc.state = .run) (hk : kindArgument kind = some k) :
    portStopRelease kind target s =
      if target.toNat = s.sc.number.val then portAcknowledge k s
      else match toPeer? target.toNat with
        | some p => portOrphan k p s
        | none => answerOnly .badArgument s := by
  rw [portStopRelease, byStateRow_act hp hs, hk] <;> rfl

theorem portStopRelease_own {kind target : Byte} (hp : s.lp.port = .reading)
    (hs : s.sc.state = .listen ∨ s.sc.state = .catchup ∨ s.sc.state = .run) (hk : kindArgument kind = some k)
    (ht : target.toNat = s.sc.number.val) : portStopRelease kind target s = portAcknowledge k s :=
  (portStopRelease_of_kind hp hs hk).trans (if_pos ht)

theorem portStopRelease_peer {kind target : Byte} (hp : s.lp.port = .reading)
    (hs : s.sc.state = .listen ∨ s.sc.state = .catchup ∨ s.sc.state = .run) (hk : kindArgument kind = some k)
    (ht : target.toNat = peerNumber p) (hne : peerNumber p ≠ s.sc.number.val) :
    portStopRelease kind target s = portOrphan k p s := by
  refine (portStopRelease_of_kind hp hs hk).trans ((if_neg (ht ▸ hne)).trans ?_)
  rw [ht, toPeer?_peerNumber]

theorem portStopRelease_nobody {kind target : Byte} (hp : s.lp.port = .reading)
    (hs : s.sc.state = .listen ∨ s.sc.state = .catchup ∨ s.sc.state = .run) (hk : kindArgument kind = some k)
    (hne : target.toNat ≠ s.sc.number.val) (ht : target.toNat = 0 ∨ 31 < target.toNat) :
    portStopRelease kind target s = answerOnly .badArgument s := by
  refine (portStopRelease_of_kind hp hs hk).trans ((if_neg hne).trans ?_)
  rw [toPeer?_of_outside ht]

end Release

/-- Settles O51, by the rows in their order. -/
theorem stopReleaseAnswersByItsRows : Obligations.StopReleaseAnswersByItsRows := by
  intro kind target s answered returns hp
  have next {u : State} (h : portStopRelease kind target s = u) :
      exec (.stopRelease kind target) s = .next (settle u) := congrArg (fun v => Host.Outcome.next (settle v)) h
  have hrow {r : PortResult} (hr : stateRow .act s.sc.state = some r) : returns r := next (byStateRow_answer hp hr _)
  refine ⟨fun hs => hrow (by rw [hs]; rfl), fun hs => hrow ?_, fun hs => ⟨fun hkind => next ?_, fun hkind => ?_⟩⟩
  · rcases hs with hs | hs <;> rw [hs] <;> rfl
  · rw [portStopRelease, byStateRow_act hp hs, kindArgument_of_gt hkind]
    rfl
  intro k m
  have hk : kindArgument kind = some k := kindArgument_of_le hkind
  refine ⟨fun ht => ?_, fun hne ht => next (portStopRelease_nobody hp hs hk hne ht), fun p ht hne => ?_⟩
  · have hown := portStopRelease_own hp hs hk ht
    refine ⟨fun h => next (hown.trans (portAcknowledge_of_wrong h)), fun hl => ?_⟩
    have hack (h : m.state = .announcing ∨ m.state = .held) : portStopRelease kind target s =
        answerOnly .ok (acknowledge k s) := hown.trans (portAcknowledge_of_latched hl h)
    refine ⟨fun h => next ?_, fun hm hline hc => next ?_, fun hm hline hc => next ?_⟩
    · rw [hack (h.imp_right And.left), acknowledge_of_unmet h]
      rfl
    · rw [hack (.inr hm), acknowledge_of_announcer hm hline hc]
      rfl
    · rw [hack (.inr hm), acknowledge_of_silent hm hline hc, enterClear_eq]
      cases k <;> rfl
  · have hpeer := portStopRelease_peer hp hs hk ht hne
    refine ⟨fun h => next (hpeer.trans (portOrphan_of_bad h)), fun hlost hstop => ⟨fun ho => ?_, fun o ho hne => ?_, ?_⟩⟩
    · exact next (hpeer.trans (portOrphan_of_same hlost hstop ho))
    · exact next (hpeer.trans (portOrphan_of_other hlost hstop ho hne))
    · intro ho cleared
      have hfree := hpeer.trans (portOrphan_of_free hlost hstop ho)
      refine ⟨fun hc => next (hfree.trans (if_pos hc)), fun hc => next ((hfree.trans (if_neg (by simp [hc]))).trans ?_)⟩
      rw [withStop_false]
      rfl

end Sys2Proof.Machine
end

section
/-!
PROOFS. The load port and the event queue (chapter 10): the records of events and their reads, the layouts of the four
reads, and the commands by their bytes and by the state rows.
-/

namespace Sys2Proof.Machine

variable {s t : State}

/-! ## Bytes (R179) -/

theorem byte1_toNat (n : Nat) : (byte1 n).toNat = n % 256 := BitVec.toNat_ofNat n 8

theorem bytes2_toNat (n : Nat) : (bytes2 n).map BitVec.toNat = [n / 256 % 256, n % 256] := by
  simp only [bytes2, List.map_cons, List.map_nil, byte1_toNat]

theorem bytes3_toNat (n : Nat) : (bytes3 n).map BitVec.toNat = [n / 65536 % 256, n / 256 % 256, n % 256] := by
  simp only [bytes3, List.map_cons, List.map_nil, byte1_toNat]

/-! ## The event queue (R176 to R178, R183) -/

/-- A full queue loses its oldest record and marks the one then oldest (R176). -/
theorem appendRecord_of_full {lost oldest : EventRecord} {rest : List EventRecord} (r : EventRecord)
    (h : (lost :: oldest :: rest).length = 64) :
    appendRecord (lost :: oldest :: rest) r = { oldest with gap := true } :: rest ++ [r] :=
  if_neg (by rw [h]; decide)

theorem eventCode_lt (k : EventKind) : eventCode k < 128 := by cases k <;> decide

/-- An event record in its 8 bytes, its two arguments 20 bits each (R183). -/
theorem recordBytes_toNat {r : EventRecord} (hs : r.stamp < 65536) (h1 : r.first < 1048576) (h2 : r.second < 1048576) :
    (recordBytes r).map BitVec.toNat = [(if r.gap = true then 128 else 0) + eventCode r.kind,
      r.stamp / 256, r.stamp % 256, r.first / 4096, r.first / 16 % 256,
      r.first % 16 * 16 + r.second / 65536, r.second / 256 % 256, r.second % 256] := by
  have hk := eventCode_lt r.kind
  have hgap : (if r.gap = true then 128 else 0) ≤ 128 := by split <;> omega
  simp only [recordBytes, List.map_append, bytes2_toNat, List.map_cons, List.map_nil, byte1_toNat, List.cons_append,
    List.nil_append, List.cons.injEq, and_true, true_and]
  refine ⟨?_, ?_, ?_, ?_⟩ <;> omega

theorem countArgument_of_number {b : Byte} (h1 : 1 ≤ b.toNat) (h2 : b.toNat ≤ 64) : countArgument b = some b.toNat :=
  if_pos (by simp [h1, h2])

theorem countArgument_of_outside {b : Byte} (h : b.toNat = 0 ∨ 64 < b.toNat) : countArgument b = none :=
  if_neg (by simp; omega)

theorem byStateRow_readAny (hp : s.lp.port = .reading) (own : State) : byStateRow .readAny s own = own :=
  byStateRow_own hp rfl own

theorem attnCondition_iff : attnCondition s = true ↔
    eventThreshold s ≤ s.lp.queue.length ∨ (s.lp.queue ≠ [] ∧ s.lp.stale = .expired) := by
  simp [attnCondition]

theorem recordsLost_of_empty (h : s.lp.queue = []) : recordsLost s = { s with lp := { s.lp with gapPending := true } } :=
  if_pos (by rw [h]; rfl)

theorem recordsLost_of_oldest {oldest : EventRecord} {rest : List EventRecord} (h : s.lp.queue = oldest :: rest) :
    recordsLost s = { s with lp := { s.lp with queue := { oldest with gap := true } :: rest } } := by
  rw [recordsLost, h]
  rfl

/-- The end of a transaction that read `k` records (R171, R177). -/
theorem chipSelectHigh_of_ok {clocked k : Nat} {data : List Byte} (h : s.lp.port = .answered .ok data k) :
    chipSelectHigh clocked s = if 0 < k ∧ clocked < 2 + 8 * k then recordsLost { s with lp := { s.lp with port := .idle } }
      else { s with lp := { s.lp with port := .idle } } := by
  cases k with
  | zero => simp [chipSelectHigh, h]
  | succ k =>
    simp only [chipSelectHigh, h, recordsEnd, Nat.succ_pos, true_and]
    rfl

theorem chipSelectHigh_of_idle {clocked : Nat} (h : s.lp.port = .idle ∨ s.lp.port = .reading
    ∨ ∃ result data k, result ≠ PortResult.ok ∧ s.lp.port = .answered result data k) :
    chipSelectHigh clocked s = { s with lp := { s.lp with port := .idle } } := by
  rcases h with h | h | ⟨result, data, k, hr, h⟩
  · simp only [chipSelectHigh, h]
  · simp only [chipSelectHigh, h]
  · cases result <;> simp [chipSelectHigh, h] at hr ⊢

/-- Settles O54, by what each operation on the queue does to it. -/
theorem eventsAreQueuedAndRead : Obligations.EventsAreQueuedAndRead := by
  refine ⟨fun kind first second s => ?_, fun s => attnCondition_iff, fun s arg hp => ⟨fun h1 h2 => ?_, fun h => ?_⟩,
    fun r => recordBytes_toNat, rfl, ⟨rfl, rfl, rfl, rfl⟩, fun s => rfl, fun s clocked k data h => ⟨fun hk => ?_, ?_⟩,
    fun s clocked h => congrArg Host.Outcome.next (chipSelectHigh_of_idle h), fun s left h => ?_⟩
  · intro r
    refine ⟨appendRecord s.lp.queue (r (s.lp.queue.isEmpty && s.lp.gapPending)), rfl, fun he => ?_, fun hne hroom => ?_,
      fun lost oldest rest hq hfull => ?_⟩
    · rw [he]
      rfl
    · rw [List.isEmpty_eq_false_iff.mpr hne, Bool.false_and]
      exact appendRecord_of_room _ hroom
    · rw [hq] at hfull ⊢
      exact appendRecord_of_full _ hfull
  · refine ⟨takeEvents arg.toNat s, congrArg Host.Outcome.next ?_, ?_⟩
    · rw [readEvents, byStateRow_readAny hp, countArgument_of_number h1 h2]
    · rw [← List.length_take]
      rfl
  · refine congrArg Host.Outcome.next ?_
    rw [readEvents, byStateRow_readAny hp, countArgument_of_outside h]
    rfl
  · refine congrArg Host.Outcome.next ((chipSelectHigh_of_ok h).trans (if_neg ?_))
    omega
  · intro hk hcut
    have hlost : chipSelectHigh clocked s = recordsLost { s with lp := { s.lp with port := .idle } } :=
      (chipSelectHigh_of_ok h).trans (if_pos ⟨hk, hcut⟩)
    exact ⟨fun he => congrArg Host.Outcome.next (hlost.trans (recordsLost_of_empty he)),
      fun oldest rest hq => congrArg Host.Outcome.next (hlost.trans (recordsLost_of_oldest hq))⟩
  · refine congrArg Host.Outcome.next ?_
    simp only [staleExpiry, h]
    rfl

/-! ## The four reads (R182) -/

theorem boolByte_toNat (b : Bool) : (boolByte b).toNat = if b = true then 1 else 0 := by cases b <;> rfl

theorem statusFlags_toNat (s : State) : (statusFlags s).toNat =
    (if (s.sc.number == 0) = true then 128 else 0) + (if s.sc.txMuted = true then 64 else 0)
      + (if globalSolo s = true then 32 else 0) + busPhaseCode s.bc.phase := by
  rw [statusFlags, isFollower]
  generalize (s.sc.number == 0) = a, s.sc.txMuted = b, globalSolo s = c, s.bc.phase = phase
  cases a <;> cases b <;> cases c <;> cases phase <;> rfl

theorem stopsByte_toNat (s : State) : (stopsByte s).toNat =
    stopCode s.sp.effective * 64 + machineCode s.sp.machineA.state * 16 + machineCode s.sp.machineB.state * 4 := by
  rw [stopsByte]
  generalize s.sp.effective = e, s.sp.machineA.state = a, s.sp.machineB.state = b
  cases e <;> cases a <;> cases b <;> rfl

/-- Three flags at the top of a byte (log 37). -/
theorem flagByte_toNat (a b c : Bool) : (BitVec.ofBool a ++ BitVec.ofBool b ++ BitVec.ofBool c ++ 0#5 : Byte).toNat =
    (if a = true then 128 else 0) + (if b = true then 64 else 0) + (if c = true then 32 else 0) := by
  cases a <;> cases b <;> cases c <;> rfl

theorem stateCode_lt (x : StationState) : stateCode x < 256 := by cases x <;> decide

theorem roleCode_lt (x : Role) : roleCode x < 256 := by cases x <;> simp [roleCode]

theorem modeCode_lt (x : Mode) : modeCode x < 256 := by cases x <;> decide

theorem motorCode_lt (x : Motor) : motorCode x < 256 := by cases x <;> simp [motorCode]

theorem presenceCode_lt (x : Presence) : presenceCode x < 256 := by cases x <;> decide

theorem loadFaultCode_lt (x : LoadFaultReason) : loadFaultCode x < 256 := by cases x <;> decide

/-- A number that fits in one byte. -/
theorem byte1_toNat_of_lt {n : Nat} (h : n < 256) : (byte1 n).toNat = n := (byte1_toNat n).trans (Nat.mod_eq_of_lt h)

/-- The load fault part of READ STATUS (log 41). -/
def faultBytes : Option (LoadFaultReason × Nat) → List Byte
  | some (reason, offset) => byte1 (loadFaultCode reason) :: bytes3 offset
  | none => [0, 0, 0, 0]

theorem faultBytes_toNat (reason : LoadFaultReason) (offset : Nat) :
    (faultBytes (some (reason, offset))).map BitVec.toNat =
      loadFaultCode reason :: [offset / 65536 % 256, offset / 256 % 256, offset % 256] := by
  simp only [faultBytes, List.map_cons, bytes3_toNat, byte1_toNat_of_lt (loadFaultCode_lt reason)]

/-- READ STATUS with its fault part by name. -/
theorem statusBytes_eq (s : State) : statusBytes s =
    [byte1 s.sc.number.val, byte1 (stateCode s.sc.state), statusFlags s, stopsByte s]
      ++ bytes3 (cueCode s.cq.standby) ++ bytes3 (cueCode s.cq.last)
      ++ [byte1 (s.cq.incoming.length * 16 + s.cq.outgoing.length), byte1 s.lp.queue.length]
      ++ faultBytes s.lp.lastFault := rfl

theorem statusBytes_toNat (hq : QueuesBounded s) : (statusBytes s).map BitVec.toNat =
    [s.sc.number.val, stateCode s.sc.state, (statusFlags s).toNat, (stopsByte s).toNat]
      ++ (bytes3 (cueCode s.cq.standby)).map BitVec.toNat ++ (bytes3 (cueCode s.cq.last)).map BitVec.toNat
      ++ [s.cq.incoming.length * 16 + s.cq.outgoing.length, s.lp.queue.length]
      ++ (faultBytes s.lp.lastFault).map BitVec.toNat := by
  obtain ⟨hout, hin, -, hev⟩ := hq
  have hn : s.sc.number.val < 256 := by omega
  simp only [statusBytes_eq, List.map_append, List.map_cons, List.map_nil, byte1_toNat_of_lt hn,
    byte1_toNat_of_lt (stateCode_lt _),
    byte1_toNat_of_lt (show s.cq.incoming.length * 16 + s.cq.outgoing.length < 256 by omega),
    byte1_toNat_of_lt (show s.lp.queue.length < 256 by omega)]

theorem peerArgument_of_number {arg : Byte} {p : Peer} (h : arg.toNat = peerNumber p) : peerArgument arg = some p := by
  rw [peerArgument, h, toPeer?_peerNumber]

theorem groupArgument_of_number {arg : Byte} {g : Group} (h : arg.toNat = groupNumber g) : groupArgument arg = some g := by
  rw [groupArgument, h, toGroup?_groupNumber]

theorem groupArgument_of_outside {arg : Byte} (h : arg.toNat = 0 ∨ 32 < arg.toNat) : groupArgument arg = none :=
  dif_neg (by omega)

theorem channelBytes_toNat (ch : Channel) (hp : s.fe.pool.length ≤ 64) : (channelBytes s ch).map BitVec.toNat =
    [roleCode (roleOf s ch), modeCode s.st.strips[ch].mode]
      ++ (bytes2 s.fe.levels[ch].val).map BitVec.toNat ++ (bytes2 s.st.strips[ch].hand.val).map BitVec.toNat
      ++ (bytes2 s.st.strips[ch].measured.val).map BitVec.toNat ++ (bytes2 s.mr.applied[ch].val).map BitVec.toNat
      ++ [(channelFlags s ch).toNat, motorCode s.st.strips[ch].motor,
        (s.fe.pool.filter (fun r => r.isLevel && r.channel == ch)).length] := by
  have hcount : levelRecords s ch < 256 := by
    have := List.countP_le_length (p := fun r : PoolRecord => r.isLevel && r.channel == ch) (l := s.fe.pool)
    rw [levelRecords]
    omega
  simp only [channelBytes, List.map_append, List.map_cons, List.map_nil, byte1_toNat_of_lt (roleCode_lt _),
    byte1_toNat_of_lt (modeCode_lt _), byte1_toNat_of_lt (motorCode_lt _), byte1_toNat_of_lt hcount]
  rw [levelRecords, List.countP_eq_length_filter]

theorem groupEntryBytes_owned (e : Ownership) : (groupEntryBytes (.owned e)).map BitVec.toNat =
    [if e.stale = true then 2 else 1, e.owner.val + 1] ++ [e.position.val / 256 % 256, e.position.val % 256]
      ++ [if e.mute = true then 1 else 0] ++ [e.age / 1000 / 256 % 256, e.age / 1000 % 256] := by
  have ho : peerNumber e.owner < 256 := by
    have := e.owner.isLt
    rw [peerNumber]
    omega
  have hstale : (if e.stale = true then 2 else 1 : Byte).toNat = if e.stale = true then 2 else 1 := by
    cases e.stale <;> rfl
  simp only [groupEntryBytes, List.map_append, List.map_cons, List.map_nil, bytes2_toNat, boolByte_toNat,
    byte1_toNat_of_lt ho, hstale]
  rfl

/-- What READ GROUP says of a hosted master's last frame (R182). -/
def lastSentBytes : Option (Position × Bool) → List Byte
  | some (p, mute) => 1 :: bytes2 p.val ++ [boolByte mute]
  | none => [0, 0, 0, 0]

def lastSentNumbers : Option (Position × Bool) → List Nat
  | some (p, mute) => 1 :: [p.val / 256 % 256, p.val % 256] ++ [if mute = true then 1 else 0]
  | none => [0, 0, 0, 0]

theorem lastSentBytes_toNat (last : Option (Position × Bool)) :
    (lastSentBytes last).map BitVec.toNat = lastSentNumbers last := by
  rcases last with _ | ⟨p, mute⟩
  · rfl
  · simp only [lastSentBytes, List.map_append, List.map_cons, List.map_nil, bytes2_toNat, boolByte_toNat]
    rfl

theorem hostedBytes_of_none (s : State) : (hostedBytes s none).map BitVec.toNat = [0, 0, 0, 0, 0, 0, 0, 0, 0, 0, 0, 0] := rfl

theorem hostedBytes_of_some (s : State) (ch : Channel) : (hostedBytes s (some ch)).map BitVec.toNat =
    [1, ch.val + 1, if s.mr.masters[ch].demoted = true then 1 else 0]
      ++ [(sourcePosition s ch).val / 256 % 256, (sourcePosition s ch).val % 256]
      ++ [if s.mr.mute[ch] = true then 1 else 0] ++ lastSentNumbers s.mr.masters[ch].lastSent
      ++ [s.mr.masters[ch].since / 1000 / 256 % 256, s.mr.masters[ch].since / 1000 % 256] := by
  have hc : channelNumber ch < 256 := by
    have := ch.isLt
    rw [channelNumber]
    omega
  have hbytes : hostedBytes s (some ch) = [1, byte1 (channelNumber ch), boolByte s.mr.masters[ch].demoted]
      ++ bytes2 (sourcePosition s ch).val ++ [boolByte s.mr.mute[ch]] ++ lastSentBytes s.mr.masters[ch].lastSent
      ++ bytes2 (s.mr.masters[ch].since / Config.ms) := rfl
  simp only [hbytes, List.map_append, List.map_cons, List.map_nil, bytes2_toNat, boolByte_toNat, byte1_toNat_of_lt hc,
    lastSentBytes_toNat]
  rfl

/-- Settles O53, by the layout of each read, byte for byte. -/
theorem readsReturnTheState : Obligations.ReadsReturnTheState := by
  refine ⟨rfl, rfl, rfl, rfl, ⟨rfl, fun _ _ => rfl, fun _ => rfl⟩, rfl, fun _ _ => rfl, rfl, rfl, fun s hp => ?_⟩
  intro reads refused two three flag
  have answers {c : Instr} {data : List Byte} {bytes : List Nat} (hc : exec c s = .next (answer .ok data s))
      (hd : data.map BitVec.toNat = bytes) : reads c bytes := ⟨data, hd, hc⟩
  refine ⟨fun hq => ?_, fun arg ch ha hpool hs => ?_, fun arg p ha _ => ?_, fun arg g ha => ?_,
    fun arg => ⟨fun h => ?_, fun h => ?_, fun hs h => ?_⟩⟩
  · refine answers (congrArg Host.Outcome.next (byStateRow_readAny hp _)) ?_
    rw [statusBytes_toNat hq, statusFlags_toNat, stopsByte_toNat, bytes3_toNat, bytes3_toNat]
    rcases s.lp.lastFault with _ | ⟨reason, offset⟩
    · rfl
    · rw [faultBytes_toNat]
      rfl
  · refine answers (data := channelBytes s ch) (congrArg Host.Outcome.next ?_) ?_
    · have hrow : stateRow .readChannel s.sc.state = none := by
        rcases hs with hs | hs | hs <;> rw [hs] <;> rfl
      rw [readChannel, byStateRow_own hp hrow, channelArgument_of_number ha]
    · simp only [channelBytes_toNat ch hpool, bytes2_toNat, channelFlags, flagByte_toNat]
      rfl
  · refine answers (data := peerBytes s.sc.peers[p]) (congrArg Host.Outcome.next ?_) ?_
    · rw [readPeer, byStateRow_readAny hp, peerArgument_of_number ha]
    · simp only [peerBytes, List.map_append, List.map_cons, List.map_nil, byte1_toNat_of_lt (presenceCode_lt _),
        peerFlags, flagByte_toNat, bytes3_toNat, bytes2_toNat]
      rfl
  · refine answers (data := groupBytesOf s g) (congrArg Host.Outcome.next ?_) ?_
    · rw [readGroup, byStateRow_readAny hp, groupArgument_of_number ha]
    · rw [groupBytesOf, List.map_append]
      refine congrArg₂ (· ++ ·) ?_ ?_
      · rcases s.mr.groups[g] with _ | e
        · rfl
        · exact groupEntryBytes_owned e
      · rcases hostOf s g with _ | ch
        · exact hostedBytes_of_none s
        · exact hostedBytes_of_some s ch
  · refine congrArg Host.Outcome.next ?_
    rw [readPeer, byStateRow_readAny hp, peerArgument, toPeer?_of_outside h]
    rfl
  · refine congrArg Host.Outcome.next ?_
    rw [readGroup, byStateRow_readAny hp, groupArgument_of_outside h]
    rfl
  · refine congrArg Host.Outcome.next ?_
    have hrow : stateRow .readChannel s.sc.state = none := by
      rcases hs with hs | hs | hs <;> rw [hs] <;> rfl
    rw [readChannel, byStateRow_own hp hrow, channelArgument_none_of_outside h]
    rfl

/-! ## Commands by their bytes and by the state rows (R171, R172, R182) -/

/-- The codes of the commands (R182). -/
def commandCodes : List Byte :=
  [0x01, 0x02, 0x03, 0x04, 0x05, 0x10, 0x11, 0x12, 0x20, 0x21, 0x22, 0x30, 0x31, 0x32]

/-- The bytes that spell a command, and bytes after them, which are ignored (R171, R182). -/
inductive Spells : List Byte → Instr → Prop
  | readStatus (rest) : Spells (0x01 :: rest) .readStatus
  | readEvents (a rest) : Spells (0x02 :: a :: rest) (.readEvents a)
  | readChannel (a rest) : Spells (0x03 :: a :: rest) (.readChannel a)
  | readPeer (a rest) : Spells (0x04 :: a :: rest) (.readPeer a)
  | readGroup (a rest) : Spells (0x05 :: a :: rest) (.readGroup a)
  | loadBegin (rest) : Spells (0x10 :: rest) .loadBegin
  | loadData (a data rest) (h : data.length = a.toNat) : Spells (0x11 :: a :: (data ++ rest)) (.loadData a data)
  | loadEnd (rest) : Spells (0x12 :: rest) .loadEnd
  | go (rest) : Spells (0x20 :: rest) .go
  | fire (a b d rest) : Spells (0x21 :: a :: b :: d :: rest) (.fire (a ++ b ++ d))
  | standby (a b d rest) : Spells (0x22 :: a :: b :: d :: rest) (.standby (a ++ b ++ d))
  | stopRelease (a b rest) : Spells (0x30 :: a :: b :: rest) (.stopRelease a b)
  | clearMotor (a rest) : Spells (0x31 :: a :: rest) (.clearMotor a)
  | restart (rest) : Spells (0x32 :: rest) .restart
  | unknown (a rest) (h : a ∉ commandCodes) : Spells (a :: rest) (.unknownCommand a)

/-- A code not listed names no command (R171). -/
theorem readCommand_unknown {a : Byte} (rest : List Byte) (h : a ∉ commandCodes) :
    readCommand (a :: rest) = some (.unknownCommand a) := by
  simp only [commandCodes, List.mem_cons, List.not_mem_nil, or_false, not_or, ← BitVec.toNat_inj] at h
  unfold readCommand
  dsimp only
  split <;> simp_all

theorem readCommand_of_spells {bytes : List Byte} {c : Instr} (h : Spells bytes c) : readCommand bytes = some c := by
  cases h with
  | loadData a data rest h => exact readCommand_loadData a data rest h
  | unknown a rest h => exact readCommand_unknown rest h
  | _ => rfl

theorem spells_of_readCommand {bytes : List Byte} {c : Instr} (h : readCommand bytes = some c) : Spells bytes c := by
  obtain _ | ⟨code, args⟩ := bytes
  · cases h
  by_cases hc : code ∈ commandCodes
  · simp only [commandCodes, List.mem_cons, List.not_mem_nil, or_false] at hc
    rcases hc with rfl | rfl | rfl | rfl | rfl | rfl | rfl | rfl | rfl | rfl | rfl | rfl | rfl | rfl
    · cases h
      exact .readStatus args
    · obtain _ | ⟨a, rest⟩ := args <;> cases h
      exact .readEvents a rest
    · obtain _ | ⟨a, rest⟩ := args <;> cases h
      exact .readChannel a rest
    · obtain _ | ⟨a, rest⟩ := args <;> cases h
      exact .readPeer a rest
    · obtain _ | ⟨a, rest⟩ := args <;> cases h
      exact .readGroup a rest
    · cases h
      exact .loadBegin args
    · obtain _ | ⟨a, data⟩ := args
      · cases h
      · replace h : (if a.toNat ≤ data.length then some (Instr.loadData a (data.take a.toNat)) else none) = some c := h
        split at h <;> cases h
        next hle =>
          have hspell := Spells.loadData a (data.take a.toNat) (data.drop a.toNat) (List.length_take_of_le hle)
          rwa [List.take_append_drop] at hspell
    · cases h
      exact .loadEnd args
    · cases h
      exact .go args
    · obtain _ | ⟨a, _ | ⟨b, _ | ⟨d, rest⟩⟩⟩ := args <;> cases h
      exact .fire a b d rest
    · obtain _ | ⟨a, _ | ⟨b, _ | ⟨d, rest⟩⟩⟩ := args <;> cases h
      exact .standby a b d rest
    · obtain _ | ⟨a, _ | ⟨b, rest⟩⟩ := args <;> cases h
      exact .stopRelease a b rest
    · obtain _ | ⟨a, rest⟩ := args <;> cases h
      exact .clearMotor a rest
    · cases h
      exact .restart args
  · rw [readCommand_unknown args hc] at h
    cases h
    exact .unknown code args hc

theorem readCommand_iff {bytes : List Byte} {c : Instr} : readCommand bytes = some c ↔ Spells bytes c :=
  ⟨spells_of_readCommand, readCommand_of_spells⟩

/-- Bytes after the last argument are ignored (R171). -/
theorem Spells.append {bytes : List Byte} {c : Instr} (rest : List Byte) (h : Spells bytes c) : Spells (bytes ++ rest) c := by
  cases h with
  | loadData a data rest' h =>
    have hspell := Spells.loadData a data (rest' ++ rest) h
    rwa [← List.append_assoc] at hspell
  | _ => constructor <;> assumption

/-- A taken command is taken still as more bytes follow (R171). -/
theorem readCommand_of_take {bytes : List Byte} {c : Instr} {n : Nat} (h : readCommand (bytes.take n) = some c) :
    readCommand bytes = some c := by
  rw [readCommand_iff] at h ⊢
  have hall := h.append (bytes.drop n)
  rwa [List.take_append_drop] at hall

/-- Where the command of a transaction ends (R171). -/
theorem commandSize_iff {clocked : List Byte} {n : Nat} : commandSize clocked = some n ↔
    n ≤ clocked.length ∧ (∃ c, readCommand (clocked.take n) = some c)
      ∧ ∀ m, m < n → readCommand (clocked.take m) = none := by
  simp only [commandSize, List.find?_range_eq_some, List.mem_range, Nat.lt_succ_iff, Bool.not_eq_true',
    Option.isSome_eq_false_iff, Option.isNone_iff_eq_none, Option.isSome_iff_exists]
  exact and_left_comm

theorem commandSize_of_none {clocked : List Byte} (h : readCommand clocked = none) : commandSize clocked = none := by
  rw [Option.eq_none_iff_forall_ne_some]
  intro n hn
  obtain ⟨-, ⟨c, hc⟩, -⟩ := commandSize_iff.mp hn
  rw [readCommand_of_take hc] at h
  cases h

/-- A command outside a transaction that takes it does nothing (R171). -/
theorem byStateRow_of_not_reading (hp : s.lp.port ≠ .reading) (row : PortRow) (own : State) : byStateRow row s own = s :=
  taken_of_not_reading _ hp

/-- What the state row of a command's group answers (R172). -/
theorem exec_of_row {row : PortRow} {r : PortResult} {c : Instr} {own : State} (hp : s.lp.port = .reading)
    (hc : exec c s = .next (byStateRow row s own)) (hr : stateRow row s.sc.state = some r) :
    exec c s = .next (answerOnly r s) := hc.trans (congrArg Host.Outcome.next (byStateRow_answer hp hr own))

theorem loadData_of_uncut {length : Byte} {data : List Byte} (h : length.toNat ≤ data.length) :
    loadData length data s = byStateRow .load s
      (if length = 0 then answerOnly .badArgument s else storeData (data.take length.toNat) s) :=
  if_neg (by simp; omega)

theorem loadData_of_cut {length : Byte} {data : List Byte} (h : data.length < length.toNat) : loadData length data s = s :=
  if_pos (by
    have hne : length ≠ 0 := fun h0 => by
      rw [h0] at h
      exact Nat.not_lt_zero _ h
    rw [Bool.and_eq_true, decide_eq_true_eq, decide_eq_true_eq]
    exact ⟨hne, h⟩)

/-- A command's bytes in a transaction that has taken one reach nothing, but that the abandonments of a silent station
are looked at again after some of them (R171, log 14). -/
theorem exec_of_not_reading {bytes : List Byte} {c : Instr} (hp : s.lp.port ≠ .reading) (h : Spells bytes c) :
    (c = .go ∨ (∃ cue, c = .fire cue) ∨ (∃ cue, c = .standby cue) ∨ (∃ kind target, c = .stopRelease kind target) →
      exec c s = .next (settle s))
    ∧ (c ≠ .go → (∀ cue, c ≠ .fire cue) → (∀ cue, c ≠ .standby cue) → (∀ kind target, c ≠ .stopRelease kind target) →
      exec c s = .next s) := by
  have hnext {row : PortRow} {own : State} : byStateRow row s own = s := byStateRow_of_not_reading hp row own
  cases h with
  | loadData a data rest h =>
    refine ⟨by simp, fun _ _ _ _ => congrArg Host.Outcome.next ((loadData_of_uncut h.ge).trans hnext)⟩
  | unknown a rest h => exact ⟨by simp, fun _ _ _ _ => congrArg Host.Outcome.next (taken_of_not_reading _ hp)⟩
  | go | fire | standby | stopRelease =>
    exact ⟨fun _ => congrArg (fun t => Host.Outcome.next (settle t)) hnext, by simp⟩
  | _ => exact ⟨by simp, fun _ _ _ _ => congrArg Host.Outcome.next hnext⟩

theorem dataOutput_of_taken_at {clocked : List Byte} {n place : Nat} (port : Port) (h : commandSize clocked = some n) :
    dataOutput clocked port (n + place) = (responseBytes port).getD place 0 := by
  rw [dataOutput_of_taken port _ h, if_neg (by omega), Nat.add_sub_cancel_left]

/-- Settles O52, by the rows, the spellings and the places of the data output. -/
theorem portCommandsAnswerTheStateRows : Obligations.PortCommandsAnswerTheStateRows := by
  refine ⟨fun s arg hp => ?_, fun s length data h => congrArg Host.Outcome.next (loadData_of_cut h),
    fun s bytes c hp h => exec_of_not_reading hp (spells_of_readCommand h), rfl, fun rest data a b d => ?_, by decide,
    fun a b => ⟨rfl, rfl, rfl, rfl, rfl⟩, rfl, rfl, fun clocked port place => ?_,
    fun data records => ⟨rfl, rfl, rfl, rfl, rfl, rfl, rfl⟩⟩
  · intro returns
    refine ⟨fun c hc => ?_, fun hs => ?_, fun hs => ?_, fun c hc => ?_, fun hs => ?_, fun code _ => ?_⟩
    · obtain ⟨row, own, hexec, hbusy, hwrong⟩ : ∃ row own, exec c s = .next (byStateRow row s own)
          ∧ stateRow row .validating = some .busy
          ∧ stateRow row .load = some .wrongState ∧ stateRow row .loadFault = some .wrongState := by
        rcases hc with rfl | rfl | rfl <;> exact ⟨_, _, rfl, rfl, rfl, rfl⟩
      refine ⟨fun hs => exec_of_row hp hexec (hs ▸ hbusy), fun hs => exec_of_row hp hexec ?_⟩
      rcases hs with hs | hs
      · rw [hs, hwrong.1]
      · rw [hs, hwrong.2]
    · exact exec_of_row hp rfl (hs ▸ rfl)
    · refine exec_of_row hp rfl ?_
      rcases hs with hs | hs | hs <;> rw [hs] <;> rfl
    · obtain ⟨own, hexec⟩ : ∃ own, exec c s = .next (byStateRow .load s own) := by
        rcases hc with rfl | ⟨length, data, rfl, hlen⟩
        · exact ⟨_, rfl⟩
        · exact ⟨_, congrArg Host.Outcome.next (loadData_of_uncut hlen.ge)⟩
      refine ⟨fun hs => exec_of_row hp hexec (hs ▸ rfl), fun hload hval => exec_of_row hp hexec ?_⟩
      cases hs : s.sc.state
      case load => exact absurd hs hload
      case validating => exact absurd hs hval
      all_goals rfl
    · refine congrArg Host.Outcome.next ((loadData_of_uncut le_rfl).trans ?_)
      exact (byStateRow_own hp (hs ▸ rfl) _).trans (if_pos rfl)
    · exact congrArg Host.Outcome.next (taken_of_reading _ hp)
  · refine ⟨rfl, rfl, rfl, rfl, rfl, rfl, readCommand_loadData a data rest, fun hcut => ?_, rfl, rfl, rfl, rfl, rfl, rfl, rfl,
      fun ha => ⟨readCommand_unknown rest ha, ?_⟩⟩
    · exact if_neg (by omega)
    · rw [unknownCodeOk, readCommand_unknown [] ha]
      exact beq_self_eq_true _
  · refine ⟨fun n => commandSize_iff, fun h => dataOutput_of_not_taken port place (commandSize_of_none h), fun n hn =>
      ⟨fun hlt => (dataOutput_of_taken port place hn).trans (if_pos hlt), fun b hb => ?_, fun hout => ?_⟩⟩
    · rw [dataOutput_of_taken_at port hn, List.getD_eq_getElem?_getD, hb]
      rfl
    · rw [dataOutput_of_taken_at port hn, List.getD_eq_getElem?_getD, List.getElem?_eq_none hout]
      rfl

end Sys2Proof.Machine
end

section
/-!
PROOFS. The cue sequencer (chapter 3): the expander and the standby buffer, CUE frames received, the follow timer, and the
cue commands of the port.
-/

namespace Sys2Proof.Machine

variable {s t : State}

/-! ## The expander (R34, R48, R49) -/

/-- The standby buffer once the idle expander has no entry to take (R34). -/
def bufferAtRest (s : State) : StandbyBuffer :=
  match s.cq.standby with
  | some n => if movesOf (cueTable s) n = [] then .prefetched n [] else .prefetching n
  | none => .empty

theorem bufferAtRest_of_none (h : s.cq.standby = none) : bufferAtRest s = .empty := by
  simp only [bufferAtRest, h]

theorem bufferAtRest_of_some {n : CueNumber} (h : s.cq.standby = some n) :
    bufferAtRest s = if movesOf (cueTable s) n = [] then .prefetched n [] else .prefetching n := by
  simp only [bufferAtRest, h]

/-- The state in which entries without moves are handed on and `rest` stands in the queue, the buffer EMPTY (R48). -/
def emptiesHanded (empties rest : List GoEntry) (s : State) : State :=
  { s with
    cq := { s.cq with incoming := rest, buffer := .empty }
    fe := { s.fe with commits := s.fe.commits ++ empties.map (fun e => { cue := e.cue, moves := [] }) } }

/-- The expander is in RUN with an EMPTY buffer, so that it looks for work (R34). -/
structure ExpanderIdle (s : State) : Prop where
  run : s.sc.state = .run
  empty : s.cq.buffer = .empty

theorem ExpanderIdle.works (h : ExpanderIdle s) :
    (decide (s.sc.state = .run) && decide (s.cq.buffer = .empty)) = true := by
  simp [h.run, h.empty]

theorem runExpander_of_busy (h : s.cq.buffer ≠ .empty) : runExpander s = s := by
  simp [runExpander, serveExpander, h]

theorem serveExpander_of_moves {turns : Nat} {e : GoEntry} {rest : List GoEntry} (h : ExpanderIdle s)
    (hin : s.cq.incoming = e :: rest) (hm : movesOf (cueTable s) e.cue ≠ []) :
    serveExpander (turns + 1) s = beginExpansion e.cue s := by
  rw [serveExpander, if_pos h.works, hin]
  exact if_neg (by simpa using hm)

theorem serveExpander_of_none {turns : Nat} (h : ExpanderIdle s) (hin : s.cq.incoming = []) :
    serveExpander (turns + 1) s = { s with cq := { s.cq with buffer := bufferAtRest s } } := by
  rw [serveExpander, if_pos h.works, hin]
  cases hs : s.cq.standby with
  | none =>
    rw [bufferAtRest_of_none hs, ← h.empty]
  | some n =>
    rw [bufferAtRest_of_some hs]
    simp only [startPrefetch, List.isEmpty_iff]

theorem serveExpander_of_empty {turns : Nat} {e : GoEntry} {rest : List GoEntry} (h : ExpanderIdle s)
    (hin : s.cq.incoming = e :: rest) (hm : movesOf (cueTable s) e.cue = []) :
    serveExpander (turns + 1) s = serveExpander turns (emptiesHanded [e] rest s) := by
  rw [serveExpander, if_pos h.works, hin]
  refine (if_pos (by rw [hm]; rfl)).trans ?_
  rw [handOff, hin]
  rfl

/-- The entries without moves at the head of the queue go one after another. -/
theorem serveExpander_of_empties {rest : List GoEntry} (empties : List GoEntry) : ∀ {turns : Nat} {s : State},
    ExpanderIdle s → s.cq.incoming = empties ++ rest → (∀ e ∈ empties, movesOf (cueTable s) e.cue = []) →
    serveExpander (empties.length + turns) s = serveExpander turns (emptiesHanded empties rest s) := by
  induction empties with
  | nil =>
    intro turns s h hin _
    have hs : emptiesHanded [] rest s = s := by
      rw [emptiesHanded, List.map_nil, List.append_nil, ← h.empty, ← List.nil_append rest, ← hin]
    rw [hs, List.length_nil, Nat.zero_add]
  | cons e empties ih =>
    intro turns s h hin hm
    rw [List.cons_append] at hin
    rw [List.length_cons, Nat.add_right_comm,
      serveExpander_of_empty h hin (hm e List.mem_cons_self),
      ih (s := emptiesHanded [e] (empties ++ rest) s) ⟨h.run, rfl⟩ rfl (fun x hx => hm x (List.mem_cons_of_mem e hx))]
    simp only [emptiesHanded, List.map_cons, List.map_nil, List.append_assoc, List.cons_append, List.nil_append]

/-- The idle expander takes the entries without moves and then finds one with moves (R48). -/
theorem runExpander_to_moves {empties rest : List GoEntry} {e : GoEntry} (h : ExpanderIdle s)
    (hin : s.cq.incoming = empties ++ e :: rest) (hempty : ∀ x ∈ empties, movesOf (cueTable s) x.cue = [])
    (hm : movesOf (cueTable s) e.cue ≠ []) :
    runExpander s = beginExpansion e.cue (emptiesHanded empties (e :: rest) s) := by
  have hlen : s.cq.incoming.length + 1 = empties.length + ((rest.length + 1) + 1) := by
    rw [hin, List.length_append, List.length_cons]
    omega
  rw [runExpander, hlen, serveExpander_of_empties empties h hin hempty]
  exact serveExpander_of_moves ⟨h.run, rfl⟩ rfl hm

/-- The idle expander takes the entries without moves, and with the queue then empty turns to the standby (R34, R48). -/
theorem runExpander_to_rest {empties : List GoEntry} (h : ExpanderIdle s)
    (hin : s.cq.incoming = empties) (hempty : ∀ x ∈ empties, movesOf (cueTable s) x.cue = []) :
    runExpander s = { emptiesHanded empties [] s with
      cq := { (emptiesHanded empties [] s).cq with buffer := bufferAtRest s } } := by
  rw [runExpander, hin, serveExpander_of_empties empties h (by rw [hin, List.append_nil]) hempty]
  exact serveExpander_of_none ⟨h.run, rfl⟩ rfl

theorem runExpander_of_none (h : ExpanderIdle s) (hin : s.cq.incoming = []) :
    runExpander s = { s with cq := { s.cq with buffer := bufferAtRest s } } := serveExpander_of_none h hin

theorem expansionComplete_of_expanding {c : CueNumber} (hrun : s.sc.state = .run) (hb : s.cq.buffer = .expanding c) :
    expansionComplete s = runExpander (handOff c (movesOf (cueTable s) c) s) := by
  simp only [expansionComplete, hb]
  exact if_pos hrun

/-- Settles O22, by what stands behind the head in the queue. -/
theorem expanderHandsTheHeadOn : Obligations.ExpanderHandsTheHeadOn := by
  refine ⟨fun s c hb => ?_, fun s c head empties rest hrun hb hin hempty => ?_⟩
  · refine congrArg Host.Outcome.next ?_
    simp only [prefetchComplete, hb]
  intro commits
  have hcomplete := expansionComplete_of_expanding hrun hb
  have hidle : ExpanderIdle (handOff c (movesOf (cueTable s) c) s) := ⟨hrun, rfl⟩
  have htail : (handOff c (movesOf (cueTable s) c) s).cq.incoming = empties ++ rest := congrArg List.tail hin
  have hcommits : (s.fe.commits ++ [{ cue := c, moves := movesOf (cueTable s) c }])
      ++ empties.map (fun e => { cue := e.cue, moves := [] }) = commits := by
    rw [List.append_assoc]
    rfl
  refine ⟨fun e tail hrest hm => congrArg Host.Outcome.next ?_, fun hrest => ?_⟩
  · rw [hrest] at htail
    rw [hcomplete, runExpander_to_moves hidle htail hempty hm, ← hcommits]
    rfl
  · rw [hrest, List.append_nil] at htail
    refine ⟨bufferAtRest s, congrArg Host.Outcome.next ?_, bufferAtRest_of_none, fun n => bufferAtRest_of_some⟩
    rw [hcomplete, runExpander_to_rest hidle htail hempty, ← hcommits]
    rfl

/-! ## The follow timer (R51 to R53) -/

theorem followExpiry_of_armed {f : FollowTimer} (hf : s.cq.follow = some f) : followExpiry s =
    if s.sc.state = .run && !stopped s then expireFollow f.target s else s := by
  simp only [followExpiry, hf]

theorem followExpiry_of_silent {f : FollowTimer} (hf : s.cq.follow = some f)
    (h : s.sc.state ≠ .run ∨ s.sp.effective ≠ .none) : followExpiry s = s := by
  refine (followExpiry_of_armed hf).trans (if_neg ?_)
  rcases h with h | h
  · simp [h]
  · simp [stopped_of_ne h]

theorem followExpiry_of_run {f : FollowTimer} (hf : s.cq.follow = some f) (hrun : s.sc.state = .run)
    (he : s.sp.effective = .none) : followExpiry s = expireFollow f.target s :=
  (followExpiry_of_armed hf).trans (if_pos (by simp [hrun, not_stopped_of_none he]))

/-- Settles O23, by whether the timer expires, the station can send, and the queue takes the request. -/
theorem followExpiryFiresTheTarget : Obligations.FollowExpiryFiresTheTarget := by
  intro s f hf
  have next {u : State} (h : followExpiry s = u) : exec .followExpiry s = .next (settle u) :=
    congrArg (fun v => Host.Outcome.next (settle v)) h
  refine ⟨fun h => next (followExpiry_of_silent hf h), fun hrun he hc => ?_, fun hrun he hc => ?_⟩
  · have hrequest : followExpiry s = requestFire f.target .follow { s with cq := { s.cq with follow := none } } :=
      (followExpiry_of_run hf hrun he).trans (if_neg (by simpa [cannotSend, isFollower] using hc))
    exact ⟨fun h => next (hrequest.trans (requestFire_of_duplicate h)), fun h =>
      ⟨fun hl => next (hrequest.trans (requestFire_of_room h hl)), fun hl => next (hrequest.trans (requestFire_of_full h hl))⟩⟩
  · exact next ((followExpiry_of_run hf hrun he).trans (if_pos hc))

/-! ## CUE frames received (R41 to R46) -/

theorem takeCue_fire {c : CueNumber} {n : Nat} {origin : OriginKind} (h : s.sc.state = .catchup ∨ s.sc.state = .run) :
    takeCue .fire c n origin s = takeFire c n origin s := by
  rcases h with h | h <;> simp only [takeCue, h]

theorem takeCue_standby {c : CueNumber} {n : Nat} {origin : OriginKind} (h : s.sc.state = .catchup ∨ s.sc.state = .run) :
    takeCue .standby c n origin s = takeStandby c s := by
  rcases h with h | h <;> simp only [takeCue, h]

/-- The guard lets a FIRE through (R43). -/
theorem guardAbsorbs_of_open {c : CueNumber} (h : s.cq.last ≠ some c ∨ guardWindow s ≤ s.cq.since) :
    guardAbsorbs c s = false := by
  rcases h with h | h
  · simp [guardAbsorbs, h]
  · simp [guardAbsorbs, not_lt.mpr h]

theorem takeFire_of_repeat {c : CueNumber} {n : Nat} {origin : OriginKind} (hl : s.cq.last = some c)
    (hg : s.cq.since < guardWindow s) : takeFire c n origin s = post .cueAbsorbed c (originPair n origin) s :=
  if_pos (by simp [guardAbsorbs, hl, hg])

theorem takeFire_of_stop {c : CueNumber} {n : Nat} {origin : OriginKind} (hg : guardAbsorbs c s = false)
    (he : s.sp.effective ≠ .none) : takeFire c n origin s = post .goRefused c (originPair n origin) s := by
  rw [takeFire, if_neg (by simp [hg]), if_pos (stopped_of_ne he)]

theorem takeFire_of_full {c : CueNumber} {n : Nat} {origin : OriginKind} (hg : guardAbsorbs c s = false)
    (he : s.sp.effective = .none) (hl : 4 ≤ s.cq.incoming.length) :
    takeFire c n origin s = post .goQueueFull c (originPair n origin) s := by
  rw [takeFire, if_neg (by simp [hg]), if_neg (by simp [not_stopped_of_none he])]
  exact if_pos hl

theorem takeFire_of_room {c : CueNumber} {n : Nat} {origin : OriginKind} (hg : guardAbsorbs c s = false)
    (he : s.sp.effective = .none) (hl : s.cq.incoming.length < 4) :
    takeFire c n origin s = acceptFire c n origin s := by
  rw [takeFire, if_neg (by simp [hg]), if_neg (by simp [not_stopped_of_none he])]
  exact if_neg (not_le.mpr hl)

/-- The state in which a new CUE frame of a PRESENT peer is dispatched: equal WAITING requests are withdrawn (R41). -/
def heardCue (groups : List (BitVec 5)) (p : Peer) (kind : CueKind) (origin : OriginKind) (c : CueNumber) (s : State) :
    State :=
  withdraw kind c (heardFrame groups p (.cue kind origin c) s)

theorem NewFrame.exec_cue {groups : List (BitVec 5)} {p : Peer} {repeated : Bool} {kind : CueKind} {origin : OriginKind}
    {c : CueNumber} (h : NewFrame groups p repeated (.cue kind origin c) s)
    (ht : takeCue kind c (peerNumber p) origin (heardCue groups p kind origin c s) = t) :
    exec (.frameReceived groups) s = .next (settle t) := h.exec_eq ht

/-- Settles O20, by the tests of R43 to R45 in their order and by the station state. -/
theorem fireFrameNotAccepted : Obligations.FireFrameNotAccepted := by
  intro groups p repeated origin c s hresult hfresh hreads hother hpresent
  have hnew : NewFrame groups p repeated (.cue .fire origin c) s := ⟨hresult, hfresh, hreads, hother, hpresent⟩
  refine ⟨heardCue groups p .fire origin c s, rfl, fun hs => ?_, fun hs => hnew.exec_cue ?_, fun hs => hnew.exec_cue ?_⟩
  · have htake := takeCue_fire (c := c) (n := peerNumber p) (origin := origin) (s := heardCue groups p .fire origin c s) hs
    exact ⟨fun hl hg => hnew.exec_cue (htake.trans (takeFire_of_repeat hl hg)),
      fun hg he => hnew.exec_cue (htake.trans (takeFire_of_stop (guardAbsorbs_of_open hg) he)),
      fun hg he hl => hnew.exec_cue (htake.trans (takeFire_of_full (guardAbsorbs_of_open hg) he hl))⟩
  · have hstate : (heardCue groups p .fire origin c s).sc.state = .listen := hs
    simp only [takeCue, hstate]
  · have hstate : (heardCue groups p .fire origin c s).sc.state = s.sc.state := rfl
    rcases hs with hs | hs | hs <;> simp only [takeCue, hstate, hs]

/-- A prefetch given up leaves the buffer EMPTY (R35). -/
theorem discardPrefetch_of_expanding {b : CueNumber} (h : s.cq.buffer = .expanding b) : discardPrefetch s = s := by
  simp only [discardPrefetch, h]

theorem discardPrefetch_of_others (h : ∀ b, s.cq.buffer ≠ .expanding b) :
    discardPrefetch s = { s with cq := { s.cq with buffer := .empty } } := by
  cases hb : s.cq.buffer with
  | expanding b => exact absurd hb (h b)
  | empty =>
    simp only [discardPrefetch, hb]
    rw [← hb]
  | prefetching b => simp only [discardPrefetch, hb]
  | prefetched b moves => simp only [discardPrefetch, hb]

/-- The standby set to the cue at or after `c` (R46). -/
def standbyAt (c : CueNumber) (s : State) : State :=
  { s with cq := { s.cq with standby := cueAtOrAfter (cueTable s) c } }

theorem takeStandby_eq (c : CueNumber) (s : State) : takeStandby c s = runExpander (discardPrefetch (standbyAt c s)) := rfl

theorem takeStandby_of_expanding {c b : CueNumber} (h : s.cq.buffer = .expanding b) : takeStandby c s = standbyAt c s := by
  rw [takeStandby_eq, discardPrefetch_of_expanding (s := standbyAt c s) h]
  exact runExpander_of_busy (by simp [standbyAt, h])

theorem takeStandby_of_catchup {c : CueNumber} (h : ∀ b, s.cq.buffer ≠ .expanding b) (hs : s.sc.state ≠ .run) :
    takeStandby c s = { s with cq := { s.cq with standby := cueAtOrAfter (cueTable s) c, buffer := .empty } } := by
  rw [takeStandby_eq, discardPrefetch_of_others (s := standbyAt c s) h]
  exact runExpander_of_not_run hs

theorem takeStandby_of_run {c : CueNumber} (h : ∀ b, s.cq.buffer ≠ .expanding b) (hs : s.sc.state = .run)
    (hin : s.cq.incoming = []) :
    takeStandby c s = { s with cq := { s.cq with
      standby := cueAtOrAfter (cueTable s) c, buffer := bufferAtRest (standbyAt c s) } } := by
  rw [takeStandby_eq, discardPrefetch_of_others (s := standbyAt c s) h]
  exact runExpander_of_none (s := { standbyAt c s with cq := { (standbyAt c s).cq with buffer := .empty } }) ⟨hs, rfl⟩ hin

/-- Settles O21, by what the expander is doing. -/
theorem standbyFrameSetsTheStandby : Obligations.StandbyFrameSetsTheStandby := by
  intro groups p repeated origin c s hresult hfresh hreads hother hpresent hs hquiet
  have hnew : NewFrame groups p repeated (.cue .standby origin c) s := ⟨hresult, hfresh, hreads, hother, hpresent⟩
  have htake := takeCue_standby (c := c) (n := peerNumber p) (origin := origin)
    (s := heardCue groups p .standby origin c s) hs
  by_cases hb : ∃ b, s.cq.buffer = .expanding b
  · obtain ⟨b, hb⟩ := hb
    have hheard := takeStandby_of_expanding (s := heardCue groups p .standby origin c s) (c := c) hb
    exact ⟨s.cq.buffer, hnew.exec_cue (htake.trans hheard), fun _ => id, fun h => absurd hb (h b), fun h => absurd hb (h b)⟩
  · have hother : ∀ b, s.cq.buffer ≠ .expanding b := fun b h => hb ⟨b, h⟩
    rcases hs with hs | hs
    · have hne : s.sc.state ≠ .run := by
        rw [hs]
        decide
      have hheard := takeStandby_of_catchup (s := heardCue groups p .standby origin c s) (c := c) hother hne
      exact ⟨.empty, hnew.exec_cue (htake.trans hheard), fun b h => absurd h (hother b), fun _ _ => rfl,
        fun _ hr => absurd hr hne⟩
    · have hne : s.sc.state ≠ .catchup := by
        rw [hs]
        decide
      have hin : s.cq.incoming = [] := (hquiet.resolve_left hb).resolve_right hne
      have hheard := takeStandby_of_run (s := heardCue groups p .standby origin c s) (c := c) hother hs hin
      exact ⟨_, hnew.exec_cue (htake.trans hheard), fun b h => absurd h (hother b), fun _ hc => absurd hc hne,
        fun _ _ => ⟨bufferAtRest_of_none (s := standbyAt c (heardCue groups p .standby origin c s)), fun n =>
          bufferAtRest_of_some (s := standbyAt c (heardCue groups p .standby origin c s))⟩⟩

/-! ## A FIRE accepted (R45) -/

/-- The state with the expander's own parts written (R34, R48). -/
def served (incoming : List GoEntry) (buffer : StandbyBuffer) (commits : List ExpandedCue) (s : State) : State :=
  { s with cq := { s.cq with incoming := incoming, buffer := buffer }, fe := { s.fe with commits := commits } }

theorem serveExpander_frame (turns : Nat) : ∀ s : State, ∃ i b cm, serveExpander turns s = served i b cm s := by
  induction turns with
  | zero => exact fun s => ⟨_, _, _, rfl⟩
  | succ turns ih =>
    intro s
    unfold serveExpander
    split
    · split
      · split
        · exact ih _
        · exact ⟨_, _, _, rfl⟩
      · split
        · exact ⟨_, _, _, rfl⟩
        · exact ⟨_, _, _, rfl⟩
    · exact ⟨_, _, _, rfl⟩

theorem runExpander_frame (s : State) : ∃ i b cm, runExpander s = served i b cm s := serveExpander_frame _ s

theorem bufferOnFire_frame (c : CueNumber) (s : State) : ∃ i b cm, bufferOnFire c s = served i b cm s := by
  unfold bufferOnFire
  split
  · split
    · exact ⟨_, _, _, rfl⟩
    · exact ⟨_, _, _, rfl⟩
  · split
    · exact ⟨_, _, _, rfl⟩
    · exact ⟨_, _, _, rfl⟩
  · exact ⟨_, _, _, rfl⟩
  · exact ⟨_, _, _, rfl⟩

section Accepted

variable {c : CueNumber} {n : Nat} {origin : OriginKind}

/-- The cue joins the queue and becomes the last fired cue (R45, R47). -/
def entered (c : CueNumber) (s : State) : State :=
  { s with cq := { s.cq with
    incoming := s.cq.incoming ++ [{ cue := c, expanding := false }], last := some c, since := 0 } }

/-- The standby and the follow timer after the cue, and its event (R45, R51). -/
def cueTaken (c : CueNumber) (n : Nat) (origin : OriginKind) (s : State) : State :=
  post .cueFired c (originPair n origin)
    { s with cq := { s.cq with standby := nextCueAfter (cueTable s) c, follow := followArmed c s } }

/-- An accepted FIRE before its follow may expire (R45). -/
def expanded (c : CueNumber) (n : Nat) (origin : OriginKind) (s : State) : State :=
  runExpander (cueTaken c n origin (bufferOnFire c (entered c s)))

theorem acceptFire_eq : acceptFire c n origin s = expireAtOnce (expanded c n origin s) := rfl

/-- What an accepted FIRE writes, but for the expander's parts (R45). -/
theorem expanded_frame (c : CueNumber) (n : Nat) (origin : OriginKind) (s : State) : ∃ i b cm,
    expanded c n origin s = { s with
      cq := { s.cq with
        last := some c, since := 0, standby := nextCueAfter (cueTable s) c, follow := followArmed c s
        incoming := i, buffer := b }
      fe := { s.fe with commits := cm }
      lp := (post .cueFired c (originPair n origin) s).lp } := by
  obtain ⟨i, b, cm, hb⟩ := bufferOnFire_frame c (entered c s)
  obtain ⟨i', b', cm', hr⟩ := runExpander_frame (cueTaken c n origin (bufferOnFire c (entered c s)))
  refine ⟨i', b', cm', ?_⟩
  rw [expanded, hr, hb]
  rfl

/-- The parts of the expander after an accepted FIRE, by what it was doing (R35, R48). -/
theorem expanded_of_catchup (hs : s.sc.state ≠ .run) (hb : s.cq.buffer = .empty) :
    expanded c n origin s = cueTaken c n origin (entered c s) := by
  have hbuffer : bufferOnFire c (entered c s) = entered c s := by
    simp only [bufferOnFire, entered, hb]
  rw [expanded, hbuffer]
  exact runExpander_of_not_run hs

theorem expanded_of_expanding {b : CueNumber} (hb : s.cq.buffer = .expanding b) :
    expanded c n origin s = cueTaken c n origin (entered c s) := by
  have hbuffer : bufferOnFire c (entered c s) = entered c s := by
    simp only [bufferOnFire, entered, hb]
  rw [expanded, hbuffer]
  refine runExpander_of_busy ?_
  simp [cueTaken, entered, hb]

/-- A buffer that holds nothing of the cue is EMPTY before the expander looks at the queue (R35). -/
theorem bufferOnFire_of_others (h : s.cq.buffer = .empty
    ∨ ∃ b, b ≠ c ∧ (s.cq.buffer = .prefetching b ∨ ∃ moves, s.cq.buffer = .prefetched b moves)) :
    bufferOnFire c s = { s with cq := { s.cq with buffer := .empty } } := by
  rcases h with hb | ⟨b, hne, hb | ⟨moves, hb⟩⟩
  · simp only [bufferOnFire, hb]
    rw [← hb]
  · simp only [bufferOnFire, hb, if_neg hne]
  · simp only [bufferOnFire, hb, if_neg hne]

theorem bufferOnFire_of_prefetched {moves : List Move} (hb : s.cq.buffer = .prefetched c moves) :
    bufferOnFire c s = handOff c moves s := by
  simp only [bufferOnFire, hb, if_true]

theorem bufferOnFire_of_prefetching (hb : s.cq.buffer = .prefetching c) : bufferOnFire c s = beginExpansion c s := by
  simp only [bufferOnFire, hb, if_true]

/-- The cue in the queue with no prefetch standing (R35). -/
def enteredAlone (c : CueNumber) (s : State) : State :=
  { entered c s with cq := { (entered c s).cq with buffer := .empty } }

theorem expanded_of_prefetched {moves : List Move} (hs : s.sc.state = .run) (hin : s.cq.incoming = [])
    (hb : s.cq.buffer = .prefetched c moves) :
    ∃ u, u = cueTaken c n origin (handOff c moves (entered c s))
      ∧ expanded c n origin s = { u with cq := { u.cq with buffer := bufferAtRest u } } := by
  refine ⟨_, rfl, ?_⟩
  rw [expanded, bufferOnFire_of_prefetched (s := entered c s) hb]
  refine runExpander_of_none ⟨hs, rfl⟩ ?_
  simp [cueTaken, handOff, entered, hin]

theorem expanded_of_empty (hs : s.sc.state = .run) (hin : s.cq.incoming = []) (hm : movesOf (cueTable s) c = [])
    (hb : s.cq.buffer = .empty
      ∨ ∃ b, b ≠ c ∧ (s.cq.buffer = .prefetching b ∨ ∃ moves, s.cq.buffer = .prefetched b moves)) :
    ∃ u, u = cueTaken c n origin (enteredAlone c s)
      ∧ expanded c n origin s = { emptiesHanded [{ cue := c, expanding := false }] [] u with
        cq := { (emptiesHanded [{ cue := c, expanding := false }] [] u).cq with buffer := bufferAtRest u } } := by
  refine ⟨_, rfl, ?_⟩
  rw [expanded, bufferOnFire_of_others (s := entered c s) hb]
  refine runExpander_to_rest (s := cueTaken c n origin (enteredAlone c s)) ⟨hs, rfl⟩ ?_ ?_
  · simp [cueTaken, enteredAlone, entered, hin]
  · rintro x hx
    rw [List.mem_singleton.mp hx]
    exact hm

/-- A cue with moves to read is expanded (R35, R48). -/
theorem expanded_of_moves (hs : s.sc.state = .run) (hin : s.cq.incoming = []) (hm : movesOf (cueTable s) c ≠ [])
    (hb : s.cq.buffer = .empty ∨ s.cq.buffer = .prefetching c
      ∨ ∃ b, b ≠ c ∧ (s.cq.buffer = .prefetching b ∨ ∃ moves, s.cq.buffer = .prefetched b moves)) :
    (expanded c n origin s).cq.incoming = [{ cue := c, expanding := true }]
      ∧ (expanded c n origin s).cq.buffer = .expanding c ∧ (expanded c n origin s).fe = s.fe := by
  by_cases hp : s.cq.buffer = .prefetching c
  · rw [expanded, bufferOnFire_of_prefetching (s := entered c s) hp, runExpander_of_busy (by simp [cueTaken, beginExpansion])]
    refine ⟨?_, rfl, rfl⟩
    simp [cueTaken, beginExpansion, entered, hin, markHead]
  · rw [expanded, bufferOnFire_of_others (s := entered c s) (hb.imp_right (Or.resolve_left · hp))]
    have hmoves : runExpander (cueTaken c n origin (enteredAlone c s)) = beginExpansion c
        (emptiesHanded [] [{ cue := c, expanding := false }] (cueTaken c n origin (enteredAlone c s))) := by
      refine runExpander_to_moves (empties := []) (e := { cue := c, expanding := false }) ⟨hs, rfl⟩ ?_ (by simp) hm
      simp [cueTaken, enteredAlone, entered, hin]
    refine (congrArg (fun u : State => u.cq.incoming = [{ cue := c, expanding := true }]
      ∧ u.cq.buffer = .expanding c ∧ u.fe = s.fe) hmoves).mpr ⟨rfl, rfl, ?_⟩
    simp [beginExpansion, emptiesHanded, cueTaken, enteredAlone, entered]

/-- The follow an accepted FIRE arms, in microseconds (R51). -/
theorem followArmed_eq (c : CueNumber) (s : State) : followArmed c s =
    ((recordOf (cueTable s) c).bind (·.follow)).map (fun f =>
      { target := f.target, left := if cannotSend s = true ∧ f.delay = 0 then 1000 else f.delay * 10000 }) := by
  rw [followArmed]
  cases (recordOf (cueTable s) c).bind (·.follow) with
  | none => rfl
  | some f =>
    have hleft : (if (cannotSend s && f.delay == 0) = true then Config.shortFollow else showTime f.delay)
        = if cannotSend s = true ∧ f.delay = 0 then 1000 else f.delay * 10000 := by
      refine if_congr (by simp) rfl ?_
      show 10 * f.delay * 1000 = f.delay * 10000
      ring
    exact congrArg some (congrArg (FollowTimer.mk f.target) hleft)

/-- A follow armed with 0 stands on a station that can send (R51). -/
theorem canSend_of_followArmed {f : FollowTimer} (h : followArmed c s = some f) (h0 : f.left = 0) : cannotSend s = false := by
  rw [followArmed_eq, Option.map_eq_some_iff] at h
  obtain ⟨x, -, rfl⟩ := h
  by_contra hc
  rw [Bool.not_eq_false] at hc
  by_cases hd : x.delay = 0
  · exact absurd ((if_pos ⟨hc, hd⟩).symm.trans h0) (by decide)
  · have hleft : x.delay * 10000 = 0 := (if_neg (fun h => hd h.2)).symm.trans h0
    omega

end Accepted

/-- The follow timer disarmed (R52). -/
def disarmed (s : State) : State := { s with cq := { s.cq with follow := none } }

/-- A follow that is not at 0 in RUN does not expire at the acceptance (R52). -/
theorem expireAtOnce_of_later (h : ¬(s.sc.state = .run ∧ ∃ f, s.cq.follow = some f ∧ f.left = 0)) : expireAtOnce s = s := by
  unfold expireAtOnce
  split
  next f hf =>
    refine if_neg fun hcond => h ?_
    simp only [Bool.and_eq_true, decide_eq_true_eq] at hcond
    exact ⟨hcond.1.1.2, f, hf, hcond.1.1.1⟩
  · rfl

theorem expireAtOnce_of_now {f : FollowTimer} (hs : s.sc.state = .run) (hf : s.cq.follow = some f) (h0 : f.left = 0)
    (he : s.sp.effective = .none) (hc : cannotSend s = false) :
    expireAtOnce s = requestFire f.target .follow (disarmed s) := by
  simp only [expireAtOnce, hf]
  exact if_pos (by simp [h0, hs, not_stopped_of_none he, hc])

/-- What the expiry of a follow at the acceptance may write (R52, R53). -/
theorem expireAtOnce_frame (s : State) : ∃ follow outgoing lp, expireAtOnce s =
    { s with cq := { s.cq with follow := follow, outgoing := outgoing }, lp := lp } := by
  unfold expireAtOnce
  split
  next f hf =>
    split
    · obtain ⟨outgoing, lp, hr⟩ := requestFire_frame f.target .follow (disarmed s)
      exact ⟨_, outgoing, lp, hr⟩
    · exact ⟨_, _, _, rfl⟩
  · exact ⟨_, _, _, rfl⟩

/-- Settles O19: the acceptance step by step, the follow it arms, and what the expander was doing. -/
theorem fireFrameIsAccepted : Obligations.FireFrameIsAccepted := by
  intro groups p repeated origin c s hresult hfresh hreads hother hpresent hs he hroom hg follow waiting fired now standby
  have hnew : NewFrame groups p repeated (.cue .fire origin c) s := ⟨hresult, hfresh, hreads, hother, hpresent⟩
  obtain ⟨heard, hheard⟩ : ∃ u, u = heardCue groups p .fire origin c s := ⟨_, rfl⟩
  have htake : takeCue .fire c (peerNumber p) origin heard = expireAtOnce (expanded c (peerNumber p) origin heard) := by
    rw [hheard, takeCue_fire (s := heardCue groups p .fire origin c s) hs,
      takeFire_of_room (s := heardCue groups p .fire origin c s) (guardAbsorbs_of_open hg) he hroom, acceptFire_eq]
  obtain ⟨i, b, cm, hw⟩ := expanded_frame c (peerNumber p) origin heard
  have hlp : (post .cueFired c (originPair (peerNumber p) origin) heard).lp = fired.lp := by
    rw [hheard]
    exact post_lp_of_stamp _ _ _ rfl rfl rfl
  have hfollow : followArmed c heard = follow := by
    rw [followArmed_eq, hheard]
    rfl
  obtain ⟨follow', outgoing', lp', ht⟩ := expireAtOnce_frame (expanded c (peerNumber p) origin heard)
  have hstate : (expanded c (peerNumber p) origin heard).sc.state = s.sc.state := by
    rw [hw, hheard]
    rfl
  have harmed : (expanded c (peerNumber p) origin heard).cq.follow = follow := by
    rw [hw]
    exact hfollow
  have heffective : (expanded c (peerNumber p) origin heard).sp.effective = .none := by
    rw [hw, hheard]
    exact he
  have hsend : cannotSend (expanded c (peerNumber p) origin heard) = cannotSend heard := by
    rw [hw]
    rfl
  have houtgoing : (expanded c (peerNumber p) origin heard).cq.outgoing = waiting := by
    rw [hw, hheard]
    rfl
  have hevents : (expanded c (peerNumber p) origin heard).lp = fired.lp := by
    rw [hw]
    exact hlp
  refine ⟨expireAtOnce (expanded c (peerNumber p) origin heard), hnew.exec_cue (hheard ▸ htake), ?_, ?_, ?_,
    fun hlater => ?later, fun f hnow hf => ?now, ?_, ?_, ?_, ?_, ?_, ?_, ?_, ?_, ?_, ?_, fun hcatch hb => ?catchup,
    fun hrun b hb => ?expanding, fun hrun hin moves hb => ?prefetched, fun hrun hin hm hb => ?empty,
    fun hrun hin hm hb => ?moves⟩
  case later =>
    have hnot : ¬((expanded c (peerNumber p) origin heard).sc.state = .run
        ∧ ∃ f, (expanded c (peerNumber p) origin heard).cq.follow = some f ∧ f.left = 0) := by
      rw [hstate, harmed]
      exact hlater
    rw [expireAtOnce_of_later hnot]
    exact ⟨harmed, houtgoing, hevents⟩
  case now =>
    obtain ⟨hrun, g, hg, h0⟩ := hnow
    obtain rfl : f = g := Option.some.inj (hf.symm.trans hg)
    have hnow := expireAtOnce_of_now (hstate.trans hrun) (harmed.trans hf) h0 heffective
      (hsend.trans (canSend_of_followArmed (hfollow.trans hf) h0))
    rw [hnow]
    refine ⟨?_, fun hdup => ?_, fun hnone => ⟨fun hl => ?_, fun hl => ?_⟩⟩
    · obtain ⟨outgoing, lp, hframe⟩ :=
        requestFire_frame f.target .follow (disarmed (expanded c (peerNumber p) origin heard))
      rw [hframe]
      rfl
    · rw [requestFire_of_duplicate (houtgoing.symm ▸ hdup)]
      exact ⟨houtgoing, hevents⟩
    · rw [requestFire_of_room (houtgoing.symm ▸ hnone) (houtgoing.symm ▸ hl)]
      exact ⟨congrArg (· ++ _) houtgoing, hevents⟩
    · rw [requestFire_of_full (houtgoing.symm ▸ hnone) (houtgoing.symm ▸ hl)]
      have hnumber : (expanded c (peerNumber p) origin heard).sc.number = s.sc.number := by
        rw [hw, hheard]
        rfl
      have hown : ownOrigin (disarmed (expanded c (peerNumber p) origin heard)) .follow = s.sc.number.val * 4 + 2 :=
        congrArg (fun n : Station => n.val * 4 + 2) hnumber
      rw [hown]
      refine ⟨houtgoing, post_lp_of_stamp (s := fired) (t := disarmed (expanded c (peerNumber p) origin heard)) _ _ _ hevents ?_ ?_⟩
      · show (expanded c (peerNumber p) origin heard).sc.stamp = _
        rw [hw, hheard]
        rfl
      · show (expanded c (peerNumber p) origin heard).sm = _
        rw [hw, hheard]
        rfl
  case catchup =>
    have hne : s.sc.state ≠ .run := by
      rw [hcatch]
      decide
    rw [ht, hheard, expanded_of_catchup (s := heardCue groups p .fire origin c s) hne hb]
    exact ⟨rfl, hb, rfl⟩
  case expanding =>
    rw [ht, hheard, expanded_of_expanding (s := heardCue groups p .fire origin c s) hb]
    exact ⟨rfl, hb, rfl⟩
  case prefetched =>
    obtain ⟨u, hu, hexp⟩ := expanded_of_prefetched (n := peerNumber p) (origin := origin)
      (s := heardCue groups p .fire origin c s) hrun hin hb
    have hstandby : u.cq.standby = nextCueAfter (cueTable s) c := by
      rw [hu]
      rfl
    have htable : cueTable u = cueTable s := by
      rw [hu]
      rfl
    rw [ht, hheard, hexp]
    refine ⟨?_, ?_, fun h => bufferAtRest_of_none (hstandby.trans h), fun n h => ?_⟩
    · rw [hu]
      show (s.cq.incoming ++ [_]).tail = []
      rw [hin]
      rfl
    · rw [hu]
      rfl
    · rw [← htable]
      exact bufferAtRest_of_some (hstandby.trans h)
  case empty =>
    obtain ⟨u, hu, hexp⟩ := expanded_of_empty (n := peerNumber p) (origin := origin)
      (s := heardCue groups p .fire origin c s) hrun hin hm hb
    have hstandby : u.cq.standby = nextCueAfter (cueTable s) c := by
      rw [hu]
      rfl
    have htable : cueTable u = cueTable s := by
      rw [hu]
      rfl
    rw [ht, hheard, hexp]
    refine ⟨rfl, ?_, fun h => bufferAtRest_of_none (hstandby.trans h), fun n h => ?_⟩
    · rw [hu]
      rfl
    · rw [← htable]
      exact bufferAtRest_of_some (hstandby.trans h)
  case moves =>
    rw [ht, hheard]
    exact expanded_of_moves (s := heardCue groups p .fire origin c s) hrun hin hm hb
  all_goals rw [ht, hw, hheard] <;> rfl

/-! ## GO, FIRE and STANDBY of the port (R36, R38) -/

section CueCommands

variable {kind : CueKind} {c : CueNumber} {arg : BitVec 24}

theorem cueArgument_of_number (h1 : 1 ≤ arg.toNat) (h2 : arg.toNat ≤ 99999) : cueArgument arg = some arg.toNat :=
  if_pos (by simp [isCueNumber, h1, h2])

theorem cueArgument_of_outside (h : arg.toNat = 0 ∨ 99999 < arg.toNat) : cueArgument arg = none :=
  if_neg (by simp [isCueNumber]; omega)

theorem portRequest_of_duplicate (h : ∃ r ∈ s.cq.outgoing, r.kind = kind ∧ r.cue = c) :
    portRequest kind c s = answerOnly .ok s := by
  obtain ⟨r, hr, hrc⟩ := h
  rcases offerRequest_cases s kind c .port with ⟨he, -⟩ | ⟨-, -, hn⟩ | ⟨-, -, hn⟩
  · rw [portRequest, he]
  · exact absurd hrc (hn r hr)
  · exact absurd hrc (hn r hr)

theorem portRequest_of_room (h : ∀ r ∈ s.cq.outgoing, ¬(r.kind = kind ∧ r.cue = c)) (hl : s.cq.outgoing.length < 4) :
    portRequest kind c s = answerOnly .ok { s with cq := { s.cq with
      outgoing := s.cq.outgoing ++ [{ kind := kind, cue := c, origin := .port, sent := false }] } } := by
  rcases offerRequest_cases s kind c .port with ⟨-, r, hr, hrc⟩ | ⟨-, hfull, -⟩ | ⟨he, -, -⟩
  · exact absurd hrc (h r hr)
  · omega
  · rw [portRequest, he]

theorem portRequest_of_full (h : ∀ r ∈ s.cq.outgoing, ¬(r.kind = kind ∧ r.cue = c)) (hl : 4 ≤ s.cq.outgoing.length) :
    portRequest kind c s = answerOnly .full s := by
  rcases offerRequest_cases s kind c .port with ⟨-, r, hr, hrc⟩ | ⟨he, -, -⟩ | ⟨-, hroom, -⟩
  · exact absurd hrc (h r hr)
  · rw [portRequest, he]
  · omega

theorem byStateRow_cue (hp : s.lp.port = .reading) (hs : s.sc.state = .run) (own : State) : byStateRow .cue s own = own :=
  byStateRow_own hp (by rw [hs]; rfl) own

/-- GO in RUN on a station that can send (R38). -/
theorem portGo_of_stopped (hp : s.lp.port = .reading) (hs : s.sc.state = .run) (hc : cannotSend s = false)
    (he : s.sp.effective ≠ .none) : portGo s = answerOnly .stopped s := by
  rw [portGo, byStateRow_cue hp hs, if_neg (by simp [hc]), if_pos (stopped_of_ne he)]

theorem portGo_of_no_standby (hp : s.lp.port = .reading) (hs : s.sc.state = .run) (hc : cannotSend s = false)
    (he : s.sp.effective = .none) (hn : s.cq.standby = none) :
    portGo s = answerOnly .ok (post .endOfList (cueCode s.cq.last) (ownOrigin s .port) s) := by
  rw [portGo, byStateRow_cue hp hs, if_neg (by simp [hc]), if_neg (by simp [not_stopped_of_none he]), hn]

theorem portGo_of_standby (hp : s.lp.port = .reading) (hs : s.sc.state = .run) (hc : cannotSend s = false)
    (he : s.sp.effective = .none) (hn : s.cq.standby = some c) : portGo s = portRequest .fire c s := by
  rw [portGo, byStateRow_cue hp hs, if_neg (by simp [hc]), if_neg (by simp [not_stopped_of_none he]), hn]

/-- FIRE in RUN on a station that can send (R38). -/
theorem portFire_of_bad (hp : s.lp.port = .reading) (hs : s.sc.state = .run) (hc : cannotSend s = false)
    (ha : arg.toNat = 0 ∨ 99999 < arg.toNat) : portFire arg s = answerOnly .badArgument s := by
  rw [portFire, byStateRow_cue hp hs, if_neg (by simp [hc]), cueArgument_of_outside ha]

theorem portFire_of_stopped (hp : s.lp.port = .reading) (hs : s.sc.state = .run) (hc : cannotSend s = false)
    (h1 : 1 ≤ arg.toNat) (h2 : arg.toNat ≤ 99999) (he : s.sp.effective ≠ .none) :
    portFire arg s = answerOnly .stopped s := by
  rw [portFire, byStateRow_cue hp hs, if_neg (by simp [hc]), cueArgument_of_number h1 h2]
  exact if_pos (stopped_of_ne he)

theorem portFire_of_number (hp : s.lp.port = .reading) (hs : s.sc.state = .run) (hc : cannotSend s = false)
    (h1 : 1 ≤ arg.toNat) (h2 : arg.toNat ≤ 99999) (he : s.sp.effective = .none) :
    portFire arg s = portRequest .fire arg.toNat s := by
  rw [portFire, byStateRow_cue hp hs, if_neg (by simp [hc]), cueArgument_of_number h1 h2]
  exact if_neg (by simp [not_stopped_of_none he])

/-- STANDBY in RUN on a station that can send (R38). -/
theorem portStandby_of_bad (hp : s.lp.port = .reading) (hs : s.sc.state = .run) (hc : cannotSend s = false)
    (ha : arg.toNat = 0 ∨ 99999 < arg.toNat) : portStandby arg s = answerOnly .badArgument s := by
  rw [portStandby, byStateRow_cue hp hs, if_neg (by simp [hc]), cueArgument_of_outside ha]

theorem portStandby_of_number (hp : s.lp.port = .reading) (hs : s.sc.state = .run) (hc : cannotSend s = false)
    (h1 : 1 ≤ arg.toNat) (h2 : arg.toNat ≤ 99999) : portStandby arg s = portRequest .standby arg.toNat s := by
  rw [portStandby, byStateRow_cue hp hs, if_neg (by simp [hc]), cueArgument_of_number h1 h2]

/-- What a cue command answers where it may not act: outside RUN by the state row, in RUN on a station that cannot send
(R38, R172). -/
theorem byStateRow_cue_refused (hp : s.lp.port = .reading) (h : s.sc.state ≠ .run ∨ cannotSend s = true) (own : State) :
    byStateRow .cue s (if cannotSend s then answerOnly .wrongState s else own) =
      answerOnly (if s.sc.state = .validating then .busy else .wrongState) s := by
  by_cases hrun : s.sc.state = .run
  · rw [byStateRow_cue hp hrun, if_pos (h.resolve_left (not_not_intro hrun)), if_neg (by rw [hrun]; decide)]
  · by_cases hv : s.sc.state = .validating
    · rw [if_pos hv]
      exact byStateRow_answer hp (by rw [hv]; rfl) _
    · rw [if_neg hv]
      refine byStateRow_answer hp ?_ _
      cases hs : s.sc.state
      case run => exact absurd hs hrun
      case validating => exact absurd hs hv
      all_goals rfl

end CueCommands

/-- Settles O18, by the tests of R38 in their order and by what the queue makes of the request. -/
theorem portCueCommandsOfferRequests : Obligations.PortCueCommandsOfferRequests := by
  refine ⟨fun command kind c s hp hs hc h1 h2 hcommand => ?_, fun command s hp hcommand => ⟨fun h => ?_, fun hs hc => ?_⟩⟩
  · have hrequest : exec command s = .next (settle (portRequest kind c s)) := by
      rcases hcommand with ⟨arg, rfl, harg, rfl, he⟩ | ⟨arg, rfl, harg, rfl⟩ | ⟨rfl, hstandby, rfl, he⟩
      · subst harg
        exact congrArg (fun t => Host.Outcome.next (settle t)) (portFire_of_number hp hs hc h1 h2 he)
      · subst harg
        exact congrArg (fun t => Host.Outcome.next (settle t)) (portStandby_of_number hp hs hc h1 h2)
      · exact congrArg (fun t => Host.Outcome.next (settle t)) (portGo_of_standby hp hs hc he hstandby)
    have next {u : State} (h : portRequest kind c s = u) : exec command s = .next (settle u) :=
      hrequest.trans (congrArg (fun t => Host.Outcome.next (settle t)) h)
    exact ⟨fun h => next (portRequest_of_duplicate h),
      fun h => ⟨fun hl => next (portRequest_of_room h hl), fun hl => next (portRequest_of_full h hl)⟩⟩
  · rcases hcommand with rfl | ⟨arg, rfl⟩ | ⟨arg, rfl⟩ <;>
      exact congrArg (fun t => Host.Outcome.next (settle t)) (byStateRow_cue_refused hp h _)
  · refine ⟨fun arg ha hout => ?_, fun he ha => ?_, fun he ha hn => ?_⟩
    · rcases ha with rfl | rfl
      · exact congrArg (fun t => Host.Outcome.next (settle t)) (portFire_of_bad hp hs hc hout)
      · exact congrArg (fun t => Host.Outcome.next (settle t)) (portStandby_of_bad hp hs hc hout)
    · rcases ha with rfl | ⟨arg, rfl, h1, h2⟩
      · exact congrArg (fun t => Host.Outcome.next (settle t)) (portGo_of_stopped hp hs hc he)
      · exact congrArg (fun t => Host.Outcome.next (settle t)) (portFire_of_stopped hp hs hc h1 h2 he)
    · subst ha
      exact congrArg (fun t => Host.Outcome.next (settle t)) (portGo_of_no_standby hp hs hc he hn)

end Sys2Proof.Machine
end

section
/-!
PROOFS. Frames on the wire (7.1, 11.2): the checks on a frame as read and the fields no value has.
-/

namespace Sys2Proof.Machine

/-! ## The checks of R128 in their order -/

section Checks

variable {groups : List (BitVec 5)}

/-- The bytes of a frame as read. -/
def bytesRead (groups : List (BitVec 5)) : List Byte := groupBytes (groupsRead groups)

/-- The bytes the CRC covers: the arbitration byte and the payload. -/
def bodyRead (groups : List (BitVec 5)) : List Byte := (bytesRead groups).take (payloadLength (classRead groups) + 1)

/-- The CRC is that of the bytes before it (R180). -/
def CrcRight (groups : List (BitVec 5)) : Prop :=
  (crc (bodyRead groups)).toNat = numberOf ((bytesRead groups).drop (payloadLength (classRead groups) + 1))

theorem guardSound_iff (g : BitVec 5) : guardSound g = true ↔ g.getLsbD 0 ≠ g.getLsbD 1 := bne_iff_ne

theorem readFrame_of_guard (h : ∃ g ∈ groupsRead groups, guardSound g = false) :
    (readFrame groups).result = .error .guard := by
  refine if_pos ?_
  simpa [List.any_eq_true] using h

/-- A frame with sound guard bits is rejected or taken for its bytes (R128). -/
theorem readFrame_of_sound (h : ∀ g ∈ groupsRead groups, guardSound g = true) : (readFrame groups).result =
    if (crc (bodyRead groups)).toNat != numberOf ((bytesRead groups).drop (payloadLength (classRead groups) + 1)) then
      .error .crc
    else match readPayload (classRead groups) ((bodyRead groups).drop 1) with
      | none => .error .field
      | some payload =>
        match toPeer? (readFrame groups).station with
        | none => .error .senderZero
        | some sender => .ok (sender, ((bytesRead groups).headD 0).getLsbD 0, payload) := by
  refine (if_neg ?_).trans rfl
  simpa [List.any_eq_true] using h

theorem readFrame_of_crc (h : ∀ g ∈ groupsRead groups, guardSound g = true) (hc : ¬CrcRight groups) :
    (readFrame groups).result = .error .crc :=
  (readFrame_of_sound h).trans (if_pos (bne_iff_ne.mpr hc))

theorem readFrame_of_field (h : ∀ g ∈ groupsRead groups, guardSound g = true) (hc : CrcRight groups)
    (hf : readPayload (classRead groups) ((bodyRead groups).drop 1) = none) :
    (readFrame groups).result = .error .field := by
  refine (readFrame_of_sound h).trans ((if_neg (by simpa [CrcRight] using hc)).trans ?_)
  rw [hf]

theorem readFrame_of_sender {payload : Payload} (h : ∀ g ∈ groupsRead groups, guardSound g = true) (hc : CrcRight groups)
    (hf : readPayload (classRead groups) ((bodyRead groups).drop 1) = some payload) (h0 : (readFrame groups).station = 0) :
    (readFrame groups).result = .error .senderZero := by
  refine (readFrame_of_sound h).trans ((if_neg (by simpa [CrcRight] using hc)).trans ?_)
  rw [hf, h0]
  rfl

theorem readFrame_of_valid {payload : Payload} {p : Peer} (h : ∀ g ∈ groupsRead groups, guardSound g = true)
    (hc : CrcRight groups) (hf : readPayload (classRead groups) ((bodyRead groups).drop 1) = some payload)
    (hp : (readFrame groups).station = peerNumber p) :
    (readFrame groups).result = .ok (p, ((bytesRead groups).headD 0).getLsbD 0, payload) := by
  refine (readFrame_of_sound h).trans ((if_neg (by simpa [CrcRight] using hc)).trans ?_)
  rw [hf, hp, toPeer?_peerNumber]

end Checks

/-! ## The fields no value has (R180) -/

section Fields

variable (b hi lo : Byte)

/-- The cue number field of a CUE or STATE frame. -/
def cueField : Nat := b.toNat % 2 * 65536 + numberOf [hi, lo]

theorem cueField_eq : cueField b hi lo = b.toNat % 2 * 65536 + hi.toNat * 256 + lo.toNat := by
  simp [cueField, numberOf, Nat.add_assoc]

theorem isCueNumber_iff {n : Nat} : isCueNumber n = true ↔ 1 ≤ n ∧ n ≤ 99999 := by
  simp [isCueNumber]

theorem extract_ne_zero (start len : Nat) : (b.extractLsb' start len != 0#len) = true ↔ b.toNat / 2 ^ start % 2 ^ len ≠ 0 := by
  rw [bne_iff_ne, Ne, ← BitVec.toNat_inj, BitVec.extractLsb'_toNat, Nat.shiftRight_eq_div_pow]
  simp

theorem readPayload_stop_none : readPayload .stop [b] = none ↔ b.getLsbD 5 = true ∨ b.toNat % 32 = 0 := by
  simp only [readPayload, ite_eq_left_iff, reduceCtorEq, imp_false, not_not, Bool.or_eq_true, beq_iff_eq, Fin.ext_iff]
  rfl

/-- The tests of a CUE frame's fields before its origin kind (R180). -/
theorem cueTests : (b.extractLsb' 1 4 != 0#4 || !isCueNumber (cueField b hi lo)) = true ↔
    b.toNat / 2 % 16 ≠ 0 ∨ cueField b hi lo = 0 ∨ 99999 < cueField b hi lo := by
  rw [Bool.or_eq_true, extract_ne_zero, Bool.not_eq_true', ← Bool.not_eq_true, isCueNumber_iff]
  refine or_congr Iff.rfl ?_
  omega

/-- The origin kind of a code (R180). -/
def originOf? : Nat → Option OriginKind
  | 0 => some .key
  | 1 => some .port
  | 2 => some .follow
  | _ => none

theorem readPayload_cue : readPayload .cue [b, hi, lo] =
    if (b.extractLsb' 1 4 != 0#4 || !isCueNumber (cueField b hi lo)) = true then none
    else (originOf? (b.toNat / 32 % 4)).map (fun o =>
      .cue (if b.getLsbD 7 then .standby else .fire) o (cueField b hi lo)) := by
  refine if_congr Iff.rfl rfl ?_
  obtain h | h | h | h : b.toNat / 32 % 4 = 0 ∨ b.toNat / 32 % 4 = 1 ∨ b.toNat / 32 % 4 = 2 ∨ b.toNat / 32 % 4 = 3 := by
    omega
  all_goals simp only [h]; rfl

theorem readPayload_cue_none : readPayload .cue [b, hi, lo] = none ↔
    b.toNat / 2 % 16 ≠ 0 ∨ b.toNat / 32 % 4 = 3 ∨ cueField b hi lo = 0 ∨ 99999 < cueField b hi lo := by
  have horigin : originOf? (b.toNat / 32 % 4) = none ↔ b.toNat / 32 % 4 = 3 := by
    obtain h | h | h | h : b.toNat / 32 % 4 = 0 ∨ b.toNat / 32 % 4 = 1 ∨ b.toNat / 32 % 4 = 2 ∨ b.toNat / 32 % 4 = 3 := by
      omega
    all_goals simp [h, originOf?]
  rw [readPayload_cue, or_left_comm (a := _ ≠ 0), ← cueTests, ← horigin, or_comm]
  split <;> simp_all

end Fields

/-! ## Bytes and their groups (R123) -/

/-- The bits of a number put behind another's. -/
theorem toNat_append_eq {m n : Nat} (x : BitVec m) (y : BitVec n) : (x ++ y).toNat = x.toNat * 2 ^ n + y.toNat := by
  rw [BitVec.toNat_append, ← Nat.shiftLeft_add_eq_or_of_lt y.isLt, Nat.shiftLeft_eq]

theorem nibbleOf_groupOf : ∀ n : BitVec 4, nibbleOf (groupOf n) = n := by decide

theorem guardSound_groupOf : ∀ n : BitVec 4, guardSound (groupOf n) = true := by decide

theorem toNat_groupOf_div : ∀ n : BitVec 4, (groupOf n).toNat / 8 = n.toNat / 4 := by decide

theorem append_halves (b : Byte) : (b.extractLsb' 4 4 ++ b.extractLsb' 0 4 : Byte) = b := by
  refine BitVec.eq_of_toNat_eq ?_
  have := b.isLt
  rw [toNat_append_eq, BitVec.extractLsb'_toNat, BitVec.extractLsb'_toNat, Nat.shiftRight_eq_div_pow, Nat.shiftRight_zero]
  omega

theorem groupBytes_flatMap (bytes : List Byte) : groupBytes (bytes.flatMap byteGroups) = bytes := by
  induction bytes with
  | nil => rfl
  | cons b rest ih =>
    have hb : groupBytes ((b :: rest).flatMap byteGroups) =
        (nibbleOf (groupOf (b.extractLsb' 4 4)) ++ nibbleOf (groupOf (b.extractLsb' 0 4)))
          :: groupBytes (rest.flatMap byteGroups) := rfl
    rw [hb, ih, nibbleOf_groupOf, nibbleOf_groupOf, append_halves]

theorem guardSound_of_byteGroups {bytes : List Byte} {g : BitVec 5} (h : g ∈ bytes.flatMap byteGroups) :
    guardSound g = true := by
  obtain ⟨b, -, hg⟩ := List.mem_flatMap.mp h
  simp only [byteGroups, List.mem_cons, List.not_mem_nil, or_false] at hg
  rcases hg with rfl | rfl <;> exact guardSound_groupOf _

theorem length_flatMap_byteGroups (bytes : List Byte) : (bytes.flatMap byteGroups).length = 2 * bytes.length := by
  induction bytes with
  | nil => rfl
  | cons b rest ih =>
    rw [List.flatMap_cons, List.length_append, ih, List.length_cons]
    show 2 + _ = _
    omega

/-! ## The arbitration byte (R124) -/

section Arbitration

variable (cls : FrameClass) (sender : Station) (repeated : Bool)

theorem classCode_lt : cls.code < 4 := by cases cls <;> decide

theorem classOf_code : classOf cls.code = cls := by cases cls <;> rfl

theorem arbitrationByte_toNat : (arbitrationByte cls sender repeated).toNat =
    cls.code * 64 + sender.val * 2 + repeated.toNat := by
  have hc := classCode_lt cls
  have hs := sender.isLt
  rw [arbitrationByte, toNat_append_eq, toNat_append_eq, BitVec.toNat_ofBool, BitVec.toNat_ofNat, BitVec.toNat_ofNat]
  omega

theorem arbitrationByte_station : (arbitrationByte cls sender repeated).toNat / 2 % 32 = sender.val := by
  have hs := sender.isLt
  have hr := repeated.toNat_lt
  rw [arbitrationByte_toNat]
  omega

theorem arbitrationByte_repeated : (arbitrationByte cls sender repeated).getLsbD 0 = repeated := by
  rw [arbitrationByte, BitVec.getLsbD_append]
  cases repeated <;> rfl

/-- The class bits stand at the top of the first group (R124). -/
theorem classRead_arbitrationByte (rest : List (BitVec 5)) :
    classRead (groupOf ((arbitrationByte cls sender repeated).extractLsb' 4 4) :: rest) = cls := by
  have hcode : (groupOf ((arbitrationByte cls sender repeated).extractLsb' 4 4)).toNat / 8 = cls.code := by
    have hc := classCode_lt cls
    have hs := sender.isLt
    have hr := repeated.toNat_lt
    rw [toNat_groupOf_div, BitVec.extractLsb'_toNat, Nat.shiftRight_eq_div_pow, arbitrationByte_toNat]
    omega
  rw [classRead, List.headD_cons, hcode, classOf_code]

end Arbitration

/-- The class bits of a group, by themselves (R124, log 17). -/
theorem classRead_state_iff : ∀ g : BitVec 5, classRead [g] = .state ↔ g.getLsbD 4 = true ∧ g.getLsbD 3 = true := by
  decide

/-! ## The fields of a payload read back (R124, R180) -/

theorem getLsbD_eq_decide {n : Nat} (x : BitVec n) (i : Nat) : x.getLsbD i = decide (x.toNat / 2 ^ i % 2 = 1) := by
  rw [← BitVec.testBit_toNat, Nat.testBit_eq_decide_div_mod_eq]

/-- A bit of a byte by the number the byte holds. -/
theorem getLsbD_of_toNat {b : Byte} {i : Nat} {x : Bool} (h : b.toNat / 2 ^ i % 2 = x.toNat) : b.getLsbD i = x := by
  rw [getLsbD_eq_decide, h]
  cases x <;> rfl

theorem numberOf_bytes2 {n : Nat} (h : n < 65536) : numberOf (bytes2 n) = n := by
  simp only [numberOf, bytes2, List.foldl_cons, List.foldl_nil, byte1_toNat]
  omega

theorem length_payloadBytes (p : Payload) : (payloadBytes p).length = payloadLength (payloadClass p) := by cases p <;> rfl

/-- The values a frame may carry (R180). -/
def Admitted : Payload → Prop
  | .stop _ _ target => target ≠ 0
  | .cue _ _ c => 1 ≤ c ∧ c ≤ 99999
  | .group _ _ _ => True
  | .state _ _ _ last => ∀ c, last = some c → 1 ≤ c ∧ c ≤ 99999

theorem originOf?_code (origin : OriginKind) : originOf? (originCode origin) = some origin := by cases origin <;> rfl

theorem originCode_lt (origin : OriginKind) : originCode origin < 3 := by cases origin <;> decide

/-- The cue number of a frame in its 17 bits (R180). -/
theorem cueField_of_bytes {b : Byte} {c : Nat} (hb : b.toNat % 2 = c / 65536) :
    cueField b (byte1 (c / 256)) (byte1 c) = c := by
  rw [cueField_eq, byte1_toNat, byte1_toNat]
  omega

theorem readPayload_stop (release : Bool) (kind : StopKind) (target : Station) (h : target ≠ 0) :
    readPayload .stop (payloadBytes (.stop release kind target)) = some (.stop release kind target) := by
  revert h
  cases release <;> cases kind <;> revert target <;> decide

theorem readPayload_group (g : Group) (mute : Bool) (position : Position) :
    readPayload .group (payloadBytes (.group g mute position)) = some (.group g mute position) := by
  obtain ⟨b, hb⟩ : ∃ b : Byte, b = BitVec.ofNat 5 g.val ++ BitVec.ofBool mute ++ BitVec.ofNat 2 (position.val / 256) :=
    ⟨_, rfl⟩
  have hg := g.isLt
  have hp := position.isLt
  have hm := mute.toNat_lt
  have hnum : b.toNat = g.val * 8 + mute.toNat * 4 + position.val / 256 := by
    rw [hb, toNat_append_eq, toNat_append_eq, BitVec.toNat_ofBool, BitVec.toNat_ofNat, BitVec.toNat_ofNat]
    omega
  have hbytes : payloadBytes (.group g mute position) = [b, byte1 position.val] := by rw [hb]; rfl
  rw [hbytes]
  have hmute : b.getLsbD 2 = mute := getLsbD_of_toNat (by omega)
  have hgroup : b.toNat / 8 = g.val := by omega
  have hposition : b.toNat % 4 * 256 + (byte1 position.val).toNat = position.val := by
    rw [byte1_toNat]
    omega
  simp only [readPayload, hmute, hgroup, hposition]

theorem readPayload_cue_bytes (kind : CueKind) (origin : OriginKind) (c : Nat) (h1 : 1 ≤ c) (h2 : c ≤ 99999) :
    readPayload .cue (payloadBytes (.cue kind origin c)) = some (.cue kind origin c) := by
  obtain ⟨b, hb⟩ : ∃ b : Byte, b = BitVec.ofBool (kind == .standby) ++ BitVec.ofNat 2 (originCode origin) ++ 0#4
      ++ BitVec.ofNat 1 (c / 65536) := ⟨_, rfl⟩
  have ho := originCode_lt origin
  have hk := (kind == .standby).toNat_lt
  have hnum : b.toNat = (kind == .standby).toNat * 128 + originCode origin * 32 + c / 65536 := by
    rw [hb, toNat_append_eq, toNat_append_eq, toNat_append_eq, BitVec.toNat_ofBool, BitVec.toNat_ofNat,
      BitVec.toNat_ofNat, BitVec.toNat_ofNat]
    omega
  have hbytes : payloadBytes (.cue kind origin c) = [b, byte1 (c / 256), byte1 c] := by rw [hb]; rfl
  have hcue : cueField b (byte1 (c / 256)) (byte1 c) = c := cueField_of_bytes (by omega)
  have hkind : b.getLsbD 7 = (kind == .standby) := getLsbD_of_toNat (by omega)
  have horigin : b.toNat / 32 % 4 = originCode origin := by omega
  have htests : ¬(b.extractLsb' 1 4 != 0#4 || !isCueNumber (cueField b (byte1 (c / 256)) (byte1 c))) = true := by
    rw [cueTests, hcue]
    omega
  rw [hbytes, readPayload_cue, if_neg htests, horigin, originOf?_code, hkind, hcue]
  cases kind <;> rfl

/-- The tests of a STATE frame's fields (R180). -/
theorem stateTests (b hi lo : Byte) : (b.extractLsb' 1 3 != 0#3
    || (if b.getLsbD 4 = true then !isCueNumber (cueField b hi lo) else cueField b hi lo != 0)) = true ↔
      b.toNat / 2 % 8 ≠ 0 ∨ (b.getLsbD 4 = true ∧ (cueField b hi lo = 0 ∨ 99999 < cueField b hi lo))
        ∨ (b.getLsbD 4 = false ∧ cueField b hi lo ≠ 0) := by
  rw [Bool.or_eq_true, extract_ne_zero]
  refine or_congr Iff.rfl ?_
  cases b.getLsbD 4 with
  | true =>
    rw [if_pos rfl, Bool.not_eq_true', ← Bool.not_eq_true, isCueNumber_iff]
    simp
    omega
  | false => simp

theorem readPayload_state (b hi lo : Byte) : readPayload .state [b, hi, lo] =
    if (b.extractLsb' 1 3 != 0#3
      || (if b.getLsbD 4 = true then !isCueNumber (cueField b hi lo) else cueField b hi lo != 0)) = true then none
    else some (.state (b.getLsbD 7) (b.getLsbD 6) (b.getLsbD 5)
      (if b.getLsbD 4 = true then some (cueField b hi lo) else none)) := rfl

theorem readPayload_state_none (b hi lo : Byte) : readPayload .state [b, hi, lo] = none ↔
    b.toNat / 2 % 8 ≠ 0 ∨ (b.getLsbD 4 = true ∧ (cueField b hi lo = 0 ∨ 99999 < cueField b hi lo))
      ∨ (b.getLsbD 4 = false ∧ cueField b hi lo ≠ 0) := by
  rw [readPayload_state, ← stateTests]
  exact ⟨fun h => by_contra fun hn => absurd ((if_neg hn).symm.trans h) (Option.some_ne_none _), fun h => if_pos h⟩

theorem readPayload_state_bytes (solo stopA stopB : Bool) (last : Option Nat)
    (h : ∀ c, last = some c → 1 ≤ c ∧ c ≤ 99999) :
    readPayload .state (payloadBytes (.state solo stopA stopB last)) = some (.state solo stopA stopB last) := by
  obtain ⟨b, hb⟩ : ∃ b : Byte, b = BitVec.ofBool solo ++ BitVec.ofBool stopA ++ BitVec.ofBool stopB
      ++ BitVec.ofBool last.isSome ++ 0#3 ++ BitVec.ofNat 1 (last.getD 0 / 65536) := ⟨_, rfl⟩
  have h1 := solo.toNat_lt
  have h2 := stopA.toNat_lt
  have h3 := stopB.toNat_lt
  have h4 := last.isSome.toNat_lt
  have hc : last.getD 0 ≤ 99999 := by
    cases last with
    | none => exact Nat.zero_le _
    | some c => exact (h c rfl).2
  have hnum : b.toNat = solo.toNat * 128 + stopA.toNat * 64 + stopB.toNat * 32 + last.isSome.toNat * 16
      + last.getD 0 / 65536 := by
    simp only [hb, toNat_append_eq, BitVec.toNat_ofBool, BitVec.toNat_ofNat]
    omega
  have hbytes : payloadBytes (.state solo stopA stopB last)
      = [b, byte1 (last.getD 0 / 256), byte1 (last.getD 0)] := by rw [hb]; rfl
  have hcue : cueField b (byte1 (last.getD 0 / 256)) (byte1 (last.getD 0)) = last.getD 0 :=
    cueField_of_bytes (by omega)
  have hsolo : b.getLsbD 7 = solo := getLsbD_of_toNat (by omega)
  have hstopA : b.getLsbD 6 = stopA := getLsbD_of_toNat (by omega)
  have hstopB : b.getLsbD 5 = stopB := getLsbD_of_toNat (by omega)
  have hlast : b.getLsbD 4 = last.isSome := getLsbD_of_toNat (by omega)
  rw [hbytes, readPayload_state, if_neg, hsolo, hstopA, hstopB, hlast, hcue]
  · cases last <;> rfl
  · rw [stateTests, hlast, hcue]
    cases last with
    | none =>
      rintro (h | ⟨h, -⟩ | ⟨-, h⟩)
      · omega
      · cases h
      · exact h rfl
    | some c =>
      have hn := h c rfl
      rintro (h | ⟨-, h⟩ | ⟨h, -⟩)
      · omega
      · simp only [Option.getD_some] at h
        omega
      · cases h

/-- Every payload the layout admits reads back from its bytes (R180). -/
theorem readPayload_payloadBytes {payload : Payload} (h : Admitted payload) :
    readPayload (payloadClass payload) (payloadBytes payload) = some payload := by
  cases payload with
  | stop release kind target => exact readPayload_stop release kind target h
  | cue kind origin c => exact readPayload_cue_bytes kind origin c h.1 h.2
  | group g mute position => exact readPayload_group g mute position
  | state solo stopA stopB last => exact readPayload_state_bytes solo stopA stopB last h

/-! ## A frame sent reads back (R123, R124, R180) -/

section Sent

variable (sender : Station) (repeated : Bool) (payload : Payload)

/-- The bytes the CRC of a frame covers. -/
def frameBody : List Byte := arbitrationByte (payloadClass payload) sender repeated :: payloadBytes payload

theorem frameBytes_eq : frameBytes sender repeated payload =
    frameBody sender repeated payload ++ bytes2 (crc (frameBody sender repeated payload)).toNat := rfl

theorem length_frameBody : (frameBody sender repeated payload).length = payloadLength (payloadClass payload) + 1 := by
  rw [frameBody, List.length_cons, length_payloadBytes]

theorem length_frameGroups :
    (frameGroups sender repeated payload).length = 2 * (payloadLength (payloadClass payload) + 3) := by
  rw [frameGroups, length_flatMap_byteGroups, frameBytes_eq, List.length_append, length_frameBody]
  rfl

theorem classRead_frameGroups : classRead (frameGroups sender repeated payload) = payloadClass payload :=
  classRead_arbitrationByte _ _ _ _

/-- A frame of the length its class gives is read whole (R128). -/
theorem groupsRead_frameGroups : groupsRead (frameGroups sender repeated payload) = frameGroups sender repeated payload := by
  have hlen := length_frameGroups sender repeated payload
  simp only [groupsRead, classRead_frameGroups, ← hlen, List.take_length, Nat.sub_self, List.replicate_zero,
    List.append_nil]

theorem bytesRead_frameGroups : bytesRead (frameGroups sender repeated payload) = frameBytes sender repeated payload := by
  rw [bytesRead, groupsRead_frameGroups, frameGroups, groupBytes_flatMap]

theorem bodyRead_frameGroups : bodyRead (frameGroups sender repeated payload) = frameBody sender repeated payload := by
  rw [bodyRead, bytesRead_frameGroups, classRead_frameGroups, frameBytes_eq, ← length_frameBody sender repeated payload,
    List.take_left]

theorem crcRight_frameGroups : CrcRight (frameGroups sender repeated payload) := by
  rw [CrcRight, bodyRead_frameGroups, bytesRead_frameGroups, classRead_frameGroups, frameBytes_eq,
    ← length_frameBody sender repeated payload, List.drop_left, numberOf_bytes2 (BitVec.isLt _)]

theorem station_frameGroups : (readFrame (frameGroups sender repeated payload)).station = sender.val := by
  show ((bytesRead _).headD 0).toNat / 2 % 32 = _
  rw [bytesRead_frameGroups]
  exact arbitrationByte_station _ _ _

/-- A frame of a full station reads back as it was sent (R123, R124, R180). -/
theorem readFrame_frameGroups (p : Peer) (h : Admitted payload) :
    readFrame (frameGroups p.succ repeated payload)
      = { station := peerNumber p, result := .ok (p, repeated, payload) } := by
  have hsound : ∀ g ∈ groupsRead (frameGroups p.succ repeated payload), guardSound g = true := by
    rw [groupsRead_frameGroups]
    exact fun g => guardSound_of_byteGroups
  have hpayload : readPayload (classRead (frameGroups p.succ repeated payload))
      ((bodyRead (frameGroups p.succ repeated payload)).drop 1) = some payload := by
    rw [classRead_frameGroups, bodyRead_frameGroups]
    exact readPayload_payloadBytes h
  have hstation := station_frameGroups p.succ repeated payload
  have hresult := readFrame_of_valid hsound (crcRight_frameGroups _ _ _) hpayload hstation
  have hflag : ((bytesRead (frameGroups p.succ repeated payload)).headD 0).getLsbD 0 = repeated := by
    rw [bytesRead_frameGroups]
    exact arbitrationByte_repeated _ _ _
  rw [hflag] at hresult
  exact congrArg₂ FrameReading.mk hstation hresult

theorem frameGroupCount_frameGroups : (frameGroups sender repeated payload).length =
    frameGroupCount ((frameGroups sender repeated payload).headD 0) := by
  have hcode : classOf (((frameGroups sender repeated payload).headD 0).toNat / 8) = payloadClass payload :=
    classRead_frameGroups sender repeated payload
  rw [length_frameGroups, ← hcode, frameGroupCount]
  have hlt := ((frameGroups sender repeated payload).headD 0).isLt
  obtain h | h | h | h : ((frameGroups sender repeated payload).headD 0).toNat / 8 = 0
      ∨ ((frameGroups sender repeated payload).headD 0).toNat / 8 = 1
      ∨ ((frameGroups sender repeated payload).headD 0).toNat / 8 = 2
      ∨ ((frameGroups sender repeated payload).headD 0).toNat / 8 = 3 := by omega
  all_goals rw [h]; rfl

end Sent

/-- Settles O37, by the bytes of the frame and their groups. -/
theorem sentFrameReadsBack : Obligations.SentFrameReadsBack := by
  intro p repeated payload hstop hcue hstate
  have hadmitted : Admitted payload := by
    cases payload with
    | stop release kind target => exact hstop release kind target rfl
    | cue kind origin c => exact hcue kind origin c rfl
    | group g mute position => trivial
    | state solo a b last =>
      rintro c rfl
      exact hstate solo a b c rfl
  refine ⟨readFrame_frameGroups repeated payload p hadmitted, frameGroupCount_frameGroups _ _ _, fun s won hn hs hr => ?_,
    fun s => sentGroups_of_not_sending s⟩
  rw [sentGroups_of_sending s hs, ← hr, hn, readFrame_frameGroups repeated payload p hadmitted]
  rfl

end Sys2Proof.Machine
end

section
/-!
PROOFS. The show bus (chapter 7): the signalling states, bids and arbitration, the ends of own frames, and what becomes of
frames read.
-/

namespace Sys2Proof.Machine

variable {s t : State}

/-! ## Start bits, breaks and bus fault (R125, R137, R138) -/

/-- A dominant bit of an idle gap (R125). -/
theorem startBit_of_idle (hp : s.bc.phase = .idle) (hl : s.bc.lineHeld = false) : startBit s =
    if 16 ≤ s.bc.gap then { s with bc := { s.bc with phase := .receiving, run := 0 } }
    else { s with bc := { s.bc with lineHeld := true, run := s.bc.run + 1 } } := by
  simp only [startBit, hp, hl, Bool.false_eq_true, if_false]
  rfl

theorem startBit_of_fault (hp : s.bc.phase = .fault) : startBit s = { s with bc := { s.bc with quiet := 0 } } := by
  simp only [startBit, hp]

theorem startBit_of_others (h : s.bc.phase = .receiving ∨ s.bc.phase = .sending ∨ s.bc.phase = .broken
    ∨ (s.bc.phase = .idle ∧ s.bc.lineHeld = true)) : startBit s = s := by
  rcases h with h | h | h | ⟨h, hl⟩
  · simp only [startBit, h]
  · simp only [startBit, h]
  · simp only [startBit, h]
  · simp only [startBit, h, hl, if_true]

/-- A dominant run of 16 bit times, by the state of the bus (R137, R138). -/
theorem busBreak_of_idle (hp : s.bc.phase = .idle) : busBreak s =
    { s with bc := { s.bc with phase := .broken, lineHeld := true, run := max s.bc.run 16 } } := by
  simp only [busBreak, hp]
  rfl

theorem busBreak_of_receiving (hp : s.bc.phase = .receiving) : busBreak s =
    { s with bc := { s.bc with phase := .broken, lineHeld := true, run := 16 } } := by
  simp only [busBreak, hp]
  rfl

theorem busBreak_of_broken (hp : s.bc.phase = .broken) : busBreak s = { s with bc := { s.bc with lineHeld := true } } := by
  simp only [busBreak, hp]

theorem busBreak_of_fault (hp : s.bc.phase = .fault) : busBreak s =
    { s with bc := { s.bc with lineHeld := true, quiet := 0 } } := by
  simp only [busBreak, hp]

theorem busBreak_of_sending (hp : s.bc.phase = .sending) : busBreak s = s := by
  simp only [busBreak, hp]

/-- The bus returns recessive, by its state (R125, R137). -/
theorem busBreakEnd_of_run (hp : s.bc.phase = .idle) (hl : s.bc.lineHeld = true) : busBreakEnd s =
    { s with bc := { s.bc with gap := 0, run := 0, lineHeld := false } } := by
  simp only [busBreakEnd, hp, hl, if_true]

theorem busBreakEnd_of_broken (hp : s.bc.phase = .broken) : busBreakEnd s =
    { s with bc := { s.bc with phase := .idle, gap := 0, run := 0, lineHeld := false, drive := 0 } } := by
  simp only [busBreakEnd, hp]

theorem busBreakEnd_of_fault (hp : s.bc.phase = .fault) : busBreakEnd s =
    { s with bc := { s.bc with lineHeld := false } } := by
  simp only [busBreakEnd, hp]

theorem busBreakEnd_of_others (h : s.bc.phase = .receiving ∨ s.bc.phase = .sending
    ∨ (s.bc.phase = .idle ∧ s.bc.lineHeld = false)) : busBreakEnd s = s := by
  rcases h with h | h | ⟨h, hl⟩
  · simp only [busBreakEnd, h]
  · simp only [busBreakEnd, h]
  · simp only [busBreakEnd, h, hl, Bool.false_eq_true, if_false]

theorem busFault_of_not_broken (hp : s.bc.phase ≠ .broken) : busFault s = s := if_neg hp

theorem busRestored_of_not_fault (hp : s.bc.phase ≠ .fault) : busRestored s = s := if_neg hp

/-- The bus in FAULT: nothing is driven or sent, the counts of the frames in flight at 0, and no class is yielded
(R138). -/
def busFaulted (s : State) : State :=
  { s with bc := { s.bc with
    phase := .fault, drive := 0, quiet := 0, faultTime := 0, sending := none
    stopFlight := s.bc.stopFlight.map Flight.fresh
    cueFlight := s.bc.cueFlight.map Flight.fresh
    groupFlight := s.bc.groupFlight.map Flight.fresh
    stateFlight := s.bc.stateFlight.map Flight.fresh
    yieldGroup := false, yieldState := false } }

theorem busFault_of_broken (hp : s.bc.phase = .broken) : busFault s = post .busFault 0 0 (busFaulted s) := if_pos hp

theorem flightOf_busFaulted (s : State) (c : FrameClass) :
    flightOf (busFaulted s) c = (flightOf s c).map (fun f => { f with attempts := 0 }) := by
  cases c <;> rfl

/-- Settles O43, by the state of the bus each signal meets. -/
theorem busRunsBreaksAndFaults : Obligations.BusRunsBreaksAndFaults := by
  intro s
  have next {c : Instr} {f : State → State} {u : State} (hc : exec c s = .next (f s)) (h : f s = u) :
      exec c s = .next u := hc.trans (congrArg Host.Outcome.next h)
  have settled {c : Instr} {f : State → State} {u : State} (hc : exec c s = .next (settle (f s))) (h : f s = u) :
      exec c s = .next (settle u) := hc.trans (congrArg (fun v => Host.Outcome.next (settle v)) h)
  refine ⟨fun hp hl => ⟨fun hg => next rfl ((startBit_of_idle hp hl).trans (if_pos hg)),
      fun hg => next rfl ((startBit_of_idle hp hl).trans (if_neg (by omega)))⟩,
    fun hp => ⟨next rfl (startBit_of_fault hp), next rfl (busBreak_of_fault hp), next rfl (busBreakEnd_of_fault hp)⟩,
    fun hp => next rfl (busBreak_of_broken hp), fun hp => next rfl (busBreak_of_sending hp),
    fun h => next rfl (busBreakEnd_of_others h), fun h => next rfl (startBit_of_others h),
    fun hp => settled rfl (busFault_of_not_broken hp), fun hp => settled rfl (busRestored_of_not_fault hp),
    readsFrame_iff s, fun h groups => settled rfl (frameReceived_of_not_reads s groups h),
    fun hp => next rfl (busBreak_of_receiving hp), fun hp => next rfl (busBreak_of_idle hp),
    fun hp => next rfl (busBreakEnd_of_broken hp), fun hp hl => next rfl (busBreakEnd_of_run hp hl),
    fun hp => ⟨_, settled rfl (busFault_of_broken hp), post_lp_of_stamp _ _ _ rfl rfl rfl, flightOf_busFaulted s, rfl⟩,
    fun hp => ⟨_, settled rfl (if_pos hp), post_lp_of_stamp _ _ _ rfl rfl rfl, rfl⟩⟩

/-! ## Frames rejected (R128) -/

theorem frameReceived_of_error {groups : List (BitVec 5)} {fault : FrameFault}
    (hr : (readFrame groups).result = .error fault) (hreads : readsFrame s = true) :
    frameReceived groups s = rejectFrame fault (readFrame groups).station (frameOver (lastRun groups) s) := by
  simp [frameReceived, hreads, hr]

theorem guardSound_eq_false {g : BitVec 5} (h : g.getLsbD 0 = g.getLsbD 1) : guardSound g = false := by
  simpa [guardSound] using h

/-- Settles O41, by the checks in their order. -/
theorem rejectedFrameDrivesTheErrorFlag : Obligations.RejectedFrameDrivesTheErrorFlag := by
  refine ⟨fun groups s fault hreads hr => ?_, fun groups => ?_, fun b hi lo => ?_⟩
  · refine ⟨rejectFrame fault (readFrame groups).station (frameOver (lastRun groups) s),
      congrArg (fun t => Host.Outcome.next (settle t)) (frameReceived_of_error hr hreads), ?_, rfl⟩
    have hlp : (rejectFrame fault (readFrame groups).station (frameOver (lastRun groups) s)).lp =
        (post .frameError (frameFaultCode fault) (readFrame groups).station s).lp := post_lp_of_stamp _ _ _ rfl rfl rfl
    rw [hlp]
    cases fault <;> rfl
  · intro read bytes n
    refine ⟨fun ⟨g, hg, hbad⟩ => readFrame_of_guard ⟨g, hg, guardSound_eq_false hbad⟩, fun hsound => ?_⟩
    have hall : ∀ g ∈ groupsRead groups, guardSound g = true := fun g hg => (guardSound_iff g).mpr (hsound g hg)
    exact ⟨readFrame_of_crc hall, fun hcrc => ⟨readFrame_of_field hall hcrc, fun payload hpayload =>
      ⟨readFrame_of_sender hall hcrc hpayload, fun p hp => ⟨_, readFrame_of_valid hall hcrc hpayload hp⟩⟩⟩⟩
  · intro cue
    have hcue : cueField b hi lo = cue := cueField_eq b hi lo
    refine ⟨readPayload_stop_none b, ?_, by simp [readPayload], ?_⟩
    · rw [readPayload_cue_none, hcue]
    · rw [readPayload_state_none, hcue]

/-! ## Arbitration (R127, R129, R131, R136) -/

section Arbitration

variable {p : Payload}

theorem flightOf_of_sending (x : Option Sending) (c : FrameClass) :
    flightOf { s with bc := { s.bc with sending := x } } c = flightOf s c := by cases c <;> rfl

theorem winArbitration_of_flight {f : Flight} (hs : s.bc.sending = some { payload := p, won := false })
    (hf : flightOf s (payloadClass p) = some f) :
    winArbitration s = { s with bc := { s.bc with sending := some { payload := p, won := true } } } := by
  have hflight : flightOf { s with bc := { s.bc with sending := some { payload := p, won := true } } } (payloadClass p)
      = some f := (flightOf_of_sending _ _).trans hf
  simp only [winArbitration, hs, Bool.false_eq_true, if_false, hflight]

/-- A first win, with what the owner does at it (R39, R131, R153). -/
def firstWin (p : Payload) (s : State) : State :=
  setFlight { s with
      bc := { s.bc with sending := some { payload := p, won := true } }
      cq := { s.cq with outgoing := if payloadClass p = .cue then markSent s.cq.outgoing else s.cq.outgoing }
      sc := { s.sc with stateRequest := if payloadClass p = .state then false else s.sc.stateRequest } }
    (payloadClass p) (some { payload := p, attempts := 0, repeated := false })

theorem winArbitration_of_first (hs : s.bc.sending = some { payload := p, won := false })
    (hf : flightOf s (payloadClass p) = none) : winArbitration s = firstWin p s := by
  have hflight : flightOf { s with bc := { s.bc with sending := some { payload := p, won := true } } } (payloadClass p)
      = none := (flightOf_of_sending _ _).trans hf
  simp only [winArbitration, hs, Bool.false_eq_true, if_false, hflight]
  cases p <;> rfl

theorem winArbitration_of_won (hs : s.bc.sending = some { payload := p, won := true }) : winArbitration s = s := by
  simp only [winArbitration, hs, if_true]

theorem loseArbitration_of_sending (hs : s.bc.sending = some { payload := p, won := false }) :
    loseArbitration s = { s with bc := { s.bc with phase := .receiving, sending := none } } := by
  simp only [loseArbitration, hs, Bool.false_eq_true, if_false]

theorem arbitrationByteRead_of_reads {first second : BitVec 5} (h : readsFrame s = true) :
    arbitrationByteRead first second s =
      if classRead [first] = .state then
        { emptyNamedCopy first second s with bc := { (emptyNamedCopy first second s).bc with yieldGroup := false } }
      else emptyNamedCopy first second s := if_pos h

/-- A sound arbitration byte names its sender and class (R129). -/
theorem emptyNamedCopy_of_byte (cls : FrameClass) (q : Peer) (repeated : Bool) :
    emptyNamedCopy (groupOf ((arbitrationByte cls q.succ repeated).extractLsb' 4 4))
      (groupOf ((arbitrationByte cls q.succ repeated).extractLsb' 0 4)) s =
      if repeated = true then s else setCopy s q cls none := by
  have hpeer : toPeer? ((arbitrationByte cls q.succ repeated).toNat / 2 % 32) = some q := by
    rw [arbitrationByte_station]
    exact toPeer?_peerNumber q
  simp only [emptyNamedCopy, guardSound_groupOf, nibbleOf_groupOf, append_halves, arbitrationByte_repeated, hpeer,
    classRead_arbitrationByte, Bool.and_self]
  cases repeated <;> rfl

end Arbitration

/-- Settles O39, by the station's part in the arbitration. -/
theorem arbitrationIsWonLostOrHeard : Obligations.ArbitrationIsWonLostOrHeard := by
  refine ⟨fun s p hs => ⟨fun f hf => ?_, fun hf => ?_, ?_⟩, fun s first second => ⟨fun h => ?_, fun h hg => ?_⟩,
    fun s cls p repeated h => ?_⟩
  · exact congrArg Host.Outcome.next (winArbitration_of_flight hs hf)
  · refine ⟨firstWin p s, congrArg Host.Outcome.next (winArbitration_of_first hs hf), ?_, fun c hc => ?_, ?_⟩
    · rw [firstWin, flightOf_setFlight, if_pos rfl]
    · rw [firstWin, flightOf_setFlight, if_neg hc.symm]
      cases c <;> rfl
    · cases p <;> cases ho : s.cq.outgoing <;> simp [firstWin, setFlight, payloadClass, markSent, ho]
  · exact congrArg Host.Outcome.next (loseArbitration_of_sending hs)
  · exact congrArg Host.Outcome.next (arbitrationByteRead_of_not_reads s first second h)
  · have hunsound : (guardSound first && guardSound second) = false := by
      rcases hg with hg | hg
      · rw [guardSound_eq_false hg, Bool.false_and]
      · rw [guardSound_eq_false hg, Bool.and_false]
    refine congrArg Host.Outcome.next ?_
    rw [arbitrationByteRead_of_reads h, emptyNamedCopy_of_unsound s hunsound]
    by_cases hc : classRead [first] = .state
    · rw [if_pos hc, if_pos ((classRead_state_iff first).mp hc)]
    · rw [if_neg hc, if_neg (mt (classRead_state_iff first).mpr hc)]
  · intro byte
    refine ⟨_, congrArg Host.Outcome.next (arbitrationByteRead_of_reads h), ?_⟩
    rw [emptyNamedCopy_of_byte, classRead_arbitrationByte]
    cases repeated with
    | true =>
      simp only [if_true]
      refine ⟨?_, fun _ => ?_, fun h => (by cases h)⟩
      · split <;> simp
      · split <;> rfl
    | false =>
      simp only [Bool.false_eq_true, if_false]
      refine ⟨?_, fun h => (by cases h), fun _ => ⟨?_, fun c hc => ?_⟩⟩
      · split <;> simp [setCopy]
      · split <;> simp [setCopy]
      · split <;> simp [setCopy, hc.symm]

/-! ## Bids (R126, R131, R135, R136, R154) -/

section Bids

/-- The bid point that has passed clears the yield flags (R126, log 39). -/
def bidPassed (s : State) : State :=
  { s with bc := { s.bc with
    yieldGroup := if 21 ≤ s.bc.gap then false else s.bc.yieldGroup
    yieldState := if 21 ≤ s.bc.gap then false else s.bc.yieldState } }

theorem bidPoint_of_idle (h : s.bc.phase = .idle ∧ s.bc.lineHeld = false) : bidPoint s = bidOrWait (bidPassed s) := by
  have hpassed : (if Config.idleGap ≤ s.bc.gap then { s with bc := clearYields s.bc } else s) = bidPassed s := by
    show (if 21 ≤ s.bc.gap then _ else _) = _
    unfold bidPassed
    split <;> rfl
  rw [← hpassed]
  exact if_pos (by simp [h.1, h.2])

theorem bidOrWait_of_some {p : Payload} (h : chooseBid s = some p) : bidOrWait s = { s with bc := { s.bc with
    phase := .sending, gap := 0, sent := 0, sending := some { payload := p, won := false } } } := by
  simp only [bidOrWait, h]

theorem bidOrWait_of_none (h : chooseBid s = none) : bidOrWait s = { s with bc := { s.bc with gap := 21 } } := by
  simp only [bidOrWait, h]
  rfl

theorem chooseBid_of_cannotBid (h : cannotBid s = true) : chooseBid s = none := if_pos h

/-- The frame a class bids: none while it is yielded (R135, R136). -/
def bidOf (s : State) (c : FrameClass) : Option Payload := if yielded s c then none else offerOf s c

theorem chooseBid_of_canBid (h : cannotBid s = false) : chooseBid s =
    (offerOf s .stop).or ((offerOf s .cue).or ((bidOf s .group).or (bidOf s .state))) := by
  have hchoose : chooseBid s = [FrameClass.stop, .cue, .group, .state].findSome? (bidOf s) := if_neg (by simp [h])
  rw [hchoose]
  simp only [List.findSome?_cons, List.findSome?_nil, show bidOf s .stop = offerOf s .stop from rfl,
    show bidOf s .cue = offerOf s .cue from rfl]
  cases offerOf s .stop <;> cases offerOf s .cue <;> cases bidOf s .group <;> cases bidOf s .state <;> rfl

theorem offerOf_of_flight {c : FrameClass} {f : Flight} (h : flightOf s c = some f) : offerOf s c = some f.payload := by
  simp only [offerOf, h]

theorem offerOf_of_none {c : FrameClass} (h : flightOf s c = none) : offerOf s c = freshOffer s c := by
  simp only [offerOf, h]

theorem groupPayload_of_hosted {ch : Channel} {g : Group} (h : hostedGroup s ch = some g) :
    groupPayload s ch = some (.group g s.mr.mute[ch] (sourcePosition s ch)) := by
  rw [groupPayload, h]
  rfl

/-- How far a channel stands after the master last sent, in channel order, wrapping (R98). -/
def turnsAfter (last : Option Channel) (ch : Channel) : Nat :=
  match last with
  | some l => (ch.val + 15 - l.val) % 16
  | none => ch.val

theorem mem_supplyOrder (last : Option Channel) (ch : Channel) : ch ∈ supplyOrder last := by
  cases last with
  | none => exact mem_channels ch
  | some l =>
    have hmem := mem_channels ch
    rw [← List.take_append_drop (l.val + 1) channels, List.mem_append] at hmem
    exact List.mem_append.mpr hmem.symm

theorem supplyOrder_ascends : ∀ last : Option Channel,
    (supplyOrder last).Pairwise (fun x y => turnsAfter last x < turnsAfter last y) := by
  decide

theorem supplyMaster_of_run (h : s.sc.state = .run) :
    supplyMaster s = (supplyOrder s.mr.lastGroup).find? (masterEligible s) := if_pos h

theorem state_of_supplied {ch : Channel} (h : supplyMaster s = some ch) : s.sc.state = .run := by
  by_contra hn
  exact absurd ((if_neg hn).symm.trans h) (by simp)

/-- The master supplied is the first eligible one in the order of R98. -/
theorem turnsAfter_le_of_supplied {ch other : Channel} (h : supplyMaster s = some ch)
    (ho : masterEligible s other = true) : turnsAfter s.mr.lastGroup ch ≤ turnsAfter s.mr.lastGroup other := by
  have hfind := (supplyMaster_of_run (state_of_supplied h)).symm.trans h
  obtain ⟨-, before, behind, hsplit, hbefore⟩ := List.find?_eq_some_iff_append.mp hfind
  have hpair := supplyOrder_ascends s.mr.lastGroup
  have hmem := mem_supplyOrder s.mr.lastGroup other
  rw [hsplit] at hpair hmem
  rcases List.mem_append.mp hmem with hb | hb
  · exact absurd ho (by simpa using hbefore other hb)
  · rcases List.mem_cons.mp hb with rfl | hb
    · exact le_rfl
    · exact (List.rel_of_pairwise_cons (List.pairwise_append.mp hpair).2.1 hb).le

end Bids

/-- Settles O38, by the bid point, the classes in their order, what each offers, and the masters in theirs. -/
theorem bidPointChoosesByClass : Obligations.BidPointChoosesByClass := by
  refine ⟨fun s => ?_, fun s => chooseBid_of_cannotBid, fun s hc => ?_, fun s => ?_, fun s => ⟨fun ch h => ?_, fun hrun h => ?_⟩⟩
  · intro idle passed
    refine ⟨fun p hi h => ?_, fun p t hi h ht => ?_, fun hi h => ?_, fun hi => ?_⟩
    · exact congrArg Host.Outcome.next ((bidPoint_of_idle hi).trans (bidOrWait_of_some (s := bidPassed s) h))
    · have hbid : bidPoint s = t := Host.Outcome.next.inj ht
      rw [← hbid, bidPoint_of_idle hi, bidOrWait_of_some (s := bidPassed s) h]
      cases p <;> rfl
    · exact congrArg Host.Outcome.next ((bidPoint_of_idle hi).trans (bidOrWait_of_none (s := bidPassed s) h))
    · exact congrArg Host.Outcome.next (bidPoint_of_not_idle s hi)
  · have hchoose := chooseBid_of_canBid hc
    refine ⟨fun p h => ?_, fun hs p h => ?_, fun hs hcue => ⟨fun p hy h => ?_, fun h => ?_⟩⟩
    · rw [hchoose, h]
      rfl
    · rw [hchoose, hs, h]
      rfl
    · have hgroup : bidOf s .group = some p := (if_neg (by simp [yielded, hy])).trans h
      rw [hchoose, hs, hcue, hgroup]
      rfl
    · have hgroup : bidOf s .group = none := by
        rcases h with h | h
        · exact if_pos h
        · rw [bidOf, h, ite_self]
      rw [hchoose, hs, hcue, hgroup]
      rfl
  · refine ⟨fun c f => offerOf_of_flight, fun hf => ?_, fun hf => offerOf_of_none (c := .cue) hf, fun hf => ?_,
      fun hf => offerOf_of_none (c := .state) hf⟩
    · have hoffer : offerOf s .stop = (pendingStops s).head? := offerOf_of_none (c := .stop) hf
      have ha (x : MachineState) (hx : s.sp.machineA.state = x) : (machineOf s .a).state = x := hx
      have hb (x : MachineState) (hx : s.sp.machineB.state = x) : (machineOf s .b).state = x := hx
      rw [hoffer]
      refine ⟨fun h => ?_, fun h => ?_, fun hA => ⟨fun h => ?_, fun h => ?_, fun hB => ?_⟩⟩
      · simp [pendingStops, ha _ h]
      · simp [pendingStops, ha _ h]
      · rcases hA with hA | hA <;> simp [pendingStops, ha _ hA, hb _ h]
      · rcases hA with hA | hA <;> simp [pendingStops, ha _ hA, hb _ h]
      · rcases hA with hA | hA <;> rcases hB with hB | hB <;> cases ho : s.sp.orphan <;>
          simp [pendingStops, ha _ hA, hb _ hB, ho]
    · have hoffer : offerOf s .group = (supplyMaster s).bind (groupPayload s) := offerOf_of_none (c := .group) hf
      refine ⟨fun h => ?_, fun ch g h hg => ?_⟩
      · rw [hoffer, h]
        rfl
      · rw [hoffer, h]
        exact groupPayload_of_hosted hg
  · have hfind := (supplyMaster_of_run (state_of_supplied h)).symm.trans h
    refine ⟨state_of_supplied h, List.find?_some hfind, fun other ho => ?_⟩
    have hle := turnsAfter_le_of_supplied h ho
    unfold turnsAfter at hle
    exact hle
  · obtain ⟨ch, he⟩ := h
    rw [supplyMaster_of_run hrun, Ne, List.find?_eq_none]
    exact fun hn => hn ch (mem_supplyOrder _ ch) he

/-! ## The ends of own frames (R132 to R134) -/

section Ends

variable {p : Payload} {f : Flight} {won : Bool}

/-- The win of a frame already in flight tells no owner (R131). -/
theorem winArbitration_in_flight (hs : s.bc.sending = some { payload := p, won := won })
    (hf : flightOf s (payloadClass p) = some f) :
    winArbitration s = { s with bc := { s.bc with sending := some { payload := p, won := true } } } := by
  cases won with
  | true => rw [winArbitration_of_won hs, ← hs]
  | false => exact winArbitration_of_flight hs hf

theorem frameComplete_of_flight (hs : s.bc.sending = some { payload := p, won := won })
    (hf : flightOf s (payloadClass p) = some f) : frameComplete s =
    frameEnd true p (setFlight { s with bc := { s.bc with
        phase := .idle, gap := 16, run := 0, sending := none
        yieldGroup := s.bc.yieldGroup || payloadClass p == .group
        yieldState := s.bc.yieldState || payloadClass p == .state } } (payloadClass p) none) := by
  simp only [frameComplete, hs, winArbitration_in_flight hs hf]
  rfl

/-- The state of the bus after a failed attempt (R132, R137). -/
def attemptBroken (place : FailurePlace) (s : State) : State := { s with bc := afterFailure place s.bc }

theorem flightOf_attemptBroken (place : FailurePlace) (c : FrameClass) : flightOf (attemptBroken place s) c = flightOf s c := by
  cases place <;> cases c <;> rfl

/-- A failed attempt of a frame whose flight stands (R132, R133). -/
theorem attemptFailed_of_win {u : State} (place : FailurePlace) (hs : s.bc.sending = some { payload := p, won := won })
    (hu : winArbitration s = u) (hf : flightOf u (payloadClass p) = some f) : attemptFailed place s =
    if f.attempts + 1 < 8 then
      setFlight (attemptBroken place u) (payloadClass p) (some { f with attempts := f.attempts + 1, repeated := true })
    else frameEnd false f.payload (post .txAbandoned (payloadClass p).code (abandonedArgument f.payload)
      (setFlight (attemptBroken place u) (payloadClass p) none)) := by
  have hflight := (flightOf_attemptBroken (s := u) place (payloadClass p)).trans hf
  rw [attemptBroken] at hflight
  simp only [attemptFailed, hs, hu, hflight]
  rfl

theorem abandonedArgument_eq (p : Payload) : abandonedArgument p = (match p with
    | .stop _ k target => (if k = .b then 32 else 0) + target.val
    | .cue _ _ cue => cue
    | .group g _ _ => g.val + 1
    | .state _ _ _ _ => 0) := by
  cases p with
  | stop release k target => cases k <;> simp [abandonedArgument, kindCode]
  | cue | group | state => rfl

theorem frameEnd_group {g : Group} {mute : Bool} {position : Position} {ch : Channel} (completed : Bool)
    (h : hostOf s g = some ch) : frameEnd completed (.group g mute position) s =
      { s with mr := { s.mr with
        masters := put s.mr.masters ch { s.mr.masters[ch] with
          lastSent := if completed = true then some (position, mute) else s.mr.masters[ch].lastSent
          since := 0 }
        lastGroup := some ch } } := by
  simp only [frameEnd, groupFrameEnd, h]
  cases completed <;> rfl

end Ends

/-- Settles O40, by the end of the attempt, its count, and the frame's owner. -/
theorem ownFramesEndWithTheirOwners : Obligations.OwnFramesEndWithTheirOwners := by
  refine ⟨fun s f won hs hf => ?_, fun s p place hs hf => ?_, fun s completed =>
    ⟨fun solo a b last => rfl, fun kind origin c => rfl, fun g mute position ch => frameEnd_group completed⟩⟩
  · intro c freed
    have hwin := winArbitration_in_flight hs hf
    refine ⟨congrArg (fun t => Host.Outcome.next (settle t)) (frameComplete_of_flight hs hf), fun place => ?_⟩
    intro broken
    have hbroken : attemptBroken place { s with bc := { s.bc with sending := some { payload := f.payload, won := true } } }
        = broken := by
      cases place <;> rfl
    have hflight : flightOf { s with bc := { s.bc with sending := some { payload := f.payload, won := true } } } c
        = some f := (flightOf_of_sending _ _).trans hf
    have hfailed := attemptFailed_of_win place hs hwin hflight
    rw [hbroken, abandonedArgument_eq] at hfailed
    exact ⟨fun h => congrArg (fun t => Host.Outcome.next (settle t)) (hfailed.trans (if_pos (by omega))),
      fun h => congrArg (fun t => Host.Outcome.next (settle t)) (hfailed.trans (if_neg (by omega)))⟩
  · have hflight : flightOf (firstWin p s) (payloadClass p) = some { payload := p, attempts := 0, repeated := false } := by
      rw [firstWin, flightOf_setFlight, if_pos rfl]
    refine congrArg (fun t => Host.Outcome.next (settle t))
      ((attemptFailed_of_win place hs (winArbitration_of_first hs hf) hflight).trans ?_)
    rw [if_pos (show 0 + 1 < 8 by decide)]
    cases p <;> cases place <;> cases ho : s.cq.outgoing <;>
      simp [attemptBroken, firstWin, afterFailure, setFlight, payloadClass, markSent, ho, Config.breakBits]

end Sys2Proof.Machine
end

section
/-!
PROOFS. The notices of a valid frame (7.3, 8.3, 8.5): presence, and the duplicate station.
-/

namespace Sys2Proof.Machine

variable {s t : State}

/-! ## Presence and time since heard, which no owner of a frame writes -/

/-- The presence of a peer and its time since heard. -/
def contact (q : Peer) (s : State) : Presence × Micros := (s.sc.peers[q].presence, s.sc.peers[q].heard)

section Contact

variable {q : Peer}

theorem contact_of_peers (h : t.sc.peers = s.sc.peers) : contact q t = contact q s := by
  rw [contact, h, contact]

theorem contact_setPeer {p : Peer} {e : PeerEntry} (hp : e.presence = s.sc.peers[p].presence)
    (hh : e.heard = s.sc.peers[p].heard) : contact q (setPeer s p e) = contact q s := by
  by_cases hq : p = q
  · subst hq
    have hput : (setPeer s p e).sc.peers[p] = e := put_same _ _ _
    rw [contact, hput, hp, hh, contact]
  · have hput : (setPeer s p e).sc.peers[q] = s.sc.peers[q] := put_other _ _ hq
    rw [contact, hput, contact]

theorem contact_withStop (p : Peer) (k : StopKind) (on : Bool) :
    contact q (setPeer s p (s.sc.peers[p].withStop k on)) = contact q s :=
  contact_setPeer (presence_withStop _ _ _) (by cases k <;> rfl)

theorem contact_clearOrphanFlag (k : StopKind) (p : Peer) : contact q (clearOrphanFlag k p s) = contact q s := by
  unfold clearOrphanFlag
  split
  · exact contact_withStop p k false
  · rfl

theorem contact_stopFrameEnd (release : Bool) (k : StopKind) (target : Station) :
    contact q (stopFrameEnd release k target s) = contact q s := by
  unfold stopFrameEnd
  split
  · split
    · exact contact_of_peers (by simp)
    · dsimp only
      split
      · exact contact_of_peers (by simp)
      · exact contact_of_peers (by simp)
    · rfl
  · split
    · exact contact_clearOrphanFlag _ _
    · rfl

theorem contact_frameEnd (completed : Bool) (p : Payload) : contact q (frameEnd completed p s) = contact q s := by
  cases p with
  | stop release k target => exact contact_stopFrameEnd release k target
  | cue kind origin c => exact contact_of_peers (by simp [frameEnd])
  | group g mute position =>
    refine contact_of_peers ?_
    rw [frameEnd, groupFrameEnd]
    split <;> rfl
  | state solo a b last => rfl

theorem contact_settle : contact q (settle s) = contact q s := by
  refine settle_keeps (P := fun t => contact q t = contact q s) (fun u c t _ h hu => ?_) rfl
  refine Eq.trans ?_ hu
  rcases abandonOne_cases h with ⟨f, -, rfl⟩ | ⟨p, -, rfl⟩ | ⟨r, -, rest, -, rfl⟩ | ⟨ch, -, rfl⟩ | rfl
  · rw [contact_frameEnd]
    cases c <;> rfl
  · exact contact_frameEnd false p
  · exact contact_of_peers (by simp)
  · rfl
  · rfl

theorem contact_applyState (solo a b : Bool) (last : Option CueNumber) (p : Peer) :
    contact q (applyState solo a b last p s) = contact q s := by
  cases ho : isOwn s p with
  | true => rw [applyState, if_pos ho]
  | false =>
    rw [applyState_eq ho]
    refine (contact_of_peers (raiseStop_peers _)).trans ?_
    exact contact_setPeer (e := { s.sc.peers[p] with solo := solo, stopA := a, stopB := b, last := last }) rfl rfl

theorem contact_applyStop (release : Bool) (k : StopKind) (target : Station) (p : Peer) :
    contact q (applyStop release k target p s) = contact q s := by
  unfold applyStop
  split
  · rfl
  · split
    · split
      · split
        · exact contact_withStop _ k false
        · rfl
      · rfl
    · exact (contact_of_peers (raiseStop_peers _)).trans (contact_withStop p k true)

theorem applyGroup_peers (g : Group) (mute : Bool) (position : Position) (p : Peer) :
    (applyGroup g mute position p s).sc.peers = s.sc.peers := by
  unfold applyGroup
  repeat' split
  all_goals rfl

/-- No frame's owner writes the presence of a peer (R151, R152). -/
theorem contact_handFrame (payload : Payload) (p : Peer) : contact q (handFrame payload p s) = contact q s := by
  cases payload with
  | stop release k target => exact contact_applyStop release k target p
  | cue kind origin c => exact contact_of_peers (takeCue_peers _ _ _ _ _)
  | group g mute position => exact contact_of_peers (applyGroup_peers g mute position p)
  | state solo a b last => exact contact_applyState solo a b last p

end Contact

theorem handFrame_copies (payload : Payload) (p : Peer) : (handFrame payload p s).bc.copies = s.bc.copies := by
  cases payload with
  | stop release k target =>
    rw [handFrame, applyStop]
    repeat' split
    all_goals simp [setPeer]
  | cue kind origin c => exact congrArg (·.copies) (takeCue_bc _ _ _ _ _)
  | group g mute position =>
    rw [handFrame, applyGroup]
    repeat' split
    all_goals rfl
  | state solo a b last =>
    cases ho : isOwn s p with
    | true => rw [handFrame, applyState, if_pos ho]
    | false => simp [handFrame, applyState_eq ho]

/-! ## The notices -/

section Notices

variable {groups : List (BitVec 5)} {p : Peer} {repeated : Bool} {payload : Payload} {c : FrameClass}

/-- PEER JOINED, where the peer was not PRESENT (R149). -/
def joinedEvents (p : Peer) (s : State) : LoadPort :=
  if s.sc.peers[p].presence = .present then s.lp
  else (post .peerJoined (peerNumber p) (if s.sc.peers[p].presence = .lost then 2 else 0) s).lp

/-- The peer PRESENT and just heard (R149). -/
def joinedPeers (p : Peer) (s : State) : Vector PeerEntry 31 :=
  put s.sc.peers p { s.sc.peers[p] with presence := .present, heard := 0 }

/-- A frame of another station makes it PRESENT (R149). -/
theorem noticed_of_other (ho : isOwn s p = false) : noticed p c s =
    { s with sc := { s.sc with peers := joinedPeers p s }, lp := joinedEvents p s } := by
  by_cases hp : s.sc.peers[p].presence = .present
  · rw [noticed_of_present c ho hp, joinedEvents, if_pos hp, joinedPeers, ← hp]
    rfl
  · have hcode : presenceCode s.sc.peers[p].presence = if s.sc.peers[p].presence = .lost then 2 else 0 := by
      cases h : s.sc.peers[p].presence with
      | absent => rfl
      | present => exact absurd h hp
      | lost => rfl
    have hnotice : presenceNotice p s = post .peerJoined (peerNumber p) (presenceCode s.sc.peers[p].presence)
        (setPeer s p { s.sc.peers[p] with presence := .present, heard := 0 }) := by
      rw [presenceNotice, if_neg (by simp [ho])]
      exact if_neg hp
    have hlp : (post .peerJoined (peerNumber p) (presenceCode s.sc.peers[p].presence)
        (setPeer s p { s.sc.peers[p] with presence := .present, heard := 0 })).lp = joinedEvents p s := by
      rw [hcode, joinedEvents, if_neg hp]
      exact post_lp_of_stamp _ _ _ rfl rfl rfl
    rw [noticed, hnotice, ← hlp]
    exact if_neg (by simpa [isOwn] using ho)

/-- A frame with the own number (R155). -/
theorem noticed_of_own (ho : isOwn s p = true) : noticed p c s =
    if s.sc.txMuted = true then s
    else settle (post .duplicateStation c.code s.sc.number.val { s with sc := { s.sc with txMuted := true } }) := by
  have hnotice : presenceNotice p s = s := if_pos ho
  rw [noticed, hnotice, if_pos ho]
  rfl

theorem noticed_copies (p : Peer) (c : FrameClass) (s : State) : (noticed p c s).bc.copies = s.bc.copies := by
  cases ho : isOwn s p with
  | true =>
    rw [noticed_of_own ho]
    split
    · rfl
    · rw [settle_copies]
      rfl
  | false =>
    rw [noticed_of_other ho]

/-- The frame repeats what its copy record holds (R129). -/
def IsCopy (s : State) (p : Peer) (repeated : Bool) (payload : Payload) : Prop :=
  repeated = true ∧ s.bc.copies[p].get (payloadClass payload) = some payload

theorem takeFrame_of_copy (h : IsCopy s p repeated payload) :
    takeFrame p repeated payload s = noticed p (payloadClass payload) s := by
  rw [takeFrame_eq, noticed_copies]
  refine if_pos ?_
  rw [h.1, h.2]
  simp

theorem takeFrame_of_new (h : ¬IsCopy s p repeated payload) : takeFrame p repeated payload s =
    handFrame payload p (setCopy (noticed p (payloadClass payload) s) p (payloadClass payload) (some payload)) := by
  rw [takeFrame_eq, noticed_copies]
  refine if_neg fun hc => h ?_
  simpa [IsCopy] using hc

end Notices

/-- Settles O42, by whose the frame is, whether it is a copy, and whether the peer was PRESENT. -/
theorem validFrameGivesItsNotices : Obligations.ValidFrameGivesItsNotices := by
  intro groups p repeated payload s hresult hreads heard copy recorded
  have hheard : frameOver (lastRun groups) s = heard := rfl
  have htake : frameReceived groups s = takeFrame p repeated payload heard := frameReceived_of_ok hresult hreads
  have next {u : State} (h : takeFrame p repeated payload heard = u) :
      exec (.frameReceived groups) s = .next (settle u) :=
    congrArg (fun v => Host.Outcome.next (settle v)) (htake.trans h)
  refine ⟨fun hother => ?_, fun hown => ?_⟩
  · have hn := noticed_of_other (c := payloadClass payload) (isOwn_of_ne (s := heard) hother)
    have hlp : joinedEvents p heard = joinedEvents p s := by
      rw [joinedEvents, joinedEvents]
      exact if_congr Iff.rfl rfl (post_lp_of_stamp _ _ _ rfl rfl rfl)
    rw [hlp] at hn
    refine ⟨fun hcopy => ⟨{ heard with sc := { heard.sc with peers := joinedPeers p heard }, lp := joinedEvents p s },
        next ((takeFrame_of_copy (s := heard) hcopy).trans hn), rfl, fun hp => if_pos hp, fun hp => if_neg hp, rfl⟩,
      fun hnew => ?_, fun hjoin => ?_⟩
    · have hcontact : contact p (settle (handFrame payload p (setCopy (noticed p (payloadClass payload) heard) p
          (payloadClass payload) (some payload)))) = (.present, 0) := by
        rw [contact_settle, contact_handFrame, hn]
        show contact p { heard with sc := { heard.sc with peers := joinedPeers p heard } } = _
        rw [contact, joinedPeers, put_same]
      refine ⟨_, next (takeFrame_of_new hnew), ?_, congrArg Prod.fst hcontact, congrArg Prod.snd hcontact⟩
      rw [settle_copies, handFrame_copies]
      simp [setCopy]
    · obtain ⟨u, hu⟩ : ∃ u : State, u =
          { post .peerJoined (peerNumber p) (if s.sc.peers[p].presence = .lost then 2 else 0) s with
            sc := { s.sc with peers := put s.sc.peers p { s.sc.peers[p] with presence := .present } } } := ⟨_, rfl⟩
      have hpeer : u.sc.peers[p].presence = .present := by
        rw [hu]
        show (put s.sc.peers p _)[p].presence = _
        rw [put_same]
      have hpeers : joinedPeers p u = joinedPeers p s := by
        rw [hu, joinedPeers, joinedPeers]
        show put (put s.sc.peers p _) p _ = _
        rw [put_same, put_put]
      have hevents : joinedEvents p (frameOver (lastRun groups) u) = joinedEvents p s := by
        refine (if_pos hpeer).trans ?_
        rw [joinedEvents, if_neg hjoin, hu]
        rfl
      have hnu := noticed_of_other (s := frameOver (lastRun groups) u) (c := payloadClass payload)
        (isOwn_of_ne (by rw [hu]; exact hother))
      have hnotices : noticed p (payloadClass payload) (frameOver (lastRun groups) u)
          = noticed p (payloadClass payload) heard := by
        rw [hnu, hn, hevents]
        show { frameOver (lastRun groups) u with
          sc := { u.sc with peers := joinedPeers p u }, lp := joinedEvents p s } = _
        rw [hpeers, hu]
        rfl
      have hreadsu : readsFrame u = true := by
        rw [hu]
        exact hreads
      have hsame : takeFrame p repeated payload heard = takeFrame p repeated payload (frameOver (lastRun groups) u) := by
        rw [takeFrame_eq, takeFrame_eq, hnotices]
      rw [← hu]
      exact congrArg (fun v => Host.Outcome.next (settle v))
        (htake.trans (hsame.trans (frameReceived_of_ok hresult hreadsu).symm))
  · intro muted
    have ho : isOwn heard p = true := by
      show (peerNumber p == s.sc.number.val) = true
      rw [hown, beq_self_eq_true]
    have hn : noticed p (payloadClass payload) heard = muted := noticed_of_own ho
    have hnumber : muted.sc.number = s.sc.number := by
      show (if s.sc.txMuted = true then heard else settle _).sc.number = _
      split
      · rfl
      · rw [settle_number]
        rfl
    have hrecorded : isOwn (setCopy muted p (payloadClass payload) (some payload)) p = true := by
      show (peerNumber p == muted.sc.number.val) = true
      rw [hnumber, hown, beq_self_eq_true]
    have hnew (h : ¬copy) : takeFrame p repeated payload heard =
        handFrame payload p (setCopy muted p (payloadClass payload) (some payload)) := by
      rw [← hn]
      exact takeFrame_of_new h
    refine ⟨fun hcopy => next ((takeFrame_of_copy (s := heard) hcopy).trans hn), fun h hc => next ((hnew h).trans ?_),
      fun kind origin c h hp => ?_⟩
    · cases payload with
      | stop release k target => exact if_pos hrecorded
      | cue kind origin c => exact absurd rfl hc
      | group g mute position => exact if_pos (by rw [hrecorded, Bool.true_or])
      | state solo a b last => exact if_pos hrecorded
    · subst hp
      refine next ((hnew h).trans ?_)
      rw [handFrame, hown]
      rfl

end Sys2Proof.Machine
end

section
/-!
PROOFS. RUN entry (R147): what each block takes, the strips, the expander, and the follow that expires last.
-/

namespace Sys2Proof.Machine

variable {s t : State}

/-! ## The strips at RUN entry (R111, R114) -/

/-- The strip of a channel after RUN entry. -/
def enteredStrip (s : State) (ch : Channel) : Strip :=
  if isMotor s ch && s.st.strips[ch].touch.atHand then StripsOk.touchedStrip s.sc.state (entryStrip s ch) else entryStrip s ch

theorem stripAtRunEntry_strips (ch : Channel) : (stripAtRunEntry s ch).st.strips = put s.st.strips ch (enteredStrip s ch) := by
  rw [stripAtRunEntry_eq, enteredStrip]
  split
  · rw [StripsOk.touchedAct_strips]
    show put (put s.st.strips ch _) ch (StripsOk.touchedStrip s.sc.state (put s.st.strips ch _)[ch]) = _
    rw [put_same, put_put]
  · rfl

theorem enteredStrip_other {i j : Channel} (h : i ≠ j) : enteredStrip (stripAtRunEntry s i) j = enteredStrip s j := by
  have hstrip : (stripAtRunEntry s i).st.strips[j] = s.st.strips[j] := by
    rw [stripAtRunEntry_strips]
    exact put_other _ _ h
  have hsm : (stripAtRunEntry s i).sm = s.sm := congrArg (·.sm) (sansFades_stripAtRunEntry s i)
  have hsc : (stripAtRunEntry s i).sc = s.sc := congrArg (·.sc) (sansFades_stripAtRunEntry s i)
  have hmotor : isMotor (stripAtRunEntry s i) j = isMotor s j := isMotor_of_sm hsm j
  have hplain : isPlain (stripAtRunEntry s i) j = isPlain s j := isPlain_of_sm hsm j
  simp only [enteredStrip, entryStrip, hstrip, hsc, hmotor, hplain]

theorem strips_at_entry (s : State) (ch : Channel) : (channels.foldl stripAtRunEntry s).st.strips[ch] = enteredStrip s ch := by
  have hplaces := foldl_places (f := stripAtRunEntry) (view := fun (t : State) (j : Channel) => t.st.strips[j])
    (new := enteredStrip)
    (fun t i => by rw [stripAtRunEntry_strips]; exact put_same _ _ _)
    (fun t i j h => by rw [stripAtRunEntry_strips]; exact put_other _ _ h)
    (fun t i j h => enteredStrip_other h) channels channels_nodup s ch
  rw [hplaces, if_pos (mem_channels ch)]

/-- With no record in the pool a touch removes none, so that RUN entry writes the strips alone. -/
theorem stripAtRunEntry_frame {ch : Channel} (hp : s.fe.pool = []) :
    stripAtRunEntry s ch = { s with st := { s.st with strips := (stripAtRunEntry s ch).st.strips } } := by
  rw [stripAtRunEntry_eq]
  split
  · rw [touchedAct_setStrip, hp]
    split
    · simp only [List.filter_nil, ite_self]
      rw [← hp]
      rfl
    · rfl
  · rfl

theorem strips_frame (l : List Channel) (hp : s.fe.pool = []) :
    l.foldl stripAtRunEntry s = { s with st := { s.st with strips := (l.foldl stripAtRunEntry s).st.strips } } := by
  refine foldl_keeps (P := fun t : State => t = { s with st := { s.st with strips := t.st.strips } })
    (fun t ch ht => ?_) l rfl
  have hpool : t.fe.pool = [] := by
    rw [ht]
    exact hp
  refine (stripAtRunEntry_frame hpool).trans ?_
  generalize (stripAtRunEntry t ch).st.strips = strips
  rw [ht]

theorem isPlain_of_motor {ch : Channel} (h : isMotor s ch = true) : isPlain s ch = false := by
  by_contra hp
  rw [isMotor_of_isPlain (Bool.not_eq_false _ ▸ hp)] at h
  cases h

/-- A strip that a hand holds at RUN entry (R108, R114). -/
theorem enteredStrip_of_hand {ch : Channel} (hs : s.sc.state = .run) (hm : isMotor s ch = true)
    (ht : s.st.strips[ch].touch.atHand = true) : enteredStrip s ch = { s.st.strips[ch] with
      mode := .hand, hand := s.st.strips[ch].measured
      motor := if s.st.strips[ch].motor = .stalled then .stalled else .off
      rest := if s.st.strips[ch].motor = .stalled then s.st.strips[ch].rest else 0
      stall := if s.st.strips[ch].motor = .stalled then s.st.strips[ch].stall else 0 } := by
  have hentry : entryStrip s ch = { s.st.strips[ch] with mode := .auto } := if_neg (by simp [isPlain_of_motor hm])
  rw [enteredStrip, if_pos (by rw [hm, ht]; rfl), hentry, StripsOk.touchedStrip, if_pos ⟨hs, rfl⟩, motorReleased_eq]

theorem enteredStrip_of_auto {ch : Channel} (h : (isMotor s ch && s.st.strips[ch].touch.atHand) = false)
    (hp : isPlain s ch = false) : enteredStrip s ch = { s.st.strips[ch] with mode := .auto } := by
  rw [enteredStrip, if_neg (Bool.not_eq_true _ ▸ h), entryStrip, if_neg (by simp [hp])]

theorem enteredStrip_of_plain {ch : Channel} (hp : isPlain s ch = true) : enteredStrip s ch =
    { s.st.strips[ch] with mode := .auto, park := s.st.strips[ch].measured, crossing := none } := by
  rw [enteredStrip, if_neg (by simp [isMotor_of_isPlain hp]), entryStrip, if_pos hp]

/-! ## RUN entry step by step -/

/-- The state in which RUN entry starts the expander (R50, R147). -/
def runReady (s : State) : State := channels.foldl stripAtRunEntry (runInstalled s)

theorem runReady_frame (hp : s.fe.pool = []) : ∃ strips, runReady s =
    { runInstalled s with st := { (runInstalled s).st with strips := strips } } := by
  have hframe := strips_frame (s := runInstalled s) channels hp
  rw [← runReady] at hframe
  exact ⟨_, hframe⟩

theorem runPosted_eq (s : State) : runPosted s = post .catchupDone
    (cueCode ((runExpander (runReady s)).sc.candidate.map (·.cue))) (presentPeers (runExpander (runReady s)))
    (runExpander (runReady s)) := by
  rw [runPosted, runStarted, runReady]

/-- What RUN entry writes up to the follow that may expire. -/
theorem runPosted_frame {tracked : Vector Tracked 16} (hp : s.fe.pool = []) (ht : s.sc.tracked = some tracked) :
    ∃ i b cm strips, runPosted s = { s with
      sc := { s.sc with
        state := .run, stateRequest := true, refresh := some 0, tracked := none, walkEnded := false }
      fe := { levels := mapTable (·.level) tracked, pool := [], commits := cm }
      mr := { s.mr with
        mute := mapTable (·.mute) tracked
        solo := Vector.replicate 16 false
        masters := mapTable (fun m => if m.demoted = true then m
          else { m with since := 250000, lastSent := none }) s.mr.masters }
      st := { s.st with strips := strips }
      lp := (post .catchupDone ((s.sc.candidate.map (·.cue)).getD 0) (presentPeers s) s).lp
      cq := { s.cq with incoming := i, buffer := b } } := by
  obtain ⟨i, b, cm, hr⟩ := runExpander_frame (runReady s)
  obtain ⟨strips, hw⟩ := runReady_frame hp
  obtain ⟨u, hu⟩ : ∃ u, u = served i b cm { runInstalled s with st := { (runInstalled s).st with strips := strips } } :=
    ⟨_, rfl⟩
  have hposted : runPosted s = { u with
      lp := (post .catchupDone (cueCode (u.sc.candidate.map (·.cue))) (presentPeers u) u).lp } := by
    rw [runPosted_eq, hr, hw, ← hu]
    rfl
  have hlp : (post .catchupDone (cueCode (u.sc.candidate.map (·.cue))) (presentPeers u) u).lp
      = (post .catchupDone ((s.sc.candidate.map (·.cue)).getD 0) (presentPeers s) s).lp := by
    rw [hu]
    exact post_lp_of_stamp _ _ _ rfl rfl rfl
  refine ⟨i, b, cm, strips, ?_⟩
  rw [hposted, hlp, hu]
  simp only [served, runInstalled, mixAtRunEntry, installTracked, ht, Option.getD_some, hp]
  rfl

theorem enterRun_of_later (h : (∀ f, (runPosted s).cq.follow = some f → f.left ≠ 0)
    ∨ (runPosted s).sp.effective ≠ .none) : enterRun s = runPosted s := by
  rw [enterRun_eq]
  cases hf : (runPosted s).cq.follow with
  | none => rfl
  | some f =>
    refine if_neg ?_
    rcases h with h | h
    · simp [h f hf]
    · simp [stopped_of_ne h]

theorem enterRun_of_now {f : FollowTimer} (hf : (runPosted s).cq.follow = some f) (h0 : f.left = 0)
    (he : (runPosted s).sp.effective = .none) : enterRun s = expireFollow f.target (runPosted s) := by
  rw [enterRun_eq, hf]
  exact if_pos (by simp [h0, not_stopped_of_none he])

theorem runEntry_of_due (h : runDue s = true) : runEntry s = enterRun (lowerStop s) := if_pos h

theorem levelPoint_of_due (h : runDue s = true) : levelPoint s = enterRun (lowerStop s) := by
  rw [levelPoint]
  refine if_pos ?_
  rw [lowerStop_eq]
  exact h

/-- What a follow that expires does (R53). -/
theorem expireFollow_of_silent {c : CueNumber} (h : cannotSend s = true) :
    expireFollow c s = takeFire c s.sc.number.val .follow (disarmed s) := if_pos h

theorem expireFollow_of_sender {c : CueNumber} (h : cannotSend s = false) :
    expireFollow c s = requestFire c .follow (disarmed s) := if_neg (by
  show ¬cannotSend s = true
  simp [h])

/-- The expander starts idle at RUN entry (R50). -/
theorem runReady_idle (hp : s.fe.pool = []) (hb : s.cq.buffer = .empty) : ExpanderIdle (runReady s) := by
  obtain ⟨strips, hw⟩ := runReady_frame hp
  rw [hw]
  exact ⟨rfl, hb⟩

/-- Settles O46: the blocks, the strips, the expander and last the follow. -/
theorem runEntryInstallsTheTrackedState : Obligations.RunEntryInstallsTheTrackedState := by
  intro s tracked hs hwalk ht hb hp
  have hdue : runDue s = true := by simp [runDue, hs, hwalk]
  have hlow := lowerStop_eq s
  obtain ⟨l, hl⟩ : ∃ l, l = lowerStop s := ⟨_, rfl⟩
  rw [← hl] at hlow
  have hlp : l.fe.pool = [] := by rw [hlow]; exact hp
  have hlb : l.cq.buffer = .empty := by rw [hlow]; exact hb
  have hentry : runEntry s = enterRun l := (runEntry_of_due hdue).trans (by rw [hl])
  have hpoint : levelPoint s = runEntry s := (levelPoint_of_due hdue).trans (runEntry_of_due hdue).symm
  have next {v : State} (h : enterRun l = v) : exec .runEntry s = .next (settle v) :=
    congrArg (fun v => Host.Outcome.next (settle v)) (hentry.trans h)
  obtain ⟨i, b, cm, strips, hu⟩ := runPosted_frame hlp (by rw [hlow]; exact ht)
  have hevents : (post .catchupDone ((l.sc.candidate.map (·.cue)).getD 0) (presentPeers l) l).lp
      = (post .catchupDone ((s.sc.candidate.map (·.cue)).getD 0) (presentPeers s) s).lp := by
    rw [hlow]
    exact post_lp_of_stamp _ _ _ rfl rfl rfl
  rw [hevents] at hu
  have hfollow : (runPosted l).cq.follow = s.cq.follow := by rw [hu, hlow]; rfl
  have hready : ∃ strips, runReady l = { runInstalled l with st := { (runInstalled l).st with strips := strips } } :=
    runReady_frame hlp
  refine ⟨congrArg (fun v => Host.Outcome.next (settle v)) hpoint, runPosted l, ⟨_, rfl⟩, ?_, fun ch => ?_,
    fun empties rest hin hempty => ?_, fun h => next (enterRun_of_later ?_), fun f hf h0 he => ?_⟩
  · rw [hu, hlow]
    rfl
  · have hstrip : (runPosted l).st.strips[ch] = enteredStrip (runInstalled l) ch := by
      rw [runPosted_eq, post_st, runExpander_st, runReady, strips_at_entry]
    have hstrips : (runInstalled l).st.strips = s.st.strips := by rw [hlow]; rfl
    have hrun : (runInstalled l).sc.state = .run := rfl
    have hmotor : isMotor (runInstalled l) ch = isMotor s ch := isMotor_of_sm (by rw [hlow]; rfl) ch
    have hplain : isPlain (runInstalled l) ch = isPlain s ch := isPlain_of_sm (by rw [hlow]; rfl) ch
    intro x stalled
    rw [hstrip]
    have hx : (runInstalled l).st.strips[ch] = x := congrArg (fun v : Vector Strip 16 => v[ch]) hstrips
    refine ⟨fun ⟨hm, htouch⟩ => ?_, fun h => ?_, fun h => ?_⟩
    · have hhand : x.touch.atHand = true := by
        rcases htouch with htouch | ⟨left, htouch⟩ <;> rw [htouch] <;> rfl
      rw [enteredStrip_of_hand hrun (hmotor.trans hm) (hx ▸ hhand), hx]
    · have hnone : (isMotor s ch && x.touch.atHand) = false ∧ isPlain s ch = false := by
        rcases h with ⟨hm, htouch⟩ | hf
        · refine ⟨?_, isPlain_of_motor hm⟩
          rcases htouch with htouch | ⟨held, htouch⟩ <;> rw [htouch, hm] <;> rfl
        · simp [isMotor, isPlain, hf]
      rw [enteredStrip_of_auto (by rw [hmotor, hx]; exact hnone.1) (hplain.trans hnone.2), hx]
    · rw [enteredStrip_of_plain (hplain.trans h), hx]
  · obtain ⟨strips, hw⟩ := hready
    have hidle := runReady_idle hlp hlb
    have htable : cueTable (runReady l) = cueTable s := by rw [hw, hlow]; rfl
    have hqueue : (runReady l).cq.incoming = empties ++ rest := by rw [hw, hlow]; exact hin
    have hstandby : (runReady l).cq.standby = s.cq.standby := by rw [hw, hlow]; rfl
    have hcommits : (runReady l).fe.commits = s.fe.commits := by rw [hw, hlow]; rfl
    have hnone : ∀ e ∈ empties, movesOf (cueTable (runReady l)) e.cue = [] := by rw [htable]; exact hempty
    rw [runPosted_eq, post_cq, post_fe]
    refine ⟨fun e tail hrest hm => ?_, fun hrest => ?_⟩
    · rw [runExpander_to_moves hidle (hrest ▸ hqueue) hnone (htable.symm ▸ hm), ← hcommits]
      exact ⟨rfl, rfl, rfl⟩
    · rw [hrest, List.append_nil] at hqueue
      rw [runExpander_to_rest hidle hqueue hnone, ← hcommits, ← htable, ← hstandby]
      exact ⟨rfl, rfl, bufferAtRest_of_none, fun n => bufferAtRest_of_some⟩
  · rw [hfollow]
    exact h
  · have hexpires := enterRun_of_now (hfollow.trans hf) h0 he
    have hsend : cannotSend (runPosted l) = cannotSend s := by rw [hu, hlow]; rfl
    have hnumber : (runPosted l).sc.number = s.sc.number := by rw [hu, hlow]; rfl
    have houtgoing : (runPosted l).cq.outgoing = s.cq.outgoing := by rw [hu, hlow]; rfl
    refine ⟨fun hc => next ?_, fun hc => ?_⟩
    · rw [hexpires, expireFollow_of_silent (hsend.trans hc), hnumber]
      rfl
    · have hrequest := hexpires.trans (expireFollow_of_sender (hsend.trans hc))
      have hown : ownOrigin (disarmed (runPosted l)) .follow = s.sc.number.val * 4 + 2 :=
        congrArg (fun n : Station => n.val * 4 + 2) hnumber
      refine ⟨fun hdup => next (hrequest.trans (requestFire_of_duplicate (houtgoing.symm ▸ hdup))), fun hnone =>
        ⟨fun hroom => next (hrequest.trans ?_), fun hfull => next (hrequest.trans ?_)⟩⟩
      · rw [requestFire_of_room (houtgoing.symm ▸ hnone) (houtgoing.symm ▸ hroom), ← houtgoing]
        rfl
      · rw [requestFire_of_full (houtgoing.symm ▸ hnone) (houtgoing.symm ▸ hfull), hown]
        rfl

end Sys2Proof.Machine
end

section
/-!
PROOFS. The bit time that passes on an empty queue (log 1): the timers, the events that come due, and which commands
join the queue.
-/

namespace Sys2Proof.Machine

variable {s t : State} {c d : Instr}

/-! ## The timers -/

theorem tickPeer_eq (p : PeerEntry) :
    tickPeer p = { p with heard := if p.presence = .absent then p.heard else countUp Config.heardLimit p.heard } := by
  unfold tickPeer
  split <;> rfl

theorem followCounts_iff : followCounts s = true ↔ s.sc.state = .run ∧ s.sp.effective = .none := by
  simp [followCounts, stopped]

theorem agesCount_iff : agesCount s = true ↔ s.sc.state = .listen ∨ s.sc.state = .catchup ∨ s.sc.state = .run := by
  simp [agesCount, or_assoc]

/-- The timers of a bit time, each function of one entry given as the reader writes it. -/
theorem tickTimers_eq {peer : PeerEntry → PeerEntry} {group : GroupEntry → GroupEntry} {strip : Strip → Strip}
    {stale : StaleTimer} (s : State) (hpeer : ∀ p, tickPeer p = peer p) (hgroup : ∀ e, tickGroup e = group e)
    (hstrip : ∀ x, tickStrip x = strip x) (hstale : tickStale s.lp.stale = stale) :
    tickTimers s = { s with
      period := tickPeriod s.period
      bc := tickBus s.bc
      sc := { tickStation s.sc with peers := mapTable peer s.sc.peers }
      cq := { tickCues false s.cq with
        follow := if s.sc.state = .run ∧ s.sp.effective = .none
          then s.cq.follow.map (fun f => { f with left := f.left - 1 }) else s.cq.follow }
      mr := { tickMix false s.mr with
        groups := if s.sc.state = .listen ∨ s.sc.state = .catchup ∨ s.sc.state = .run
          then mapTable group s.mr.groups else s.mr.groups }
      st := { s.st with strips := mapTable strip s.st.strips }
      sp := { s.sp with lineA := tickLine s.sp.lineA, lineB := tickLine s.sp.lineB }
      lp := { s.lp with stale := stale } } := by
  obtain rfl : tickPeer = peer := funext hpeer
  obtain rfl : tickGroup = group := funext hgroup
  obtain rfl : tickStrip = strip := funext hstrip
  subst hstale
  have counts : followCounts s = decide (s.sc.state = .run ∧ s.sp.effective = .none) :=
    Bool.eq_iff_iff.mpr (by simp [followCounts_iff])
  have ages : agesCount s = decide (s.sc.state = .listen ∨ s.sc.state = .catchup ∨ s.sc.state = .run) :=
    Bool.eq_iff_iff.mpr (by simp [agesCount_iff])
  simp only [tickTimers, counts, ages, tickStation, tickCues, tickMix, decide_eq_true_eq, Bool.false_eq_true, if_false]

/-! ## The bus in one bit time (R125, R132, R137, R138) -/

theorem tickBus_of_held {bc : BusController} (h : bc.phase = .idle) (hl : bc.lineHeld = true) :
    tickBus bc = { bc with run := countUp Config.breakBits bc.run } := by
  simp only [tickBus, h]
  exact if_pos hl

theorem tickBus_of_idle {bc : BusController} (h : bc.phase = .idle) (hl : bc.lineHeld = false) :
    tickBus bc = { bc with
      gap := countUp Config.idleGap bc.gap, run := 0
      yieldGroup := bc.yieldGroup && !decide (Config.bidGap ≤ bc.gap)
      yieldState := bc.yieldState && !decide (Config.bidGap ≤ bc.gap) } := by
  simp only [tickBus, h]
  rw [if_neg (by simp [hl])]
  by_cases hg : Config.bidGap ≤ bc.gap <;> simp [hg, clearYields, h]

theorem tickBus_of_receiving {bc : BusController} (h : bc.phase = .receiving) : tickBus bc = bc := by
  simp only [tickBus, h]

theorem tickBus_of_window {bc : BusController} {f : Sending} (h : bc.phase = .sending) (hf : bc.sending = some f)
    (hw : f.won = true) (hb : frameBits (payloadClass f.payload) ≤ bc.sent) :
    tickBus bc = { bc with gap := countUp Config.windowBits bc.gap, run := 0 } := by
  simp only [tickBus, h, hf]
  exact if_pos (by simp [hw, hb])

theorem tickBus_of_frame {bc : BusController} {f : Sending} (h : bc.phase = .sending) (hf : bc.sending = some f)
    (hb : f.won = false ∨ bc.sent < frameBits (payloadClass f.payload)) :
    tickBus bc = { bc with sent := countUp (frameBits (payloadClass f.payload)) bc.sent } := by
  simp only [tickBus, h, hf]
  exact if_neg (by rcases hb with hb | hb <;> simp [hb])

theorem tickBus_of_broken {bc : BusController} (h : bc.phase = .broken) :
    tickBus bc = { bc with drive := bc.drive - 1, run := countUp Config.faultBits bc.run } := by
  simp only [tickBus, h]

theorem tickBus_of_fault {bc : BusController} (h : bc.phase = .fault) :
    tickBus bc = { bc with
      faultTime := bc.faultTime + 1
      quiet := if bc.lineHeld then 0 else countUp Config.faultBits bc.quiet } := by
  simp only [tickBus, h]

/-! ## What each timer brings due -/

theorem mem_raised {due : Bool} : c ∈ raised due d ↔ due = true ∧ c = d := by
  cases due <;> simp [raised]

theorem raised_sublist {due : Bool} {l : List Instr} (h : d ∈ l) : (raised due d).Sublist l := by
  cases due
  · exact List.nil_sublist l
  · exact List.singleton_sublist.mpr h

theorem raised_sublist_self {due : Bool} : (raised due d).Sublist [d] := raised_sublist (List.mem_singleton_self d)

theorem mem_dueLine {k : StopKind} {l : StopLine} :
    c ∈ dueLine k l ↔ (l.raw = true ∧ ∃ n, l.timer = some n ∧ 2000 ≤ n) ∧ c = .lineAssertion k
      ∨ (l.raw = false ∧ ∃ n, l.timer = some n ∧ 2000 ≤ n) ∧ c = .lineRelease k := by
  have debounced : Config.lineDebounce ≤ l.timer.getD 0 ↔ ∃ n, l.timer = some n ∧ 2000 ≤ n := by
    have limit : Config.lineDebounce = 2000 := rfl
    cases l.timer <;> simp [limit]
  rw [dueLine, mem_raised, decide_eq_true_eq, debounced]
  cases l.raw <;> simp

theorem dueLine_sublist (k : StopKind) (l : StopLine) : (dueLine k l).Sublist [.lineAssertion k, .lineRelease k] := by
  refine raised_sublist ?_
  cases l.raw <;> simp

theorem mem_dueTouch {ch : Channel} :
    c ∈ dueTouch s ch ↔
      (s.st.strips[ch].touch = .free ∧ s.st.strips[ch].touchInput = true ∧ isMotor s ch = true
          ∧ c = .touchInputAsserted ch)
        ∨ ((∃ n, s.st.strips[ch].touch = .pending n ∧ 2000 ≤ n) ∧ c = .touchedArrival ch)
        ∨ (s.st.strips[ch].touch = .hold 0 ∧ c = .freeArrival ch) := by
  have limit : Config.touchAssert = 2000 := rfl
  cases h : s.st.strips[ch].touch <;> simp only [dueTouch, h] <;> simp [mem_raised, limit, and_assoc]

theorem dueTouch_sublist (s : State) (ch : Channel) :
    (dueTouch s ch).Sublist [.touchInputAsserted ch, .touchedArrival ch, .freeArrival ch] := by
  cases h : s.st.strips[ch].touch with
  | touched => simp only [dueTouch, h, List.nil_sublist]
  | free => simpa only [dueTouch, h] using raised_sublist (by simp)
  | pending held => simpa only [dueTouch, h] using raised_sublist (by simp)
  | hold left => simpa only [dueTouch, h] using raised_sublist (by simp)

theorem mem_duePeer {p : Peer} :
    c ∈ duePeer s p ↔ (s.sc.peers[p].presence = .present ∧ 400000 ≤ s.sc.peers[p].heard) ∧ c = .peerLost p := by
  have limit : Config.lostTime = 400000 := rfl
  simp [duePeer, mem_raised, limit]

theorem mem_dueAge {g : Group} :
    c ∈ dueAge s g ↔ (∃ e, s.mr.groups[g] = .owned e ∧ e.stale = false ∧ 1000000 ≤ e.age) ∧ c = .groupAgeLimit g := by
  have limit : Config.ageLimit = 1000000 := rfl
  cases h : s.mr.groups[g] <;> simp only [dueAge, h] <;> simp [mem_raised, limit]

theorem dueAge_sublist (s : State) (g : Group) : (dueAge s g).Sublist [.groupAgeLimit g] := by
  cases h : s.mr.groups[g] with
  | unowned => simp only [dueAge, h, List.nil_sublist]
  | owned e => simpa only [dueAge, h] using raised_sublist_self

theorem mem_dueSend {before : State} {ch : Channel} :
    c ∈ dueSend before s ch ↔
      (s.sc.state = .run ∧ (∃ g, hostedGroup s ch = some g)
        ∧ s.mr.masters[ch].demoted = false ∧ s.mr.masters[ch].since ≠ before.mr.masters[ch].since
        ∧ ((s.mr.masters[ch].since = 8000
            ∧ s.mr.masters[ch].lastSent ≠ some (sourcePosition s ch, s.mr.mute[ch]))
          ∨ s.mr.masters[ch].since = 250000)) ∧ c = .groupSendDue ch := by
  have spacing : Config.groupSpacing = 8000 := rfl
  have refresh : Config.groupRefresh = 250000 := rfl
  simp only [dueSend, mem_raised, Bool.and_eq_true, Bool.or_eq_true, bne_iff_ne, ne_eq, beq_iff_eq, masterDirty,
    Option.isSome_iff_exists, Bool.not_eq_true', spacing, refresh, and_assoc,
    eq_comm (a := before.mr.masters[ch].since)]

theorem mem_dueFollow :
    c ∈ dueFollow s ↔ (s.sc.state = .run ∧ s.sp.effective = .none ∧ ∃ f, s.cq.follow = some f ∧ f.left = 0)
      ∧ c = .followExpiry := by
  rw [dueFollow, mem_raised, Bool.and_eq_true, followCounts_iff]
  cases s.cq.follow <;> simp [and_assoc]

theorem mem_dueRefresh :
    c ∈ raised (s.sc.state == .run && Config.refreshTime ≤ s.sc.refresh.getD 0) .stateRefresh ↔
      (s.sc.state = .run ∧ ∃ n, s.sc.refresh = some n ∧ 100000 ≤ n) ∧ c = .stateRefresh := by
  rw [mem_raised]
  have limit : Config.refreshTime = 100000 := rfl
  cases s.sc.refresh <;> simp [limit]

theorem mem_dueBus :
    c ∈ dueBus s ↔
      ((s.bc.phase = .idle ∧ s.bc.lineHeld = false ∧ (s.bc.gap = 20 ∨ (21 ≤ s.bc.gap ∧ chooseBid s ≠ none)))
          ∧ c = .bidPoint)
        ∨ ((s.bc.phase = .idle ∧ s.bc.lineHeld = true ∧ 16 ≤ s.bc.run) ∧ c = .busBreak)
        ∨ ((s.bc.phase = .sending ∧ s.bc.gap = 16 ∧ ∃ p, s.bc.sending = some { payload := p, won := true })
          ∧ c = .frameComplete)
        ∨ ((s.bc.phase = .broken ∧ s.bc.drive = 0 ∧ s.bc.lineHeld = false) ∧ c = .busBreakEnd)
        ∨ ((s.bc.phase = .broken ∧ (s.bc.drive ≠ 0 ∨ s.bc.lineHeld = true) ∧ 2000 ≤ s.bc.run) ∧ c = .busFault)
        ∨ ((s.bc.phase = .fault ∧ 2000 ≤ s.bc.quiet) ∧ c = .busRestored) := by
  have breaks : Config.breakBits = 16 := rfl
  have bid : Config.bidGap = 20 := rfl
  have idle : Config.idleGap = 21 := rfl
  have window : Config.windowBits = 16 := rfl
  have fault : Config.faultBits = 2000 := rfl
  cases h : s.bc.phase with
  | receiving => simp [dueBus, h]
  | fault => simp [dueBus, h, mem_raised, fault]
  | idle =>
    cases hl : s.bc.lineHeld <;>
      simp [dueBus, h, hl, mem_raised, breaks, bid, idle, Option.isSome_iff_ne_none]
  | sending =>
    have won : s.bc.sending.any (·.won) = true ↔ ∃ p, s.bc.sending = some { payload := p, won := true } := by
      cases s.bc.sending with
      | none => simp
      | some f => cases f; simp
    simp only [dueBus, h, mem_raised, Bool.and_eq_true, won, beq_iff_eq, window]
    simp [and_comm]
  | broken =>
    by_cases ended : s.bc.drive = 0 ∧ s.bc.lineHeld = false
    · simp [dueBus, h, ended]
    · have running : s.bc.drive ≠ 0 ∨ s.bc.lineHeld = true := by
        rcases Decidable.not_and_iff_or_not.mp ended with hd | hl
        · exact .inl hd
        · exact .inr (by simpa using hl)
      simp [dueBus, h, ended, mem_raised, fault, running]

theorem dueBus_sublist (s : State) :
    (dueBus s).Sublist [.bidPoint, .busBreak, .frameComplete, .busBreakEnd, .busFault, .busRestored] := by
  cases h : s.bc.phase with
  | receiving => simp [dueBus, h]
  | fault => simpa only [dueBus, h] using raised_sublist (by simp)
  | sending => simpa only [dueBus, h] using raised_sublist (by simp)
  | idle =>
    simp only [dueBus, h]
    split <;> exact raised_sublist (by simp)
  | broken =>
    simp only [dueBus, h]
    split
    · simp
    · exact raised_sublist (by simp)

theorem mem_duePeriod :
    c ∈ duePeriod s ↔ ((s.period.phase = 0 ∧ runDue s = false) ∧ c = .levelPoint)
      ∨ ((s.period.phase = 0 ∧ runDue s = true) ∧ c = .runEntry)
      ∨ ((s.period.phase = 500 ∧ s.period.begun = true) ∧ c = .outputPoint) := by
  cases h : runDue s <;> simp [duePeriod, h, mem_raised, Config.outputPhase]

theorem duePeriod_sublist (s : State) : (duePeriod s).Sublist [.levelPoint, .runEntry, .outputPoint] := by
  refine List.Sublist.append (l₂ := [.levelPoint, .runEntry]) (raised_sublist ?_) raised_sublist_self
  cases runDue s <;> simp

/-! ## The events that join the queue (log 5, log 25) -/

theorem dueEvents_sublist (before s : State) :
    (dueEvents before s).Sublist
      ([.staleTimerExpiry, .lineAssertion .a, .lineRelease .a, .lineAssertion .b, .lineRelease .b]
        ++ channels.flatMap (fun ch => [.touchInputAsserted ch, .touchedArrival ch, .freeArrival ch])
        ++ peerNumbers.map Instr.peerLost ++ groupNumbers.map Instr.groupAgeLimit
        ++ [.listenTimerExpiry, .followExpiry, .stateRefresh] ++ channels.map Instr.groupSendDue
        ++ [.bidPoint, .busBreak, .frameComplete, .busBreakEnd, .busFault, .busRestored, .levelPoint, .runEntry,
          .outputPoint]) := by
  have lines : (raised (s.lp.stale == .running 0) .staleTimerExpiry ++ dueLine .a s.sp.lineA
      ++ dueLine .b s.sp.lineB).Sublist
        [.staleTimerExpiry, .lineAssertion .a, .lineRelease .a, .lineAssertion .b, .lineRelease .b] :=
    (raised_sublist_self.append (dueLine_sublist .a _)).append (dueLine_sublist .b _)
  have touches := List.Sublist.flatMap_right channels (fun ch _ => dueTouch_sublist s ch)
  have peers : (peerNumbers.flatMap (duePeer s)).Sublist (peerNumbers.map Instr.peerLost) := by
    rw [List.map_eq_flatMap]
    exact List.Sublist.flatMap_right _ fun p _ => raised_sublist_self
  have ages : (groupNumbers.flatMap (dueAge s)).Sublist (groupNumbers.map Instr.groupAgeLimit) := by
    rw [List.map_eq_flatMap]
    exact List.Sublist.flatMap_right _ fun g _ => dueAge_sublist s g
  have timers : (raised (s.sc.state == .listen && s.sc.listen == some 0) .listenTimerExpiry ++ dueFollow s
      ++ raised (s.sc.state == .run && Config.refreshTime ≤ s.sc.refresh.getD 0) .stateRefresh).Sublist
        [.listenTimerExpiry, .followExpiry, .stateRefresh] :=
    (raised_sublist_self.append raised_sublist_self).append raised_sublist_self
  have sends : (channels.flatMap (dueSend before s)).Sublist (channels.map Instr.groupSendDue) := by
    rw [List.map_eq_flatMap]
    exact List.Sublist.flatMap_right _ fun ch _ => raised_sublist_self
  have ends : (dueBus s ++ duePeriod s).Sublist [.bidPoint, .busBreak, .frameComplete, .busBreakEnd, .busFault,
      .busRestored, .levelPoint, .runEntry, .outputPoint] := (dueBus_sublist s).append (duePeriod_sublist s)
  simpa only [dueEvents, List.append_assoc] using
    ((((((lines.append touches).append peers).append ages).append timers).append sends).append ends)

theorem mem_dueEvents {before : State} :
    c ∈ dueEvents before s ↔
      (s.lp.stale = .running 0 ∧ c = .staleTimerExpiry)
        ∨ (∃ k, c ∈ dueLine k (lineOf s k))
        ∨ (∃ ch, c ∈ dueTouch s ch)
        ∨ (∃ p, c ∈ duePeer s p)
        ∨ (∃ g, c ∈ dueAge s g)
        ∨ ((s.sc.state = .listen ∧ s.sc.listen = some 0) ∧ c = .listenTimerExpiry)
        ∨ c ∈ dueFollow s
        ∨ ((s.sc.state = .run ∧ ∃ n, s.sc.refresh = some n ∧ 100000 ≤ n) ∧ c = .stateRefresh)
        ∨ (∃ ch, c ∈ dueSend before s ch)
        ∨ c ∈ dueBus s
        ∨ c ∈ duePeriod s := by
  have lines : (∃ k, c ∈ dueLine k (lineOf s k)) ↔ c ∈ dueLine .a s.sp.lineA ∨ c ∈ dueLine .b s.sp.lineB :=
    ⟨fun ⟨k, hk⟩ => by cases k; exacts [.inl hk, .inr hk], fun h => h.elim (⟨.a, ·⟩) (⟨.b, ·⟩)⟩
  simp only [dueEvents, List.mem_append, List.mem_flatMap, mem_channels, mem_peerNumbers, mem_groupNumbers, true_and,
    lines, mem_dueRefresh, or_assoc]
  simp [mem_raised]

/-! ## The step -/

theorem step_of_waitless (h : s.pending = []) : step s = .next (tick s) := by
  rw [step, h]

theorem tick_pending (h : s.pending = []) : (tick s).pending = dueEvents s (tick s) := by
  show (settle (tickTimers s)).pending ++ dueEvents s (settle (tickTimers s)) = dueEvents s (settle (tickTimers s))
  rw [settle_pending]
  show s.pending ++ _ = _
  rw [h, List.nil_append]

/-- Settles O2: the timers and the bus one by one, then which events each count brings due. -/
theorem idleStepPassesOneBitTime : Obligations.IdleStepPassesOneBitTime := by
  unfold Obligations.IdleStepPassesOneBitTime
  intro s hpending up passes line ages
  have hp : (tick s).pending = dueEvents s (tick s) := tick_pending hpending
  refine ⟨tickBus s.bc, tickTimers s, tick s, step_of_waitless hpending, rfl, ?timers, tickBus_of_held, ?idle,
    tickBus_of_receiving, ?sending, tickBus_of_broken, tickBus_of_fault, ?sublist, ?_⟩
  case timers =>
    refine tickTimers_eq s tickPeer_eq ?group ?strip ?stale
    case group => exact fun e => by cases e <;> rfl
    case strip => exact fun ⟨_, _, touch, _, _, _, _, _, _, _⟩ => by cases touch <;> rfl
    case stale => cases s.lp.stale <;> rfl
  case idle =>
    intro h hl
    have hpasses : decide passes = decide (Config.bidGap ≤ s.bc.gap) :=
      decide_eq_decide.mpr (by simp [passes, h, hl, Config.bidGap])
    rw [hpasses]
    exact tickBus_of_idle h hl
  case sending =>
    intro f h hf bits
    have hbits : bits = frameBits (payloadClass f.payload) := by
      cases hpay : f.payload <;> simp only [bits, hpay] <;> rfl
    rw [hbits]
    exact ⟨tickBus_of_window h hf, tickBus_of_frame h hf⟩
  case sublist => exact hp ▸ dueEvents_sublist s (tick s)
  rw [hp]
  generalize tick s = t
  refine ⟨?stale, fun k => ⟨?assertion, ?release⟩, fun ch => ⟨?asserted, ?arrival, ?freed, ?send⟩, fun p => ?lost,
    fun g => ?age, ?listen, ?follow, ?refresh, ?bid, ?broken, ?complete, ?ended, ?fault, ?restored, ?level, ?entry,
    ?output⟩
  all_goals
    simp [mem_dueEvents, mem_dueLine, mem_dueTouch, mem_duePeer, mem_dueAge, mem_dueFollow, mem_dueSend, mem_dueBus,
      mem_duePeriod]

end Sys2Proof.Machine
end

section
/-!
PROOFS. Abandonment on a station that cannot bid (R138, R139, log 14): what one abandonment is, what its owner does
with it, why abandonments come to an end, and what they leave.
-/

namespace Sys2Proof.Machine

variable {s t u : State} {c d : FrameClass} {f : Flight} {n m : Nat}

/-! ## One abandonment -/

/-- The frame in flight of a class that is not on the bus is the one abandoned. -/
theorem abandonOne_of_flight (hf : flightOf s c = some f) (hb : classOnBus s ≠ some c) :
    abandonOne s c = some (frameEnd false f.payload (setFlight s c none)) := by
  simp only [abandonOne, hf]
  exact if_neg hb

theorem abandonOne_stop (h : s.bc.stopFlight = none) :
    abandonOne s .stop = (pendingStops s).head?.map (fun p => frameEnd false p s) := by
  simp only [abandonOne, flightOf, h]

theorem abandonOne_cue (h : s.bc.cueFlight = none) :
    abandonOne s .cue = s.cq.outgoing.head?.map (fun r =>
      takeCue r.kind r.cue s.sc.number.val r.origin { s with cq := { s.cq with outgoing := s.cq.outgoing.tail } }) := by
  simp only [abandonOne, flightOf, h]

theorem abandonOne_group (h : s.bc.groupFlight = none) :
    abandonOne s .group = (supplyMaster s).map (fun ch => masterFrameEnd ch none s) := by
  simp only [abandonOne, flightOf, h]

theorem abandonOne_state (h : s.bc.stateFlight = none) :
    abandonOne s .state
      = if s.sc.stateRequest = true then some { s with sc := { s.sc with stateRequest := false } } else none := by
  simp only [abandonOne, flightOf, h]

/-- The frames behind the STOP frame on the bus. -/
theorem abandonOne_stop_on_bus (hf : s.bc.stopFlight = some f) (hb : classOnBus s = some .stop) :
    abandonOne s .stop
      = ((pendingStops s).filter (fun p => p != f.payload)).head?.map (fun p => frameEnd false p s) := by
  simp only [abandonOne, flightOf, hf]
  exact if_pos hb

/-- The frames behind the CUE frame on the bus. -/
theorem abandonOne_cue_on_bus (hf : s.bc.cueFlight = some f) (hb : classOnBus s = some .cue) :
    abandonOne s .cue = (s.cq.outgoing.find? (fun r => !r.sent)).map (fun r =>
      takeCue r.kind r.cue s.sc.number.val r.origin
        { s with cq := { s.cq with outgoing := s.cq.outgoing.eraseP (fun r => !r.sent) } }) := by
  simp only [abandonOne, flightOf, hf]
  exact if_pos hb

theorem abandonOne_group_on_bus (hf : s.bc.groupFlight = some f) (hb : classOnBus s = some .group) :
    abandonOne s .group = none := by
  simp only [abandonOne, flightOf, hf]
  exact if_pos hb

theorem abandonOne_state_on_bus (hf : s.bc.stateFlight = some f) (hb : classOnBus s = some .state) :
    abandonOne s .state = none := by
  simp only [abandonOne, flightOf, hf]
  exact if_pos hb

theorem classOnBus_of_quiet (h : s.bc.sending = none) : classOnBus s = none := by
  rw [classOnBus, h]
  rfl

theorem hostedGroup_of_supplied {ch : Channel} (h : supplyMaster s = some ch) : ∃ g, hostedGroup s ch = some g := by
  have hfind := (supplyMaster_of_run (state_of_supplied h)).symm.trans h
  exact ((masterEligible_iff s ch).mp (List.find?_some hfind)).1

theorem freshOffer_group_eq_none : freshOffer s .group = none ↔ supplyMaster s = none := by
  show (supplyMaster s).bind (groupPayload s) = none ↔ _
  cases h : supplyMaster s with
  | none => simp
  | some ch =>
    obtain ⟨g, hg⟩ := hostedGroup_of_supplied h
    simp [groupPayload_of_hosted hg]

/-- With nothing on the bus a class has a frame to abandon exactly where it has one to offer. -/
theorem abandonOne_eq_none_iff (h : s.bc.sending = none) : abandonOne s c = none ↔ offerOf s c = none := by
  cases hf : flightOf s c with
  | some f => simp [abandonOne_of_flight hf (by simp [classOnBus_of_quiet h]), offerOf_of_flight hf]
  | none =>
    rw [offerOf_of_none hf]
    cases c with
    | stop => simp [abandonOne_stop hf, freshOffer]
    | cue => simp [abandonOne_cue hf, freshOffer]
    | group => simp [abandonOne_group hf, freshOffer_group_eq_none]
    | state => simp [abandonOne_state hf, freshOffer]

/-! ## The row of abandonments -/

/-- The first class with a frame to abandon gives the next one. -/
def nextAbandoned (s : State) : Option State :=
  [FrameClass.stop, .cue, .group, .state].findSome? (abandonOne s)

theorem nextAbandoned_eq_none : nextAbandoned s = none ↔ ∀ c, abandonOne s c = none := by
  simp only [nextAbandoned, List.findSome?_eq_none_iff]
  exact ⟨fun h c => h c (by cases c <;> simp), fun h c _ => h c⟩

theorem nextAbandoned_of_first (h : abandonOne s c = some t)
    (before : ∀ b : FrameClass, b.code < c.code → abandonOne s b = none) : nextAbandoned s = some t := by
  have hb (b : FrameClass) (hlt : b.code < c.code) := before b hlt
  cases c with
  | stop => simp [nextAbandoned, h]
  | cue => simp [nextAbandoned, h, hb .stop (by decide)]
  | group => simp [nextAbandoned, h, hb .stop (by decide), hb .cue (by decide)]
  | state => simp [nextAbandoned, h, hb .stop (by decide), hb .cue (by decide), hb .group (by decide)]

theorem exists_of_nextAbandoned (h : nextAbandoned s = some t) : ∃ c, abandonOne s c = some t := by
  obtain ⟨c, -, hc⟩ := List.exists_of_findSome?_eq_some h
  exact ⟨c, hc⟩

theorem abandonPending_of_none (n : Nat) (h : nextAbandoned s = none) : abandonPending n s = s := by
  cases n with
  | zero => rfl
  | succ n =>
    rw [abandonPending]
    change (if cannotBid s = true then (match nextAbandoned s with
      | some s => abandonPending n s
      | none => s) else s) = s
    rw [h]
    exact ite_self s

theorem abandonPending_of_some (hb : cannotBid s = true) (h : nextAbandoned s = some t) :
    abandonPending (n + 1) s = abandonPending n t := by
  rw [abandonPending, if_pos hb]
  change (match nextAbandoned s with
      | some s => abandonPending n s
      | none => s) = _
  rw [h]

/-- Once nothing is left to abandon, more turns change nothing. -/
theorem abandonPending_stable (h : nextAbandoned (abandonPending n s) = none) (hm : n ≤ m) :
    abandonPending m s = abandonPending n s := by
  induction n generalizing s m with
  | zero => exact abandonPending_of_none m h
  | succ n ih =>
    obtain ⟨m, rfl⟩ : ∃ k, m = k + 1 := ⟨m - 1, by omega⟩
    cases hb : cannotBid s with
    | false => simp [abandonPending, hb]
    | true =>
      cases hs : nextAbandoned s with
      | none => rw [abandonPending_of_none _ hs, abandonPending_of_none _ hs]
      | some t =>
        rw [abandonPending_of_some hb hs] at h
        rw [abandonPending_of_some hb hs, abandonPending_of_some hb hs]
        exact ih h (by omega)

/-- The abandonments end in `t` after `n` turns. -/
def SettlesIn (n : Nat) (s t : State) : Prop := abandonPending n s = t ∧ nextAbandoned t = none

theorem SettlesIn.done (h : ∀ c, abandonOne s c = none) : SettlesIn 0 s s := ⟨rfl, nextAbandoned_eq_none.mpr h⟩

theorem SettlesIn.next (hb : cannotBid s = true) (hs : nextAbandoned s = some t) (h : SettlesIn n t u) :
    SettlesIn (n + 1) s u :=
  ⟨(abandonPending_of_some hb hs).trans h.1, h.2⟩

theorem SettlesIn.step (hb : cannotBid s = true) (hs : abandonOne s c = some t)
    (before : ∀ b : FrameClass, b.code < c.code → abandonOne s b = none) (h : SettlesIn n t u) : SettlesIn (n + 1) s u :=
  h.next hb (nextAbandoned_of_first hs before)

theorem SettlesIn.settle_eq (h : SettlesIn n s t) (hn : n ≤ 65536) : settle s = t := by
  obtain ⟨rfl, hnone⟩ := h
  exact abandonPending_stable hnone hn

/-! ## What the owners of abandoned frames leave alone -/

theorem cannotBid_of_sansOwners (h : sansOwners t = sansOwners s) : cannotBid t = cannotBid s :=
  show cannotBid (sansOwners t) = cannotBid (sansOwners s) from congrArg cannotBid h

theorem cannotSend_of_sansOwners (h : sansOwners t = sansOwners s) : cannotSend t = cannotSend s :=
  show cannotSend (sansOwners t) = cannotSend (sansOwners s) from congrArg cannotSend h

theorem sansOwners_masked (h : sansOwners t = sansOwners s) :
    t.mr = { s.mr with masters := t.mr.masters, lastGroup := t.mr.lastGroup }
      ∧ t.bc = { s.bc with
        stopFlight := t.bc.stopFlight, cueFlight := t.bc.cueFlight, groupFlight := t.bc.groupFlight
        stateFlight := t.bc.stateFlight }
      ∧ t.sc = { s.sc with
        peers := t.sc.peers, stateRequest := t.sc.stateRequest, candidate := t.sc.candidate } :=
  ⟨congrArg (fun x => { x.mr with masters := t.mr.masters, lastGroup := t.mr.lastGroup }) h,
    congrArg (fun x => { x.bc with
      stopFlight := t.bc.stopFlight, cueFlight := t.bc.cueFlight, groupFlight := t.bc.groupFlight
      stateFlight := t.bc.stateFlight }) h,
    congrArg (fun x => { x.sc with
      peers := t.sc.peers, stateRequest := t.sc.stateRequest, candidate := t.sc.candidate }) h⟩

@[simp] theorem clearOrphanFlag_bc (k : StopKind) (p : Peer) : (clearOrphanFlag k p s).bc = s.bc := by
  unfold clearOrphanFlag; split <;> rfl

@[simp] theorem clearOrphanFlag_mr (k : StopKind) (p : Peer) : (clearOrphanFlag k p s).mr = s.mr := by
  unfold clearOrphanFlag; split <;> rfl

@[simp] theorem clearOrphanFlag_sp (k : StopKind) (p : Peer) : (clearOrphanFlag k p s).sp = s.sp := by
  unfold clearOrphanFlag; split <;> rfl

@[simp] theorem stopFrameEnd_bc (release : Bool) (k : StopKind) (target : Station) :
    (stopFrameEnd release k target s).bc = s.bc := by
  unfold stopFrameEnd
  dsimp only
  repeat' split
  all_goals simp

@[simp] theorem stopFrameEnd_mr (release : Bool) (k : StopKind) (target : Station) :
    (stopFrameEnd release k target s).mr = s.mr := by
  unfold stopFrameEnd
  dsimp only
  repeat' split
  all_goals simp

@[simp] theorem frameEnd_bc (completed : Bool) (p : Payload) : (frameEnd completed p s).bc = s.bc := by
  cases p with
  | stop release k target => simp [frameEnd]
  | cue kind origin cue => simp [frameEnd]
  | group g mute position =>
    rw [frameEnd, groupFrameEnd]
    split <;> rfl
  | state solo a b last => rfl

theorem flightOf_frameEnd (completed : Bool) (p : Payload) : flightOf (frameEnd completed p s) c = flightOf s c := by
  cases c <;> simp [flightOf]

theorem flightOf_takeCue (kind : CueKind) (cue : CueNumber) (station : Nat) (origin : OriginKind) :
    flightOf (takeCue kind cue station origin s) c = flightOf s c := by
  cases c <;> simp [flightOf]

theorem flightOf_setFlight_other (h : d ≠ c) : flightOf (setFlight s d none) c = flightOf s c := by
  cases c <;> cases d <;> first | rfl | exact absurd rfl h

/-- The frame on the bus is not abandoned (R139). -/
theorem abandonOne_keeps_bus (hd : classOnBus s = some d) (h : abandonOne s c = some t) : flightOf t d = flightOf s d := by
  have standing (hcase : (∃ p ∈ pendingStops s, t = frameEnd false p s)
      ∨ (∃ r ∈ s.cq.outgoing, ∃ rest, rest.Sublist s.cq.outgoing
          ∧ t = takeCue r.kind r.cue s.sc.number.val r.origin { s with cq := { s.cq with outgoing := rest } })
      ∨ (∃ ch, supplyMaster s = some ch ∧ t = masterFrameEnd ch none s)
      ∨ t = { s with sc := { s.sc with stateRequest := false } }) : flightOf t d = flightOf s d := by
    rcases hcase with ⟨p, -, rfl⟩ | ⟨r, -, rest, -, rfl⟩ | ⟨ch, -, rfl⟩ | rfl
    · exact flightOf_frameEnd false p
    · rw [flightOf_takeCue]
      cases d <;> rfl
    · cases d <;> rfl
    · cases d <;> rfl
  rcases abandonOne_cases h with ⟨f, hf, rfl⟩ | hcase
  · by_cases hcd : c = d
    · subst hcd
      cases c with
      | stop =>
        rw [abandonOne_stop_on_bus hf hd] at h
        obtain ⟨p, -, hp⟩ := Option.map_eq_some_iff.mp h
        rw [← hp]
        exact flightOf_frameEnd false p
      | cue =>
        rw [abandonOne_cue_on_bus hf hd] at h
        obtain ⟨r, -, hr⟩ := Option.map_eq_some_iff.mp h
        rw [← hr, flightOf_takeCue]
        rfl
      | group => exact absurd h (by simp [abandonOne_group_on_bus hf hd])
      | state => exact absurd h (by simp [abandonOne_state_on_bus hf hd])
    · rw [flightOf_frameEnd, flightOf_setFlight_other hcd]
  · exact standing hcase

/-! ## No abandonment posts TX ABANDONED -/

/-- The queue holds at most `n` TX ABANDONED records. -/
def ReportsAtMost (n : Nat) (lp : LoadPort) : Prop := lp.queue.countP (fun r => r.kind == .txAbandoned) ≤ n

theorem countP_appendRecord {q : List EventRecord} {r : EventRecord} (h : r.kind ≠ .txAbandoned) :
    (appendRecord q r).countP (fun r => r.kind == .txAbandoned) ≤ q.countP (fun r => r.kind == .txAbandoned) := by
  have hr : (r.kind == EventKind.txAbandoned) = false := by simpa using h
  unfold appendRecord
  split
  · simp [hr]
  · cases q with
    | nil => simp [hr]
    | cons x rest =>
      cases rest with
      | nil => simp [hr]
      | cons y rest => simp [hr, List.countP_cons]

theorem ReportsAtMost.post {k : EventKind} {a b : Nat} (hk : k ≠ .txAbandoned) (h : ReportsAtMost n s.lp) :
    ReportsAtMost n (post k a b s).lp := (countP_appendRecord hk).trans h

namespace ReportsAtMost

theorem enterClear {k : StopKind} (h : ReportsAtMost n s.lp) : ReportsAtMost n (enterClear k s).lp := by
  rw [Machine.enterClear, requestState_lp]
  exact .post (by decide) (by simpa using h)

theorem testRelease {k : StopKind} (h : ReportsAtMost n s.lp) : ReportsAtMost n (testRelease k s).lp := by
  unfold Machine.testRelease
  split
  · split
    · simpa using h
    · exact h.enterClear
  · exact h

theorem enterHeld {k : StopKind} (h : ReportsAtMost n s.lp) : ReportsAtMost n (enterHeld k s).lp := by
  refine testRelease ?_
  rw [raiseStop_lp, requestState_lp]
  exact .post (by decide) (by simpa using h)

theorem assertFromClear {k : StopKind} (h : ReportsAtMost n s.lp) : ReportsAtMost n (assertFromClear k s).lp := by
  unfold Machine.assertFromClear
  split
  · simpa using h
  · exact h.enterHeld

theorem stopFrameEnd {release : Bool} {k : StopKind} {target : Station} (h : ReportsAtMost n s.lp) :
    ReportsAtMost n (stopFrameEnd release k target s).lp := by
  unfold Machine.stopFrameEnd
  dsimp only
  split
  · split
    · exact h.enterHeld
    · split
      · exact h.enterClear.assertFromClear
      · exact h.enterClear
    · exact h
  · split
    · simpa using h
    · exact h

theorem requestFire {c : CueNumber} {o : OriginKind} (h : ReportsAtMost n s.lp) : ReportsAtMost n (requestFire c o s).lp := by
  unfold Machine.requestFire
  rcases offerRequest_cases s .fire c o with ⟨ho, -⟩ | ⟨ho, -⟩ | ⟨ho, -⟩ <;> rw [ho]
  · exact h
  · exact h.post (by decide)
  · exact h

theorem takeFire {c : CueNumber} {i : Nat} {o : OriginKind} (h : ReportsAtMost n s.lp) :
    ReportsAtMost n (takeFire c i o s).lp := by
  unfold Machine.takeFire
  split
  · exact h.post (by decide)
  split
  · exact h.post (by decide)
  split
  · exact h.post (by decide)
  rw [acceptFire_eq]
  have hx : ReportsAtMost n (expanded c i o s).lp := by
    obtain ⟨x, b, cm, he⟩ := expanded_frame c i o s
    rw [he]
    exact h.post (by decide)
  unfold expireAtOnce
  split
  · split
    · exact requestFire hx
    · exact hx
  · exact hx

theorem takeCue {k : CueKind} {c : CueNumber} {i : Nat} {o : OriginKind} (h : ReportsAtMost n s.lp) :
    ReportsAtMost n (takeCue k c i o s).lp := by
  unfold Machine.takeCue
  split
  · exact h
  · exact h.takeFire
  · exact h.takeFire
  · simpa using h
  · simpa using h
  · exact h

theorem frameEnd {completed : Bool} {p : Payload} (h : ReportsAtMost n s.lp) :
    ReportsAtMost n (frameEnd completed p s).lp := by
  cases p with
  | stop release k target => exact h.stopFrameEnd
  | cue kind origin c => exact takeCue (s := { s with cq := { s.cq with outgoing := s.cq.outgoing.eraseP (·.sent) } }) h
  | group g mute position => simpa [Machine.frameEnd] using h
  | state solo a b last => exact h

theorem settle (h : ReportsAtMost n s.lp) : ReportsAtMost n (settle s).lp := by
  refine settle_keeps (P := fun t => ReportsAtMost n t.lp) (fun s c t _ hone hs => ?_) h
  rcases abandonOne_cases hone with ⟨f, -, rfl⟩ | ⟨p, -, rfl⟩ | ⟨r, -, rest, -, rfl⟩ | ⟨ch, -, rfl⟩ | rfl
  · exact frameEnd (by simpa using hs)
  · exact hs.frameEnd
  · exact takeCue (s := { s with cq := { s.cq with outgoing := rest } }) hs
  · exact hs
  · exact hs

end ReportsAtMost

end Sys2Proof.Machine
end

section
/-!
PROOFS. The abandonments of a silent station come to an end: each of its owners leaves fewer frames pending (R134,
R138, R139, log 14), and what they leave where few frames are pending.
-/

namespace Sys2Proof.Machine

variable {s t u : State} {c : FrameClass}

/-! ## The machines of a station that cannot announce -/

/-- The machine has a frame to send (R131, R161, R163). -/
def StopMachine.pends (m : StopMachine) : Nat :=
  match m.state with
  | .announcing => 1
  | .releasing => 1
  | _ => 0

/-- The machine rests. -/
def StopMachine.Rests (m : StopMachine) : Prop := m.state = .clear ∨ m.state = .held

theorem StopMachine.Rests.pends {m : StopMachine} (h : m.Rests) : m.pends = 0 := by
  rcases h with h | h <;> simp only [StopMachine.pends, h]

/-- No machine and no orphan release has come to have a frame. -/
structure Calmer (s t : State) : Prop where
  machines : ∀ k, machineOf t k = machineOf s k ∨ (machineOf t k).Rests
  orphan : t.sp.orphan = s.sp.orphan ∨ t.sp.orphan = none

namespace Calmer

theorem of_sp (h : t.sp = s.sp) : Calmer s t :=
  ⟨fun k => .inl (machineOf_of_eq (by rw [h]) (by rw [h]) k), .inl (by rw [h])⟩

theorem trans (h : Calmer s t) (h' : Calmer t u) : Calmer s u :=
  ⟨fun k => (h'.machines k).elim (fun e => e ▸ h.machines k) .inr,
    h'.orphan.elim (fun e => e ▸ h.orphan) .inr⟩

theorem machineMoved {k : StopKind} {m : StopMachine} {lp : LoadPort} {effective : EffectiveStop} (hm : m.Rests) :
    Calmer s (machineMoved k m lp effective s) := by
  refine ⟨fun j => ?_, .inl (by cases k <;> rfl)⟩
  by_cases hj : j = k
  · subst hj
    rw [machineOf_machineMoved]
    exact .inr hm
  · exact .inl (machineOf_machineMoved_other hj)

theorem enterClear (k : StopKind) (s : State) : Calmer s (enterClear k s) := by
  rw [enterClear_eq]
  exact machineMoved (.inl rfl)

theorem enterHeld {k : StopKind} (hc : canAnnounce s = false) : Calmer s (enterHeld k s) := by
  have held : Calmer s (heldEntry k s) := machineMoved (.inr rfl)
  rw [enterHeld_eq]
  cases hr : releaseCondition (heldEntry k s) k with
  | false => rwa [testRelease_of_unmet (by simp [hr])]
  | true =>
    rw [testRelease_of_silent (by rw [heldEntry_held]) hr (canAnnounce_machineMoved.trans hc)]
    exact held.trans (enterClear k _)

end Calmer

theorem machineOf_enterClear (k : StopKind) (s : State) : machineOf (enterClear k s) k = { state := .clear, ack := false } := by
  rw [enterClear_eq, machineOf_machineMoved]

theorem enterHeld_rests {k : StopKind} (hc : canAnnounce s = false) : (machineOf (enterHeld k s) k).Rests := by
  rw [enterHeld_eq]
  cases hr : releaseCondition (heldEntry k s) k with
  | false =>
    rw [testRelease_of_unmet (by simp [hr]), heldEntry_held]
    exact .inr rfl
  | true =>
    rw [testRelease_of_silent (by rw [heldEntry_held]) hr (canAnnounce_machineMoved.trans hc), machineOf_enterClear]
    exact .inl rfl

theorem canAnnounce_enterClear (k : StopKind) : canAnnounce (enterClear k s) = canAnnounce s := by
  rw [enterClear_eq, canAnnounce_machineMoved]

theorem assertFromClear_of_silent {k : StopKind} (hc : canAnnounce s = false) : assertFromClear k s = enterHeld k s :=
  if_neg (by simp [hc])

/-- The end of a release frame on a station that cannot announce. -/
theorem frameEnd_release_cases {k : StopKind} (completed : Bool) (hc : canAnnounce s = false)
    (hm : (machineOf s k).state = .releasing) :
    frameEnd completed (.stop true k s.sc.number) s = enterClear k s
      ∨ frameEnd completed (.stop true k s.sc.number) s = enterHeld k (enterClear k s) := by
  rw [frameEnd_release completed hm, assertFromClear_of_silent ((canAnnounce_enterClear k).trans hc)]
  split
  · exact .inr rfl
  · exact .inl rfl

theorem stopFrameEnd_calmer (hc : canAnnounce s = false) (release : Bool) (k : StopKind) (target : Station) :
    Calmer s (stopFrameEnd release k target s) := by
  have hclear := (canAnnounce_enterClear k).trans hc
  unfold stopFrameEnd
  dsimp only
  split
  · split
    · exact Calmer.enterHeld hc
    · split
      · rw [assertFromClear_of_silent hclear]
        exact (Calmer.enterClear k s).trans (Calmer.enterHeld hclear)
      · exact Calmer.enterClear k s
    · exact .of_sp rfl
  · split
    · exact ⟨fun j => .inl (machineOf_of_eq (by simp) (by simp) j), .inr (by simp)⟩
    · exact .of_sp rfl

theorem frameEnd_calmer (hc : canAnnounce s = false) (completed : Bool) (p : Payload) :
    Calmer s (frameEnd completed p s) := by
  cases p with
  | stop release k target => exact stopFrameEnd_calmer hc release k target
  | cue kind origin cue => exact .of_sp (by simp [frameEnd])
  | group g mute position =>
    rw [frameEnd, groupFrameEnd]
    split <;> exact .of_sp rfl
  | state solo a b last => exact .of_sp rfl

/-! ## The STOP frames pending -/

/-- The STOP frame a machine has to send. -/
def ownStops (s : State) (k : StopKind) : List Payload :=
  match (machineOf s k).state with
  | .announcing => [.stop false k s.sc.number]
  | .releasing => [.stop true k s.sc.number]
  | _ => []

/-- The orphan release to send. -/
def orphanStops (s : State) : List Payload :=
  match s.sp.orphan with
  | some (k, p) => [.stop true k p.succ]
  | none => []

theorem pendingStops_eq : pendingStops s = ownStops s .a ++ ownStops s .b ++ orphanStops s := rfl

theorem mem_ownStops {k : StopKind} {p : Payload} : p ∈ ownStops s k ↔
    ((machineOf s k).state = .announcing ∧ p = .stop false k s.sc.number)
      ∨ ((machineOf s k).state = .releasing ∧ p = .stop true k s.sc.number) := by
  unfold ownStops
  split <;> simp_all

theorem length_ownStops (s : State) (k : StopKind) : (ownStops s k).length = (machineOf s k).pends := by
  unfold ownStops StopMachine.pends
  split <;> simp_all

theorem mem_orphanStops {p : Payload} : p ∈ orphanStops s ↔ ∃ k q, s.sp.orphan = some (k, q) ∧ p = .stop true k q.succ := by
  unfold orphanStops
  split <;> simp_all

theorem length_orphanStops (s : State) : (orphanStops s).length = s.sp.orphan.toList.length := by
  unfold orphanStops
  split <;> simp_all

theorem length_pendingStops (s : State) : (pendingStops s).length =
    (machineOf s .a).pends + (machineOf s .b).pends + s.sp.orphan.toList.length := by
  simp only [pendingStops_eq, List.length_append, length_ownStops, length_orphanStops]

theorem mem_pendingStops {p : Payload} : p ∈ pendingStops s ↔ (∃ k, p ∈ ownStops s k) ∨ p ∈ orphanStops s := by
  rw [pendingStops_eq, List.mem_append, List.mem_append]
  refine or_congr ⟨?_, ?_⟩ Iff.rfl
  · rintro (h | h)
    exacts [⟨.a, h⟩, ⟨.b, h⟩]
  · rintro ⟨k, h⟩
    cases k
    exacts [.inl h, .inr h]

theorem pends_le (m : StopMachine) : m.pends ≤ 1 := by
  unfold StopMachine.pends
  split <;> simp

theorem length_pendingStops_le (s : State) : (pendingStops s).length ≤ 3 := by
  have ha := pends_le (machineOf s .a)
  have hb := pends_le (machineOf s .b)
  have ho : s.sp.orphan.toList.length ≤ 1 := by cases s.sp.orphan <;> simp
  rw [length_pendingStops]
  omega

namespace Calmer

theorem pends_le (h : Calmer s t) (k : StopKind) : (machineOf t k).pends ≤ (machineOf s k).pends := by
  rcases h.machines k with he | hr
  · rw [he]
  · rw [hr.pends]
    exact Nat.zero_le _

theorem orphan_le (h : Calmer s t) : t.sp.orphan.toList.length ≤ s.sp.orphan.toList.length := by
  rcases h.orphan with he | he <;> simp [he]

theorem length_le (h : Calmer s t) : (pendingStops t).length ≤ (pendingStops s).length := by
  have ha := h.pends_le .a
  have hb := h.pends_le .b
  have ho := h.orphan_le
  rw [length_pendingStops, length_pendingStops]
  omega

/-- A machine with a frame that comes to rest leaves fewer. -/
theorem length_lt_of_rests {k : StopKind} (h : Calmer s t) (hs : (machineOf s k).pends = 1) (ht : (machineOf t k).Rests) :
    (pendingStops t).length < (pendingStops s).length := by
  have ha := h.pends_le .a
  have hb := h.pends_le .b
  have ho := h.orphan_le
  have h0 := ht.pends
  rw [length_pendingStops, length_pendingStops]
  cases k <;> omega

theorem length_lt_of_orphan (h : Calmer s t) (hs : s.sp.orphan ≠ none) (ht : t.sp.orphan = none) :
    (pendingStops t).length < (pendingStops s).length := by
  have ha := h.pends_le .a
  have hb := h.pends_le .b
  have h1 : s.sp.orphan.toList.length = 1 := by
    cases ho : s.sp.orphan with
    | none => exact absurd ho hs
    | some x => rfl
  rw [length_pendingStops, length_pendingStops, h1, ht]
  simp only [Option.toList_none, List.length_nil]
  omega

end Calmer

/-- The orphan release is for another station than this one (R149, R166). -/
def OrphanElsewhere (s : State) : Prop := ∀ k p, s.sp.orphan = some (k, p) → peerNumber p ≠ s.sc.number.val

theorem OrphanElsewhere.calmer (h : OrphanElsewhere s) (hcalm : Calmer s t) (hn : t.sc.number = s.sc.number) :
    OrphanElsewhere t := by
  intro k p ho
  rcases hcalm.orphan with he | he
  · rw [hn]
    exact h k p (he ▸ ho)
  · exact absurd (he.symm.trans ho) (by simp)

/-- The end of a pending STOP frame on a station that cannot announce leaves one fewer. -/
theorem length_pendingStops_frameEnd {p : Payload} (hc : canAnnounce s = false) (ho : OrphanElsewhere s)
    (hp : p ∈ pendingStops s) (completed : Bool) :
    (pendingStops (frameEnd completed p s)).length < (pendingStops s).length := by
  have hcalm := frameEnd_calmer hc completed p
  rcases mem_pendingStops.mp hp with ⟨k, hk⟩ | hq
  · rcases mem_ownStops.mp hk with ⟨hm, rfl⟩ | ⟨hm, rfl⟩
    · refine hcalm.length_lt_of_rests (k := k) (by simp only [StopMachine.pends, hm]) ?_
      rw [frameEnd_assert completed hm]
      exact enterHeld_rests hc
    · refine hcalm.length_lt_of_rests (k := k) (by simp only [StopMachine.pends, hm]) ?_
      rcases frameEnd_release_cases completed hc hm with he | he
      · rw [he, machineOf_enterClear]
        exact .inl rfl
      · rw [he]
        exact enterHeld_rests ((canAnnounce_enterClear k).trans hc)
  · obtain ⟨k, q, horphan, rfl⟩ := mem_orphanStops.mp hq
    have hne : q.succ ≠ s.sc.number := fun he => ho k q horphan (congrArg Fin.val he)
    refine hcalm.length_lt_of_orphan (by simp [horphan]) ?_
    simp only [frameEnd, stopFrameEnd, if_neg hne, horphan, clearOrphanFlag_sp]

/-! ## The requests and the masters -/

/-- No request joins the queue of a station that cannot send (R52, R53). -/
theorem expireAtOnce_of_silent (hc : cannotSend s = true) : expireAtOnce s = s := by
  unfold expireAtOnce
  split
  · exact if_neg (by simp [hc])
  · rfl

theorem takeFire_outgoing_of_silent {cue : CueNumber} {n : Nat} {origin : OriginKind} (hc : cannotSend s = true) :
    (takeFire cue n origin s).cq.outgoing = s.cq.outgoing := by
  unfold takeFire
  split
  · rfl
  split
  · rfl
  split
  · rfl
  obtain ⟨i, b, cm, he⟩ := expanded_frame cue n origin s
  rw [acceptFire_eq, expireAtOnce_of_silent, he]
  rw [he]
  exact hc

theorem takeStandby_outgoing_frame (cue : CueNumber) : (takeStandby cue s).cq.outgoing = s.cq.outgoing := by
  obtain ⟨i, b, cm, he⟩ := runExpander_frame (discardPrefetch { s with cq := { s.cq with standby := cueAtOrAfter (cueTable s) cue } })
  rw [takeStandby, he]
  show (discardPrefetch _).cq.outgoing = _
  unfold discardPrefetch
  split <;> rfl

theorem takeCue_outgoing_of_silent {kind : CueKind} {cue : CueNumber} {n : Nat} {origin : OriginKind}
    (hc : cannotSend s = true) : (takeCue kind cue n origin s).cq.outgoing = s.cq.outgoing := by
  unfold takeCue
  split
  · rfl
  · exact takeFire_outgoing_of_silent hc
  · exact takeFire_outgoing_of_silent hc
  · exact takeStandby_outgoing_frame cue
  · exact takeStandby_outgoing_frame cue
  · rfl

theorem frameEnd_outgoing_le (hc : cannotSend s = true) (completed : Bool) (p : Payload) :
    (frameEnd completed p s).cq.outgoing.length ≤ s.cq.outgoing.length := by
  cases p with
  | stop release k target => simp [frameEnd]
  | cue kind origin cue =>
    rw [frameEnd, cueFrameEnd]
    dsimp only
    rw [takeCue_outgoing_of_silent (s := { s with cq := { s.cq with outgoing := s.cq.outgoing.eraseP (·.sent) } }) hc]
    exact List.eraseP_sublist.length_le
  | group g mute position => simp [frameEnd]
  | state solo a b last => exact le_rfl

/-- The masters that have a frame to send (R97). -/
def eligibleMasters (s : State) : Finset Channel := Finset.univ.filter (fun ch => masterEligible s ch = true)

theorem mem_eligibleMasters {ch : Channel} : ch ∈ eligibleMasters s ↔ masterEligible s ch = true := by
  simp [eligibleMasters]

theorem card_eligibleMasters_le (s : State) : (eligibleMasters s).card ≤ 16 :=
  (Finset.card_le_univ _).trans_eq (Fintype.card_fin 16)

theorem hostedGroup_of_sm (h : t.sm = s.sm) (ch : Channel) : hostedGroup t ch = hostedGroup s ch := by
  unfold hostedGroup roleOf entryOf
  rw [h]

/-- What the masters' eligibility reads. -/
theorem masterEligible_congr (hmr : t.mr = s.mr) (hst : t.st = s.st) (hl : t.fe.levels = s.fe.levels) (hsm : t.sm = s.sm)
    (ch : Channel) : masterEligible t ch = masterEligible s ch := by
  unfold masterEligible masterDirty sourcePosition
  rw [hmr, hst, hl, hostedGroup_of_sm hsm]

theorem supplyMaster_congr (hmr : t.mr = s.mr) (hst : t.st = s.st) (hl : t.fe.levels = s.fe.levels) (hsm : t.sm = s.sm)
    (hs : t.sc.state = s.sc.state) : supplyMaster t = supplyMaster s := by
  unfold supplyMaster
  rw [hs, hmr, funext (masterEligible_congr hmr hst hl hsm)]

/-- A master whose time since send has restarted has no frame, and no other gains one (R99). -/
theorem masterEligible_masterFrameEnd (ch other : Channel) : masterEligible (masterFrameEnd ch none s) other =
    (masterEligible s other && other != ch) := by
  by_cases h : other = ch
  · subst h
    rw [bne_self_eq_false, Bool.and_false, ← Bool.not_eq_true, masterEligible_iff]
    have hsince : (masterFrameEnd other none s).mr.masters[other].since = 0 :=
      congrArg Master.since (put_same s.mr.masters other { s.mr.masters[other] with since := 0 })
    rw [hsince]
    rintro ⟨-, -, ⟨-, h⟩ | h⟩ <;> exact absurd h (by decide)
  · have hm : (masterFrameEnd ch none s).mr.masters[other] = s.mr.masters[other] := put_other _ _ (Ne.symm h)
    rw [bne_iff_ne.mpr h, Bool.and_true]
    unfold masterEligible masterDirty
    rw [hm]
    rfl

theorem eligibleMasters_masterFrameEnd (ch : Channel) :
    eligibleMasters (masterFrameEnd ch none s) = (eligibleMasters s).erase ch := by
  ext other
  simp [mem_eligibleMasters, masterEligible_masterFrameEnd, and_comm]

theorem mem_eligibleMasters_of_supplied {ch : Channel} (h : supplyMaster s = some ch) : ch ∈ eligibleMasters s :=
  mem_eligibleMasters.mpr
    (List.find?_some ((supplyMaster_of_run (state_of_supplied h)).symm.trans h))

theorem eligibleMasters_congr (hmr : t.mr = s.mr) (hst : t.st = s.st) (hl : t.fe.levels = s.fe.levels) (hsm : t.sm = s.sm) :
    eligibleMasters t = eligibleMasters s := by
  ext ch
  rw [mem_eligibleMasters, mem_eligibleMasters, masterEligible_congr hmr hst hl hsm]

theorem frameEnd_eligible_le (p : Payload) : (eligibleMasters (frameEnd false p s)).card ≤ (eligibleMasters s).card := by
  cases p with
  | stop release k target => exact (congrArg Finset.card (eligibleMasters_congr (by simp [frameEnd]) (by simp) (by simp) (by simp))).le
  | cue kind origin cue => exact (congrArg Finset.card (eligibleMasters_congr (by simp [frameEnd]) (by simp) (by simp) (by simp))).le
  | group g mute position =>
    rw [frameEnd, groupFrameEnd]
    split
    · rw [if_neg (by simp), eligibleMasters_masterFrameEnd]
      exact Finset.card_erase_le
    · exact le_rfl
  | state solo a b last => exact le_rfl

/-! ## The abandonments come to an end -/

/-- How many frames are in flight. -/
def flights (s : State) : Nat :=
  s.bc.stopFlight.toList.length + s.bc.cueFlight.toList.length + s.bc.groupFlight.toList.length
    + s.bc.stateFlight.toList.length

/-- What is pending. A frame in flight and a STOP frame weigh two: at their end a STATE frame may be asked for. -/
def burden (s : State) : Nat :=
  2 * flights s + 2 * (pendingStops s).length + s.cq.outgoing.length + (eligibleMasters s).card + s.sc.stateRequest.toNat

theorem flights_le (s : State) : flights s ≤ 4 := by
  have one (o : Option Flight) : o.toList.length ≤ 1 := by cases o <;> simp
  have h1 := one s.bc.stopFlight
  have h2 := one s.bc.cueFlight
  have h3 := one s.bc.groupFlight
  have h4 := one s.bc.stateFlight
  unfold flights
  omega

theorem flights_setFlight {f : Flight} (h : flightOf s c = some f) : flights (setFlight s c none) + 1 = flights s := by
  cases c <;> simp only [flightOf] at h <;> simp only [flights, setFlight, h] <;> simp <;> omega

theorem flights_of_bc (h : t.bc = s.bc) : flights t = flights s := by
  unfold flights
  rw [h]

/-- What the end of any frame leaves pending, but for a STATE request. -/
theorem burden_frameEnd (hc : cannotSend s = true) (p : Payload) : burden (frameEnd false p s) ≤
    2 * flights s + 2 * (pendingStops (frameEnd false p s)).length + s.cq.outgoing.length + (eligibleMasters s).card + 1 := by
  have hf : flights (frameEnd false p s) = flights s := flights_of_bc (frameEnd_bc false p)
  have ho := frameEnd_outgoing_le hc false p
  have he := frameEnd_eligible_le (s := s) p
  have hr := Bool.toNat_le (frameEnd false p s).sc.stateRequest
  rw [burden, hf]
  omega

theorem canAnnounce_of_cannotSend (hc : cannotSend s = true) : canAnnounce s = false := by
  simp [canAnnounce, cannotBid, hc]

/-- An abandonment on a follower or TX-muted station with nothing on the bus leaves less pending. -/
theorem burden_lt {t : State} (hc : cannotSend s = true) (hb : s.bc.sending = none) (ho : OrphanElsewhere s)
    (h : abandonOne s c = some t) : burden t < burden s := by
  have hann := canAnnounce_of_cannotSend hc
  have hreq := Nat.zero_le s.sc.stateRequest.toNat
  cases hf : flightOf s c with
  | some f =>
    rw [abandonOne_of_flight hf (by simp [classOnBus_of_quiet hb])] at h
    obtain rfl := Option.some.inj h
    obtain ⟨u, hu⟩ : ∃ u, u = setFlight s c none := ⟨_, rfl⟩
    rw [← hu]
    have hview : sansOwners u = sansOwners s := hu ▸ sansOwners_setFlight s c none
    have hcu : cannotSend u = true := (cannotSend_of_sansOwners hview).trans hc
    have hcalm : Calmer s u := .of_sp (by rw [hu, setFlight_sp])
    have hend := burden_frameEnd hcu f.payload
    have hstops := (hcalm.trans (frameEnd_calmer (canAnnounce_of_cannotSend hcu) false f.payload)).length_le
    have hfl : flights u + 1 = flights s := hu ▸ flights_setFlight hf
    have helig : eligibleMasters u = eligibleMasters s := eligibleMasters_congr (by simp [hu]) (by simp [hu]) (by simp [hu]) (by simp [hu])
    have hout : u.cq.outgoing = s.cq.outgoing := by simp [hu]
    rw [helig, hout] at hend
    unfold burden at hend ⊢
    omega
  | none =>
    cases c with
    | stop =>
      rw [abandonOne_stop hf] at h
      obtain ⟨p, hp, rfl⟩ := Option.map_eq_some_iff.mp h
      have hstops := length_pendingStops_frameEnd hann ho (List.mem_of_mem_head? hp) false
      have hend := burden_frameEnd hc p
      unfold burden at hend ⊢
      omega
    | cue =>
      rw [abandonOne_cue hf] at h
      obtain ⟨r, hr, rfl⟩ := Option.map_eq_some_iff.mp h
      obtain ⟨u, hu⟩ : ∃ u, u = { s with cq := { s.cq with outgoing := s.cq.outgoing.tail } } := ⟨_, rfl⟩
      rw [← hu]
      obtain ⟨rest, hrest⟩ : ∃ rest, s.cq.outgoing = r :: rest := ⟨_, List.eq_cons_of_mem_head? hr⟩
      have hout : (takeCue r.kind r.cue s.sc.number.val r.origin u).cq.outgoing = rest := by
        rw [takeCue_outgoing_of_silent (by rw [hu]; exact hc), hu]
        simp [hrest]
      have hfl : flights (takeCue r.kind r.cue s.sc.number.val r.origin u) = flights s := flights_of_bc (by simp [hu])
      have hstops : (pendingStops (takeCue r.kind r.cue s.sc.number.val r.origin u)).length ≤ (pendingStops s).length :=
        Calmer.length_le (.of_sp (by simp [hu]))
      have helig : eligibleMasters (takeCue r.kind r.cue s.sc.number.val r.origin u) = eligibleMasters s :=
        eligibleMasters_congr (by simp [hu]) (by simp [hu]) (by simp [hu]) (by simp [hu])
      have hst : (takeCue r.kind r.cue s.sc.number.val r.origin u).sc.stateRequest = s.sc.stateRequest := by simp [hu]
      rw [burden, burden, hout, hfl, helig, hst, hrest, List.length_cons]
      omega
    | group =>
      rw [abandonOne_group hf] at h
      obtain ⟨ch, hch, rfl⟩ := Option.map_eq_some_iff.mp h
      have hcard := Finset.card_erase_lt_of_mem (mem_eligibleMasters_of_supplied hch)
      rw [← eligibleMasters_masterFrameEnd] at hcard
      have hstops : (pendingStops (masterFrameEnd ch none s)).length ≤ (pendingStops s).length := Calmer.length_le (.of_sp rfl)
      have hfl : flights (masterFrameEnd ch none s) = flights s := rfl
      have hout : (masterFrameEnd ch none s).cq.outgoing = s.cq.outgoing := rfl
      have hst : (masterFrameEnd ch none s).sc.stateRequest = s.sc.stateRequest := rfl
      rw [burden, burden, hfl, hout, hst]
      omega
    | state =>
      rw [abandonOne_state hf] at h
      cases hr : s.sc.stateRequest with
      | false => simp [hr] at h
      | true =>
        rw [if_pos hr] at h
        obtain rfl := Option.some.inj h
        have hsame : burden { s with sc := { s.sc with stateRequest := false } } + s.sc.stateRequest.toNat = burden s := rfl
        rw [hr] at hsame
        exact Nat.lt_of_succ_le hsame.le

theorem OrphanElsewhere.abandoned {t : State} (ho : OrphanElsewhere s) (hc : cannotSend s = true)
    (h : abandonOne s c = some t) : OrphanElsewhere t := by
  refine ho.calmer ?_ (congrArg (·.sc.number) (sansOwners_abandonOne h))
  rcases abandonOne_cases h with ⟨f, -, rfl⟩ | ⟨p, -, rfl⟩ | ⟨r, -, rest, -, rfl⟩ | ⟨ch, -, rfl⟩ | rfl
  · refine Calmer.trans (.of_sp (by simp)) (frameEnd_calmer (canAnnounce_of_cannotSend ?_) _ _)
    exact (cannotSend_of_sansOwners (sansOwners_setFlight s c none)).trans hc
  · exact frameEnd_calmer (canAnnounce_of_cannotSend hc) _ _
  · exact .of_sp (by simp)
  · exact .of_sp rfl
  · exact .of_sp rfl

/-- On a follower or TX-muted station with nothing on the bus the abandonments end, within as many turns as the state
is burdened (log 14). -/
theorem exists_settlesIn {n : Nat} : ∀ {s : State}, cannotSend s = true → s.bc.sending = none → OrphanElsewhere s →
    burden s ≤ n → ∃ t, ∃ k ≤ n, SettlesIn k s t := by
  induction n with
  | zero =>
    intro s hc hb ho hn
    refine ⟨s, 0, le_rfl, .done fun c => ?_⟩
    cases h : abandonOne s c with
    | none => rfl
    | some t => exact absurd (burden_lt hc hb ho h) (by omega)
  | succ n ih =>
    intro s hc hb ho hn
    cases hs : nextAbandoned s with
    | none => exact ⟨s, 0, Nat.zero_le _, .done (nextAbandoned_eq_none.mp hs)⟩
    | some t =>
      obtain ⟨c, hone⟩ := exists_of_nextAbandoned hs
      have hview := sansOwners_abandonOne hone
      have hlt := burden_lt hc hb ho hone
      obtain ⟨u, k, hk, hset⟩ := ih ((cannotSend_of_sansOwners hview).trans hc)
        ((congrArg (·.bc.sending) hview).trans hb) (ho.abandoned hc hone) (by omega)
      exact ⟨u, k + 1, by omega, hset.next (by simp [cannotBid, hc]) hs⟩

/-- The burden of a station whose request queue keeps its bound. -/
theorem burden_le (h : s.cq.outgoing.length ≤ 4) : burden s ≤ 65536 := by
  have h1 := flights_le s
  have h2 := length_pendingStops_le s
  have h3 := card_eligibleMasters_le s
  have h4 := Bool.toNat_le s.sc.stateRequest
  unfold burden
  omega

theorem offerOf_settle_of_cannotSend (hc : cannotSend s = true) (hb : s.bc.sending = none)
    (hq : s.cq.outgoing.length ≤ 4) (ho : OrphanElsewhere s) (c : FrameClass) : offerOf (settle s) c = none := by
  obtain ⟨t, k, hk, h⟩ := exists_settlesIn hc hb ho (burden_le hq)
  rw [← abandonOne_eq_none_iff (by rwa [settle_sending]), h.settle_eq hk]
  exact nextAbandoned_eq_none.mp h.2 c

/-! ## What is left where little is pending -/

/-- With no frame in flight, and none of an owner, nothing is left to abandon. -/
theorem abandonOne_of_nothing (hsil : Silent s) (hp : pendingStops s = []) (hq : s.cq.outgoing = [])
    (hm : supplyMaster s = none) (hr : s.sc.stateRequest = false) (c : FrameClass) : abandonOne s c = none := by
  obtain ⟨-, hstop, hcue, hgroup, hstate⟩ := hsil
  cases c with
  | stop => simp [abandonOne_stop hstop, hp]
  | cue => simp [abandonOne_cue hcue, hq]
  | group => simp [abandonOne_group hgroup, hm]
  | state => simp [abandonOne_state hstate, hr]

theorem supplyMaster_of_unrequested :
    supplyMaster { s with sc := { s.sc with stateRequest := false } } = supplyMaster s :=
  supplyMaster_congr rfl rfl rfl rfl rfl

/-- Only a STATE request is left: it is dropped. -/
theorem settlesIn_unrequested (hb : cannotBid s = true) (hsil : Silent s) (hp : pendingStops s = [])
    (hq : s.cq.outgoing = []) (hm : supplyMaster s = none) :
    ∃ n ≤ 1, SettlesIn n s { s with sc := { s.sc with stateRequest := false } } := by
  have hdone : SettlesIn 0 { s with sc := { s.sc with stateRequest := false } }
      { s with sc := { s.sc with stateRequest := false } } :=
    .done (abandonOne_of_nothing hsil hp hq (supplyMaster_of_unrequested.trans hm) rfl)
  obtain ⟨-, hstop, hcue, hgroup, hstate⟩ := hsil
  cases hr : s.sc.stateRequest with
  | true =>
    refine ⟨1, le_rfl, .step (c := .state) hb ((abandonOne_state hstate).trans (if_pos hr)) (fun b hlt => ?_) hdone⟩
    cases b with
    | stop => simp [abandonOne_stop hstop, hp]
    | cue => simp [abandonOne_cue hcue, hq]
    | group => simp [abandonOne_group hgroup, hm]
    | state => exact absurd hlt (lt_irrefl _)
  | false =>
    have hsame : { s with sc := { s.sc with stateRequest := false } } = s := by rw [← hr]
    rw [hsame] at hdone ⊢
    exact ⟨0, Nat.zero_le _, hdone⟩

/-- No class comes before STOP. -/
theorem none_before_stop {P : FrameClass → Prop} (b : FrameClass) (h : b.code < FrameClass.stop.code) : P b :=
  absurd h (Nat.not_lt_zero _)

theorem before_cue {P : FrameClass → Prop} (h : P .stop) (b : FrameClass) (hb : b.code < FrameClass.cue.code) : P b := by
  cases b with
  | stop => exact h
  | cue | group | state => exact absurd hb (by decide)

theorem before_group {P : FrameClass → Prop} (h : P .stop) (h' : P .cue) (b : FrameClass)
    (hb : b.code < FrameClass.group.code) : P b := by
  cases b with
  | stop => exact h
  | cue => exact h'
  | group | state => exact absurd hb (by decide)

theorem before_state {P : FrameClass → Prop} (h : P .stop) (h' : P .cue) (h'' : P .group) (b : FrameClass)
    (hb : b.code < FrameClass.state.code) : P b := by
  cases b with
  | stop => exact h
  | cue => exact h'
  | group => exact h''
  | state => exact absurd hb (by decide)

theorem Silent.of_bc (h : Silent s) (hbc : t.bc = s.bc) : Silent t := by
  unfold Silent
  rwa [hbc]

/-- One STOP frame pending: it ends, and then a STATE request is dropped. -/
theorem settle_of_one_stop {p : Payload} (hb : cannotBid s = true) (hsil : Silent s) (hp : pendingStops s = [p])
    (hq : s.cq.outgoing = []) (hm : supplyMaster s = none) (ho : OrphanElsewhere s) :
    settle s = { frameEnd false p s with sc := { (frameEnd false p s).sc with stateRequest := false } } := by
  have hann : canAnnounce s = false := by simp [canAnnounce, hb]
  have hmem : p ∈ pendingStops s := by simp [hp]
  obtain ⟨release, k, target, hstop⟩ : ∃ release k target, p = .stop release k target := by
    rcases mem_pendingStops.mp hmem with ⟨k, hk⟩ | hq
    · rcases mem_ownStops.mp hk with ⟨-, rfl⟩ | ⟨-, rfl⟩
      exacts [⟨_, _, _, rfl⟩, ⟨_, _, _, rfl⟩]
    · obtain ⟨k, q, -, rfl⟩ := mem_orphanStops.mp hq
      exact ⟨_, _, _, rfl⟩
  have hone : abandonOne s .stop = some (frameEnd false p s) := by
    rw [abandonOne_stop hsil.2.1, hp]
    rfl
  have hlt := length_pendingStops_frameEnd hann ho hmem false
  rw [hp, List.length_singleton, Nat.lt_one_iff] at hlt
  have hmr : (frameEnd false p s).mr = s.mr := by simp [hstop, frameEnd]
  obtain ⟨n, hn, hset⟩ := settlesIn_unrequested ((cannotBid_of_sansOwners (sansOwners_frameEnd s false p)).trans hb)
    (hsil.of_bc (frameEnd_bc false p)) (List.eq_nil_of_length_eq_zero hlt)
    ((by simp [hstop, frameEnd] : (frameEnd false p s).cq.outgoing = s.cq.outgoing).trans hq)
    ((supplyMaster_congr hmr (by simp) (by simp) (by simp) (by simp)).trans hm)
  exact (hset.step hb hone none_before_stop).settle_eq (by omega)

/-- One request pending: it is taken as received, and what that leaves pending decides. -/
theorem settle_of_one_request {r : Request} (hb : cannotBid s = true) (hsil : Silent s) (hp : pendingStops s = [])
    (hq : s.cq.outgoing = [r]) (hm : supplyMaster s = none) (hr : s.sc.stateRequest = false)
    (ht : t = takeCue r.kind r.cue s.sc.number.val r.origin { s with cq := { s.cq with outgoing := [] } })
    (hout : t.cq.outgoing = []) : settle s = t := by
  have hone : abandonOne s .cue = some t := by
    rw [abandonOne_cue hsil.2.2.1, hq, ht]
    rfl
  have hstop : abandonOne s .stop = none := by simp [abandonOne_stop hsil.2.1, hp]
  have hstops : (pendingStops t).length ≤ (pendingStops s).length := Calmer.length_le (.of_sp (by simp [ht]))
  have hdone : SettlesIn 0 t t := .done (abandonOne_of_nothing (hsil.of_bc (by simp [ht]))
    (List.eq_nil_of_length_eq_zero (by simpa [hp] using hstops)) hout
    ((supplyMaster_congr (by simp [ht]) (by simp [ht]) (by simp [ht]) (by simp [ht]) (by simp [ht])).trans hm)
    (by simpa [ht] using hr))
  exact (hdone.step hb hone (before_cue hstop)).settle_eq (by decide)

/-- Masters alone have frames: every eligible one restarts its time since send, one after another. -/
theorem exists_settlesIn_masters {n : Nat} : ∀ {s : State}, cannotBid s = true → Silent s → pendingStops s = [] →
    s.cq.outgoing = [] → s.sc.stateRequest = false → s.sc.state = .run → (eligibleMasters s).card = n →
    ∃ masters last, SettlesIn n s { s with mr := { s.mr with masters := masters, lastGroup := last } }
      ∧ (∀ ch : Channel, masters[ch] = if masterEligible s ch = true
          then { s.mr.masters[ch] with since := 0 } else s.mr.masters[ch])
      ∧ (eligibleMasters s = ∅ → last = s.mr.lastGroup)
      ∧ ∀ ch : Channel, eligibleMasters s = {ch} → last = some ch := by
  induction n with
  | zero =>
    intro s hb hsil hp hq hr hrun hn
    have hnone := Finset.card_eq_zero.mp hn
    have hclean (ch : Channel) : ¬ masterEligible s ch = true := fun h => by
      simpa [hnone] using mem_eligibleMasters.mpr h
    have hm : supplyMaster s = none := by
      rw [supplyMaster_of_run hrun, List.find?_eq_none]
      exact fun ch _ => hclean ch
    refine ⟨s.mr.masters, s.mr.lastGroup, .done (abandonOne_of_nothing hsil hp hq hm hr),
      fun ch => (if_neg (hclean ch)).symm, fun _ => rfl, fun ch h => ?_⟩
    rw [hnone] at h
    exact absurd h.symm (Finset.singleton_ne_empty ch)
  | succ n ih =>
    intro s hb hsil hp hq hr hrun hn
    obtain ⟨x, hx⟩ := Finset.card_pos.mp (hn.symm ▸ Nat.succ_pos n : 0 < (eligibleMasters s).card)
    obtain ⟨ch, hch⟩ : ∃ ch, supplyMaster s = some ch := by
      rw [supplyMaster_of_run hrun, ← Option.isSome_iff_exists, List.find?_isSome]
      exact ⟨x, mem_supplyOrder _ x, mem_eligibleMasters.mp hx⟩
    have hmem := mem_eligibleMasters_of_supplied hch
    have herase := eligibleMasters_masterFrameEnd (s := s) ch
    have hcard : (eligibleMasters (masterFrameEnd ch none s)).card = n := by
      rw [herase, Finset.card_erase_of_mem hmem, hn]
      rfl
    obtain ⟨masters, last, hset, hmasters, hlast, -⟩ := ih (s := masterFrameEnd ch none s) hb hsil hp hq hr hrun hcard
    have hone : abandonOne s .group = some (masterFrameEnd ch none s) := by
      rw [abandonOne_group hsil.2.2.2.1, hch]
      rfl
    have hstop : abandonOne s .stop = none := by simp [abandonOne_stop hsil.2.1, hp]
    have hcue : abandonOne s .cue = none := by simp [abandonOne_cue hsil.2.2.1, hq]
    refine ⟨masters, last, hset.step hb hone (before_group hstop hcue), fun other => ?_, fun h => ?_, fun other h => ?_⟩
    · rw [hmasters other, masterEligible_masterFrameEnd]
      by_cases ho : other = ch
      · subst ho
        have hself : (masterFrameEnd other none s).mr.masters[other] = { s.mr.masters[other] with since := 0 } :=
          put_same _ _ _
        rw [if_neg (by simp), if_pos (mem_eligibleMasters.mp hmem), hself]
      · have hother : (masterFrameEnd ch none s).mr.masters[other] = s.mr.masters[other] := put_other _ _ (Ne.symm ho)
        rw [hother, bne_iff_ne.mpr ho, Bool.and_true]
    · exact absurd h (Finset.ne_empty_of_mem hmem)
    · obtain rfl : ch = other := by simpa [h] using hmem
      exact hlast (by rw [herase, h, Finset.erase_singleton])

/-- The four frames in flight end one after another. -/
theorem settle_of_four_flights {stop cue group state : Flight} (hb : cannotBid s = true) (hbus : s.bc.sending = none)
    (hstop : s.bc.stopFlight = some stop) (hcue : s.bc.cueFlight = some cue) (hgroup : s.bc.groupFlight = some group)
    (hstate : s.bc.stateFlight = some state) {a b g d : State}
    (ha : a = frameEnd false stop.payload (setFlight s .stop none))
    (hb' : b = frameEnd false cue.payload (setFlight a .cue none))
    (hg : g = frameEnd false group.payload (setFlight b .group none))
    (hd : d = frameEnd false state.payload (setFlight g .state none))
    (hoa : offerOf a .stop = none) (hob : offerOf b .stop = none ∧ offerOf b .cue = none)
    (hog : offerOf g .stop = none ∧ offerOf g .cue = none ∧ offerOf g .group = none)
    (hod : ∀ c, offerOf d c = none) : settle s = d := by
  have untouched {x y : State} {f : Flight} {c : FrameClass} (hx : x = frameEnd false f.payload (setFlight y c none)) :
      sansOwners x = sansOwners y := by simp [hx]
  have quiet {x y : State} (h : sansOwners x = sansOwners y) (hy : y.bc.sending = none) : x.bc.sending = none :=
    (congrArg (·.bc.sending) h).trans hy
  have kept {x y : State} {f : Flight} {c c' : FrameClass} (hx : x = frameEnd false f.payload (setFlight y c none))
      (hc : c ≠ c') : flightOf x c' = flightOf y c' := by
    rw [hx, flightOf_frameEnd, flightOf_setFlight_other hc]
  have ended {x y : State} {f : Flight} {c : FrameClass} (hx : x = frameEnd false f.payload (setFlight y c none))
      (hy : y.bc.sending = none) (hf : flightOf y c = some f) : abandonOne y c = some x :=
    hx ▸ abandonOne_of_flight hf (by simp [classOnBus_of_quiet hy])
  have qa := quiet (untouched ha) hbus
  have qb := quiet (untouched hb') qa
  have qg := quiet (untouched hg) qb
  have qd := quiet (untouched hd) qg
  have ba := (cannotBid_of_sansOwners (untouched ha)).trans hb
  have bb := (cannotBid_of_sansOwners (untouched hb')).trans ba
  have bg := (cannotBid_of_sansOwners (untouched hg)).trans bb
  have hdone : SettlesIn 0 d d := .done fun c => (abandonOne_eq_none_iff qd).mpr (hod c)
  have hcue' : flightOf a .cue = some cue := (kept ha (by decide)).trans hcue
  have hgroup' : flightOf b .group = some group := (kept hb' (by decide)).trans ((kept ha (by decide)).trans hgroup)
  have hstate' : flightOf g .state = some state :=
    (kept hg (by decide)).trans ((kept hb' (by decide)).trans ((kept ha (by decide)).trans hstate))
  have stepg : SettlesIn 1 g d := hdone.step bg (ended hd qg hstate')
    (before_state ((abandonOne_eq_none_iff qg).mpr hog.1) ((abandonOne_eq_none_iff qg).mpr hog.2.1)
      ((abandonOne_eq_none_iff qg).mpr hog.2.2))
  have stepb : SettlesIn 2 b d := stepg.step bb (ended hg qb hgroup')
    (before_group ((abandonOne_eq_none_iff qb).mpr hob.1) ((abandonOne_eq_none_iff qb).mpr hob.2))
  have stepa : SettlesIn 3 a d := stepb.step ba (ended hb' qa hcue') (before_cue ((abandonOne_eq_none_iff qa).mpr hoa))
  exact (stepa.step hb (ended ha hbus hstop) none_before_stop).settle_eq (by decide)

/-- Settles O44: what stands, that the abandonments end, their order, and what they leave where little is pending. -/
theorem silencedStationAbandonsItsFrames : Obligations.SilencedStationAbandonsItsFrames := by
  refine ⟨fun s h => settle_of_canBid h, fun s => ?stands, fun s hc hb hq ho c => offerOf_settle_of_cannotSend hc hb hq ho c,
    fun s t c hb hone before hdone => ?order, fun s c hb => abandonOne_eq_none_iff hb,
    fun s c f hf hb => abandonOne_of_flight hf ?away,
    fun s => ⟨abandonOne_stop, abandonOne_cue, abandonOne_group, abandonOne_state⟩, fun s f g hs hf => ?behind,
    fun s stop cue group state hb hbus hstop hcue hgroup hstate hoa hob hog hod =>
      settle_of_four_flights hb hbus hstop hcue hgroup hstate rfl rfl rfl rfl hoa hob hog hod,
    fun s hb hsil hp hq hm => ?request, fun s p hb hsil hp hq hm ho => settle_of_one_stop hb hsil hp hq hm ho,
    fun s r hb hsil hp hq hm hr t ht hout => settle_of_one_request hb hsil hp hq hm hr ht hout,
    fun s hb hsil hp hq hr hrun => ?masters⟩
  case stands =>
    obtain ⟨hmr, hbc, hsc⟩ := sansOwners_masked (sansOwners_settle s)
    refine ⟨settle_period s, settle_sm s, settle_st s, settle_pending s, settle_levels s, settle_pool s, hmr, hbc, hsc,
      settle_port s, settle_offset s, ReportsAtMost.settle (n := _) le_rfl, fun f hs => ?_⟩
    refine (settle_keeps (P := fun t => t.bc.sending = s.bc.sending
      ∧ flightOf t (payloadClass f.payload) = flightOf s (payloadClass f.payload)) (fun u c t _ hone hu => ?_) ⟨rfl, rfl⟩).2
    obtain ⟨hbus, hflight⟩ := hu
    have hd : classOnBus u = some (payloadClass f.payload) := by rw [classOnBus, hbus, hs]; rfl
    exact ⟨(congrArg (·.bc.sending) (sansOwners_abandonOne hone)).trans hbus, (abandonOne_keeps_bus hd hone).trans hflight⟩
  case order =>
    have hset : SettlesIn 65535 t (settle s) :=
      ⟨(abandonPending_of_some hb (nextAbandoned_of_first hone before)).symm, nextAbandoned_eq_none.mpr hdone⟩
    exact (hset.settle_eq (by decide)).symm
  case away =>
    intro hbus
    obtain ⟨g, hg, hclass⟩ := Option.map_eq_some_iff.mp hbus
    exact hb g hg hclass
  case behind =>
    have hbus : classOnBus s = some (payloadClass g.payload) := by rw [classOnBus, hs]; rfl
    refine ⟨fun h => ?_, fun h => ?_, fun h => ?_, fun h => ?_⟩ <;> rw [h] at hf hbus
    · exact abandonOne_stop_on_bus hf hbus
    · exact abandonOne_cue_on_bus hf hbus
    · exact abandonOne_group_on_bus hf hbus
    · exact abandonOne_state_on_bus hf hbus
  case request =>
    obtain ⟨n, hn, hset⟩ := settlesIn_unrequested hb hsil hp hq hm
    exact hset.settle_eq (by omega)
  case masters =>
    obtain ⟨masters, last, hset, hmasters, -, hlast⟩ := exists_settlesIn_masters hb hsil hp hq hr hrun rfl
    refine ⟨masters, last, hset.settle_eq ((card_eligibleMasters_le s).trans (by decide)), hmasters, fun ch h => hlast ch ?_⟩
    ext other
    rw [mem_eligibleMasters, h, Finset.mem_singleton]

end Sys2Proof.Machine
end

section
/-!
PROOFS. Validation read as a row of checks (R23, R24): what a reader of the image gives is settled by the first check
in fault, and with none in fault by the bytes at its places.
-/

namespace Sys2Proof.Machine

variable {bytes : List Byte} {o width : Nat} {α β : Type} {reason : LoadFaultReason} {ok : Bool}
  {checks rest : List (Option LoadFault)} {Q : α → Prop}

/-! ## The bytes of the image, and a check of one field -/

def byteAt (bytes : List Byte) (o : Nat) : Nat := (bytes.getD o 0).toNat
def twoAt (bytes : List Byte) (o : Nat) : Nat := byteAt bytes o * 256 + byteAt bytes (o + 1)
def threeAt (bytes : List Byte) (o : Nat) : Nat := twoAt bytes o * 256 + byteAt bytes (o + 2)

/-- The number lies within the two bounds. -/
def inRange (low high n : Nat) : Bool := low ≤ n && n ≤ high

/-- The fault of a field: SIZE where the image ends before it, else the reason where it does not hold (R24). -/
def fieldCheck (bytes : List Byte) (o width : Nat) (ok : Bool) (reason : LoadFaultReason) : Option LoadFault :=
  if bytes.length < o + width then some (.size, bytes.length)
  else if ok = true then none else some (reason, o)

theorem fieldCheck_of_short (h : bytes.length < o + width) : fieldCheck bytes o width ok reason = some (.size, bytes.length) :=
  if_pos h

theorem fieldCheck_of_ok (h : o + width ≤ bytes.length) : fieldCheck bytes o width true reason = none :=
  (if_neg (by omega)).trans (if_pos rfl)

theorem fieldCheck_of_fault (h : o + width ≤ bytes.length) : fieldCheck bytes o width false reason = some (reason, o) :=
  (if_neg (by omega)).trans (if_neg (by simp))

/-- The image read from offset `o` on. -/
def readingAt (bytes : List Byte) (o : Nat) : Cursor := { rest := bytes.drop o, offset := o }

theorem field1_of_room (h : o + 1 ≤ bytes.length) :
    field1 (readingAt bytes o) = .ok (byteAt bytes o, readingAt bytes (o + 1)) := by
  have hdrop : bytes.drop o = bytes[o] :: bytes.drop (o + 1) := List.drop_eq_getElem_cons (by omega)
  have hbyte : bytes.getD o 0 = bytes[o] := List.getD_eq_getElem _ _ (by omega)
  simp only [field1, readingAt, hdrop, byteAt, hbyte]

theorem field1_of_end (h : o = bytes.length) : field1 (readingAt bytes o) = .error (.size, bytes.length) := by
  subst h
  simp only [field1, readingAt, List.drop_length]

theorem field2_of_room (h : o + 2 ≤ bytes.length) :
    field2 (readingAt bytes o) = .ok (twoAt bytes o, readingAt bytes (o + 2)) := by
  have hhi := field1_of_room (bytes := bytes) (o := o) (by omega)
  have hlo := field1_of_room (bytes := bytes) (o := o + 1) (by omega)
  simp only [field2, hhi, hlo, bind, Except.bind, pure, Except.pure, twoAt]

theorem field2_of_short (h : o ≤ bytes.length) (hs : bytes.length < o + 2) :
    field2 (readingAt bytes o) = .error (.size, bytes.length) := by
  by_cases h1 : o + 1 ≤ bytes.length
  · have hlo := field1_of_end (bytes := bytes) (o := o + 1) (by omega)
    simp only [field2, field1_of_room h1, hlo, bind, Except.bind]
  · simp only [field2, field1_of_end (bytes := bytes) (o := o) (by omega), bind, Except.bind]

theorem field3_of_room (h : o + 3 ≤ bytes.length) :
    field3 (readingAt bytes o) = .ok (threeAt bytes o, readingAt bytes (o + 3)) := by
  have hhi := field2_of_room (bytes := bytes) (o := o) (by omega)
  have hlo := field1_of_room (bytes := bytes) (o := o + 2) (by omega)
  simp only [field3, hhi, hlo, bind, Except.bind, pure, Except.pure, threeAt]

theorem field3_of_short (h : o ≤ bytes.length) (hs : bytes.length < o + 3) :
    field3 (readingAt bytes o) = .error (.size, bytes.length) := by
  by_cases h2 : o + 2 ≤ bytes.length
  · have hlo := field1_of_end (bytes := bytes) (o := o + 2) (by omega)
    simp only [field3, field2_of_room h2, hlo, bind, Except.bind]
  · simp only [field3, field2_of_short (bytes := bytes) (o := o) h (by omega), bind, Except.bind]

/-! ## A reader follows a row of checks -/

/-- The reader answers the first fault of the row, and with none in fault a value of which `Q` holds. -/
structure Follows (x : Except LoadFault α) (checks : List (Option LoadFault)) (Q : α → Prop) : Prop where
  fault : ∀ f, checks.findSome? id = some f → x = .error f
  value : checks.findSome? id = none → ∃ a, x = .ok a ∧ Q a

namespace Follows

variable {x : Except LoadFault α} {f : α → Except LoadFault β} {P : β → Prop}

theorem error_iff (h : Follows x checks Q) (e : LoadFault) : x = .error e ↔ checks.findSome? id = some e := by
  refine ⟨fun hx => ?_, h.fault e⟩
  cases hc : checks.findSome? id with
  | none =>
    obtain ⟨a, ha, -⟩ := h.value hc
    exact absurd (ha.symm.trans hx) (by simp)
  | some e' => exact congrArg some (Except.error.inj ((h.fault e' hc).symm.trans hx))

theorem of_ok (h : Follows x checks Q) {a : α} (hx : x = .ok a) : Q a := by
  cases hc : checks.findSome? id with
  | none =>
    obtain ⟨a', ha, hq⟩ := h.value hc
    exact Except.ok.inj (ha.symm.trans hx) ▸ hq
  | some e => exact absurd (hx.symm.trans (h.fault e hc)) (by simp)

theorem done {a : α} (h : Q a) : Follows (.ok a) [] Q := ⟨fun _ h => by simp at h, fun _ => ⟨a, rfl, h⟩⟩

theorem mono {Q' : α → Prop} (h : Follows x checks Q) (hq : ∀ a, Q a → Q' a) : Follows x checks Q' :=
  ⟨h.fault, fun hc => (h.value hc).imp fun a ha => ⟨ha.1, hq a ha.2⟩⟩

theorem fail {e : LoadFault} : Follows (.error e) (some e :: checks) Q :=
  ⟨fun f hf => by simpa using hf, fun h => by simp at h⟩

theorem skip (h : Follows x checks Q) : Follows x (none :: checks) Q :=
  ⟨fun f hf => h.fault f (by simpa using hf), fun hc => h.value (by simpa using hc)⟩

/-- One reader after another follows one row after the other. -/
theorem bind (h : Follows x checks Q) (next : ∀ a, Q a → Follows (f a) rest P) : Follows (x >>= f) (checks ++ rest) P := by
  cases hc : checks.findSome? id with
  | some e =>
    rw [h.fault e hc]
    exact ⟨fun e' he => by simp [List.findSome?_append, hc] at he; rw [he]; rfl,
      fun hn => by simp [List.findSome?_append, hc] at hn⟩
  | none =>
    obtain ⟨a, rfl, ha⟩ := h.value hc
    refine ⟨fun e he => (next a ha).fault e ?_, fun hn => (next a ha).value ?_⟩
    · simpa [List.findSome?_append, hc] using he
    · simpa [List.findSome?_append, hc] using hn

/-! ### Reading a field -/

variable {g : Nat × Cursor → Except LoadFault α}

theorem read1 (h : o ≤ bytes.length)
    (next : o + 1 ≤ bytes.length →
      Follows (g (byteAt bytes o, readingAt bytes (o + 1))) (fieldCheck bytes o 1 ok reason :: rest) Q) :
    Follows (field1 (readingAt bytes o) >>= g) (fieldCheck bytes o 1 ok reason :: rest) Q := by
  by_cases hr : o + 1 ≤ bytes.length
  · rw [field1_of_room hr]
    exact next hr
  · rw [field1_of_end (by omega), fieldCheck_of_short (by omega)]
    exact fail

theorem read2 (h : o ≤ bytes.length)
    (next : o + 2 ≤ bytes.length →
      Follows (g (twoAt bytes o, readingAt bytes (o + 2))) (fieldCheck bytes o 2 ok reason :: rest) Q) :
    Follows (field2 (readingAt bytes o) >>= g) (fieldCheck bytes o 2 ok reason :: rest) Q := by
  by_cases hr : o + 2 ≤ bytes.length
  · rw [field2_of_room hr]
    exact next hr
  · rw [field2_of_short h (by omega), fieldCheck_of_short (by omega)]
    exact fail

theorem read3 (h : o ≤ bytes.length)
    (next : o + 3 ≤ bytes.length →
      Follows (g (threeAt bytes o, readingAt bytes (o + 3))) (fieldCheck bytes o 3 ok reason :: rest) Q) :
    Follows (field3 (readingAt bytes o) >>= g) (fieldCheck bytes o 3 ok reason :: rest) Q := by
  by_cases hr : o + 3 ≤ bytes.length
  · rw [field3_of_room hr]
    exact next hr
  · rw [field3_of_short h (by omega), fieldCheck_of_short (by omega)]
    exact fail

/-! ### Testing a field that was read -/

/-- A field of which nothing is asked. -/
theorem free (h : o + width ≤ bytes.length) (next : Follows x rest Q) :
    Follows x (fieldCheck bytes o width true reason :: rest) Q := by
  rw [fieldCheck_of_ok h]
  exact next.skip

theorem require {k : Unit → Except LoadFault α} (h : o + width ≤ bytes.length) (next : ok = true → Follows (k ()) rest Q) :
    Follows (require ok reason o >>= k) (fieldCheck bytes o width ok reason :: rest) Q := by
  cases ok with
  | true =>
    rw [fieldCheck_of_ok h]
    exact (next rfl).skip
  | false =>
    rw [fieldCheck_of_fault h]
    exact fail

/-- The first part of a field's check. -/
theorem requireAnd {k : Unit → Except LoadFault α} {more : Bool} (h : o + width ≤ bytes.length)
    (next : ok = true → Follows (k ()) (fieldCheck bytes o width more reason :: rest) Q) :
    Follows (Machine.require ok reason o >>= k) (fieldCheck bytes o width (ok && more) reason :: rest) Q := by
  cases ok with
  | true => exact next rfl
  | false =>
    rw [Bool.false_and, fieldCheck_of_fault h]
    exact fail

/-- A choice that must be there. -/
theorem choose {c : Option β} {k : β → Except LoadFault α} (h : o + width ≤ bytes.length) (hok : c.isSome = ok)
    (next : ∀ b, c = some b → Follows (k b) rest Q) :
    Follows (requireSome c reason o >>= k) (fieldCheck bytes o width ok reason :: rest) Q := by
  subst hok
  cases c with
  | some b =>
    rw [Option.isSome_some, fieldCheck_of_ok h]
    exact (next b rfl).skip
  | none =>
    rw [Option.isSome_none, fieldCheck_of_fault h]
    exact fail

theorem chooseAnd {c : Option β} {k : β → Except LoadFault α} {more : Bool} (h : o + width ≤ bytes.length)
    (hok : c.isSome = ok) (next : ∀ b, c = some b → Follows (k b) (fieldCheck bytes o width more reason :: rest) Q) :
    Follows (requireSome c reason o >>= k) (fieldCheck bytes o width (ok && more) reason :: rest) Q := by
  subst hok
  cases c with
  | some b => exact next b rfl
  | none =>
    rw [Option.isSome_none, Bool.false_and, fieldCheck_of_fault h]
    exact fail

end Follows

/-! ## The choices of the format -/

theorem isSome_toPosition? (n : Nat) : (toPosition? n).isSome = decide (n ≤ 1023) := by
  unfold toPosition?
  split <;> simp <;> omega

theorem val_of_toPosition? {n : Nat} {p : Position} (h : toPosition? n = some p) : p.val = n := by
  unfold toPosition? at h
  split at h
  · exact congrArg Fin.val (Option.some.inj h).symm
  · exact absurd h (by simp)

theorem isSome_toGroup? (n : Nat) : (toGroup? n).isSome = inRange 1 32 n := by
  unfold toGroup? inRange
  split <;> simp <;> omega

theorem val_of_toGroup? {n : Nat} {g : Group} (h : toGroup? n = some g) : g.val + 1 = n := by
  unfold toGroup? at h
  split at h
  · have := congrArg Fin.val (Option.some.inj h)
    simp only at this
    omega
  · exact absurd h (by simp)

theorem isSome_toChannel? (n : Nat) : (toChannel? n).isSome = inRange 1 16 n := by
  unfold toChannel? inRange
  split <;> simp <;> omega

theorem val_of_toChannel? {n : Nat} {ch : Channel} (h : toChannel? n = some ch) : ch.val + 1 = n := by
  unfold toChannel? at h
  split at h
  · have := congrArg Fin.val (Option.some.inj h)
    simp only at this
    omega
  · exact absurd h (by simp)

theorem isSome_stopMode? (n : Nat) : (stopMode? n).isSome = decide (n ≤ 1) := by
  match n with
  | 0 | 1 => rfl
  | n + 2 => simp [stopMode?]

theorem eq_of_stopMode? {n : Nat} {m : StopMode} (h : stopMode? n = some m) :
    m = if n = 0 then StopMode.latched else .follow := by
  match n with
  | 0 | 1 => exact (Option.some.inj h).symm
  | n + 2 => exact absurd h (by simp [stopMode?])

theorem isSome_curve? (n : Nat) : (curve? n).isSome = decide (n ≤ 3) := by
  match n with
  | 0 | 1 | 2 | 3 => rfl
  | n + 4 => simp [curve?]

/-! ## The header (R18) -/

def headerChecks (bytes : List Byte) : List (Option LoadFault) :=
  let one := byteAt bytes
  let two := twoAt bytes
  let field := fieldCheck bytes
  [field 0 1 (one 0 == 1) .badVersion, field 1 1 (one 1 ≤ 200) .badValue, field 2 2 (inRange 1 1000 (two 2)) .badValue,
    field 4 1 (one 4 ≤ 1) .badValue, field 5 1 (one 5 ≤ 1) .badValue, field 6 1 true .badValue,
    field 7 1 (inRange 1 15 (one 7)) .badValue, field 8 1 (inRange 1 16 (one 8)) .badValue,
    field 9 1 (one 9 ≤ 200) .badValue, field 10 1 (one 10 ≤ 15) .badValue,
    field 11 2 (inRange 10 400 (two 11)) .badValue, field 13 1 (inRange 1 64 (one 13)) .badValue,
    field 14 1 true .badValue, field 15 2 (inRange 1 1024 (two 15)) .size, field 17 2 (two 17 ≤ 6144) .size]

/-- The header's values at their places. -/
def headerAt (bytes : List Byte) : Header :=
  let one := byteAt bytes
  let two := twoAt bytes
  let mode (o : Nat) : StopMode := if one o = 0 then .latched else .follow
  { repeatGuard := one 1, slewStep := two 2, modeA := mode 4, modeB := mode 5, touchHold := one 6
    deadband := one 7, kp := one 8, minDuty := one 9, reversalRest := one 10, stallLimit := two 11
    eventThreshold := one 13, staleTime := one 14, cueCount := two 15, moveCount := two 17 }

/-- The ranges of the header (R18, R24, R25). -/
structure HeaderInRange (h : Header) : Prop where
  repeatGuard : h.repeatGuard ≤ 200
  slewStep : 1 ≤ h.slewStep ∧ h.slewStep ≤ 1000
  touchHold : h.touchHold ≤ 255
  deadband : 1 ≤ h.deadband ∧ h.deadband ≤ 15
  kp : 1 ≤ h.kp ∧ h.kp ≤ 16
  minDuty : h.minDuty ≤ 200
  reversalRest : h.reversalRest ≤ 15
  stallLimit : 10 ≤ h.stallLimit ∧ h.stallLimit ≤ 400
  eventThreshold : 1 ≤ h.eventThreshold ∧ h.eventThreshold ≤ 64
  staleTime : h.staleTime ≤ 255
  cueCount : 1 ≤ h.cueCount ∧ h.cueCount ≤ 1024
  moveCount : h.moveCount ≤ 6144

theorem byteAt_le (bytes : List Byte) (o : Nat) : byteAt bytes o ≤ 255 := Nat.le_of_lt_succ (bytes.getD o 0).isLt

theorem inRange_iff {low high n : Nat} : inRange low high n = true ↔ low ≤ n ∧ n ≤ high := by simp [inRange]

theorem readHeader_follows (bytes : List Byte) : Follows (readHeader (readingAt bytes 0)) (headerChecks bytes)
    (fun r => 19 ≤ bytes.length ∧ r = (headerAt bytes, readingAt bytes 19) ∧ HeaderInRange (headerAt bytes)) := by
  unfold readHeader
  refine .read1 (Nat.zero_le _) fun h1 => .require h1 fun _ => ?_
  refine .read1 h1 fun h2 => .require h2 fun repeatGuard => ?_
  refine .read2 h2 fun h4 => .require h4 fun slewStep => ?_
  refine .read1 h4 fun h5 => .choose h5 (isSome_stopMode? _) fun modeA hA => ?_
  refine .read1 h5 fun h6 => .choose h6 (isSome_stopMode? _) fun modeB hB => ?_
  refine .read1 h6 fun h7 => .free h7 ?_
  refine .read1 h7 fun h8 => .require h8 fun deadband => ?_
  refine .read1 h8 fun h9 => .require h9 fun kp => ?_
  refine .read1 h9 fun h10 => .require h10 fun minDuty => ?_
  refine .read1 h10 fun h11 => .require h11 fun reversalRest => ?_
  refine .read2 h11 fun h13 => .require h13 fun stallLimit => ?_
  refine .read1 h13 fun h14 => .require h14 fun eventThreshold => ?_
  refine .read1 h14 fun h15 => .free h15 ?_
  refine .read2 h15 fun h17 => .require h17 fun cueCount => ?_
  refine .read2 h17 fun h19 => .require h19 fun moveCount => ?_
  obtain rfl := eq_of_stopMode? hA
  obtain rfl := eq_of_stopMode? hB
  exact .done ⟨h19, rfl, of_decide_eq_true repeatGuard, inRange_iff.mp slewStep, byteAt_le bytes 6, inRange_iff.mp deadband,
    inRange_iff.mp kp, of_decide_eq_true minDuty, of_decide_eq_true reversalRest, inRange_iff.mp stallLimit,
    inRange_iff.mp eventThreshold, byteAt_le bytes 14, inRange_iff.mp cueCount, of_decide_eq_true moveCount⟩

end Sys2Proof.Machine
end

section
/-!
PROOFS. The channel table of an image: one entry, and the sixteen in slot order (R19, R26, R181).
-/

namespace Sys2Proof.Machine

variable {bytes : List Byte} {o n : Nat}

/-! ## The member list (R26) -/

theorem Follows.last {α β : Type} {x : Except LoadFault α} {f : α → Except LoadFault β} {checks : List (Option LoadFault)}
    {Q : α → Prop} {P : β → Prop} (h : Follows x checks Q) (next : ∀ a, Q a → Follows (f a) [] P) :
    Follows (x >>= f) checks P := by
  have := h.bind next
  rwa [List.append_nil] at this

/-- The checks of the places `i` to `i + count - 1` behind `base`, one byte each. -/
def placeChecks (bytes : List Byte) (base i count : Nat) (ok : Nat → Bool) : List (Option LoadFault) :=
  (List.range' i count).map (fun j => fieldCheck bytes (base + j) 1 (ok j) .badChannelEntry)

theorem placeChecks_succ (base i count : Nat) (ok : Nat → Bool) : placeChecks bytes base i (count + 1) ok =
    fieldCheck bytes (base + i) 1 (ok i) .badChannelEntry :: placeChecks bytes base (i + 1) count ok := by
  rw [placeChecks, List.range'_succ, List.map_cons]
  rfl

theorem readMembers_follows (base count : Nat) : ∀ i, base + i ≤ bytes.length →
    Follows (readMembers count (readingAt bytes (base + i)))
      (placeChecks bytes base i count (fun j => inRange 1 32 (byteAt bytes (base + j))))
      (fun r => base + (i + count) ≤ bytes.length ∧ r.2 = readingAt bytes (base + (i + count))
        ∧ r.1.map (fun g => g.val + 1) = (List.range' i count).map (fun j => byteAt bytes (base + j))) := by
  induction count with
  | zero => exact fun i h => .done ⟨h, rfl, rfl⟩
  | succ count ih =>
    intro i h
    rw [placeChecks_succ, readMembers]
    refine .read1 h fun h1 => .choose h1 (isSome_toGroup? _) fun g hg => (ih (i + 1) h1).last fun r hr => ?_
    obtain ⟨hlen, hc, hmembers⟩ := hr
    rw [show i + 1 + count = i + (count + 1) by omega] at hlen hc
    refine .done ⟨hlen, hc, ?_⟩
    rw [List.range'_succ, List.map_cons, List.map_cons, hmembers, val_of_toGroup? hg]

/-- The members before place `i`. -/
def MembersBefore (bytes : List Byte) (base i : Nat) (seen : List Group) : Prop :=
  ∀ g : Group, g ∈ seen ↔ ∃ k < i, byteAt bytes (base + k) = g.val + 1

theorem MembersBefore.contains_eq {base i : Nat} {seen : List Group} (h : MembersBefore bytes base i seen) {g : Group}
    {m : Nat} (hg : g.val + 1 = m) :
    (!seen.contains g) = (List.range i).all (fun k => byteAt bytes (base + k) != m) := by
  rw [Bool.eq_iff_iff]
  simp only [Bool.not_eq_true', List.contains_eq_mem, decide_eq_false_iff_not, h g, List.all_eq_true, List.mem_range,
    bne_iff_ne, not_exists, not_and, hg]

theorem MembersBefore.cons {base i : Nat} {seen : List Group} (h : MembersBefore bytes base i seen) {g : Group}
    (hg : g.val + 1 = byteAt bytes (base + i)) : MembersBefore bytes base (i + 1) (g :: seen) := by
  intro x
  rw [List.mem_cons, h x]
  constructor
  · rintro (rfl | ⟨k, hk, hx⟩)
    · exact ⟨i, by omega, hg.symm⟩
    · exact ⟨k, by omega, hx⟩
  · rintro ⟨k, hk, hx⟩
    rcases Nat.lt_succ_iff_lt_or_eq.mp hk with hlt | rfl
    · exact .inr ⟨k, hlt, hx⟩
    · exact .inl (Fin.ext (by omega))

theorem requireDistinct_follows (base : Nat) (members : List Group) : ∀ (i : Nat) (seen : List Group),
    MembersBefore bytes base i seen → base + (i + members.length) ≤ bytes.length →
    members.map (fun g => g.val + 1) = (List.range' i members.length).map (fun j => byteAt bytes (base + j)) →
    Follows (requireDistinct seen members (base + i))
      (placeChecks bytes base i members.length
        (fun j => (List.range j).all (fun k => byteAt bytes (base + k) != byteAt bytes (base + j))))
      (fun _ => members.Nodup ∧ ∀ g ∈ members, g ∉ seen) := by
  induction members with
  | nil => exact fun i seen _ _ _ => .done ⟨List.nodup_nil, by simp⟩
  | cons g members ih =>
    intro i seen hseen hlen hmap
    rw [List.length_cons] at hlen hmap
    rw [List.range'_succ, List.map_cons, List.map_cons, List.cons.injEq] at hmap
    obtain ⟨hg, hrest⟩ := hmap
    rw [List.length_cons, placeChecks_succ, requireDistinct, ← hseen.contains_eq hg]
    refine .require (by omega) fun hnew => ?_
    refine (ih (i + 1) (g :: seen) (hseen.cons hg) (by omega) hrest).mono fun _ hq => ?_
    obtain ⟨hnodup, hfresh⟩ := hq
    simp only [List.mem_cons, not_or] at hfresh
    refine ⟨List.nodup_cons.mpr ⟨fun hm => (hfresh g hm).1 rfl, hnodup⟩, fun x hx => ?_⟩
    rcases List.mem_cons.mp hx with rfl | hx
    · simpa using hnew
    · exact (hfresh x hx).2

theorem readZeros_follows (base count : Nat) : ∀ i, base + i ≤ bytes.length →
    Follows (readZeros count (readingAt bytes (base + i)))
      (placeChecks bytes base i count (fun j => byteAt bytes (base + j) == 0))
      (fun c => base + (i + count) ≤ bytes.length ∧ c = readingAt bytes (base + (i + count))) := by
  induction count with
  | zero => exact fun i h => .done ⟨h, rfl⟩
  | succ count ih =>
    intro i h
    rw [placeChecks_succ, readZeros]
    refine .read1 h fun h1 => .require h1 fun _ => (ih (i + 1) h1).mono fun c hc => ?_
    rwa [show i + 1 + count = i + (count + 1) by omega] at hc

/-- The checks of a member list of `count` members behind `base`: ranges, repeats, and the places behind it (log 22). -/
def memberChecks (bytes : List Byte) (base count : Nat) : List (Option LoadFault) :=
  placeChecks bytes base 0 count (fun j => inRange 1 32 (byteAt bytes (base + j)))
    ++ placeChecks bytes base 0 count
      (fun j => (List.range j).all (fun k => byteAt bytes (base + k) != byteAt bytes (base + j)))
    ++ placeChecks bytes base count (4 - count) (fun j => byteAt bytes (base + j) == 0)

theorem readMemberList_follows {base count : Nat} (h : base ≤ bytes.length) (hc : count ≤ 4) :
    Follows (readMemberList count (readingAt bytes base)) (memberChecks bytes base count)
      (fun r => base + 4 ≤ bytes.length ∧ r.2 = readingAt bytes (base + 4) ∧ r.1.length = count ∧ r.1.Nodup
        ∧ r.1.map (fun g => g.val + 1) = (List.range count).map (fun j => byteAt bytes (base + j))) := by
  rw [memberChecks, List.append_assoc]
  unfold readMemberList
  refine (readMembers_follows base count 0 h).bind fun r hr => ?_
  obtain ⟨members, c⟩ := r
  obtain ⟨hlen, rfl, hmembers⟩ := hr
  have hcount : members.length = count := by simpa using congrArg List.length hmembers
  subst hcount
  rw [Nat.zero_add] at hlen
  have hnone : MembersBefore bytes base 0 [] := fun g => by simp
  refine (requireDistinct_follows base members 0 [] hnone (by simpa using hlen) hmembers).bind fun _ hd => ?_
  rw [Nat.zero_add]
  refine (readZeros_follows base (4 - members.length) members.length hlen).last fun c hz => ?_
  obtain ⟨hend, rfl⟩ := hz
  rw [show members.length + (4 - members.length) = 4 by omega] at hend ⊢
  exact .done ⟨hend, rfl, rfl, hd.1, by rw [List.range_eq_range']; exact hmembers⟩

/-! ## A stop action (R19, R26) -/

/-- The action that stands at a place. -/
def ActionAt (bytes : List Byte) (o : Nat) (a : StopAction) : Prop :=
  (byteAt bytes o = 0 → a = .mute) ∧ (byteAt bytes o = 1 → a = .hold)
    ∧ (byteAt bytes o = 2 → ∃ p : Position, p.val = twoAt bytes (o + 1) ∧ a = .level p)

def actionChecks (bytes : List Byte) (o : Nat) : List (Option LoadFault) :=
  [fieldCheck bytes o 1 (byteAt bytes o ≤ 2) .badChannelEntry,
    fieldCheck bytes (o + 1) 2 (if byteAt bytes o = 2 then twoAt bytes (o + 1) ≤ 1023 else twoAt bytes (o + 1) == 0)
      .badChannelEntry]

theorem readStopAction_follows (h : o ≤ bytes.length) : Follows (readStopAction (readingAt bytes o)) (actionChecks bytes o)
    (fun r => o + 3 ≤ bytes.length ∧ r.2 = readingAt bytes (o + 3) ∧ ActionAt bytes o r.1) := by
  unfold readStopAction
  refine .read1 h fun h1 => .require h1 fun hcode => .read2 h1 fun h3 => ?_
  obtain ⟨code, hbyte⟩ : ∃ code, byteAt bytes o = code := ⟨_, rfl⟩
  have hle : code ≤ 2 := hbyte ▸ of_decide_eq_true hcode
  unfold ActionAt
  rw [hbyte]
  match code with
  | 0 => exact .require h3 fun _ => .done ⟨h3, rfl, fun _ => rfl, fun h => (by cases h), fun h => (by cases h)⟩
  | 1 => exact .require h3 fun _ => .done ⟨h3, rfl, fun h => (by cases h), fun _ => rfl, fun h => (by cases h)⟩
  | 2 =>
    exact .choose h3 (isSome_toPosition? _) fun p hp =>
      .done ⟨h3, rfl, fun h => (by cases h), fun h => (by cases h), fun _ => ⟨p, val_of_toPosition? hp, rfl⟩⟩
  | code + 3 => omega

/-! ## One entry -/

/-- The offset of an entry. -/
def entryOffset (n : Nat) : Nat := 19 + 19 * n

/-- The entry hosts no group that one before it hosts (R26). -/
def hostsAnew (bytes : List Byte) (n : Nat) : Bool :=
  (List.range n).all (fun e =>
    !(byteAt bytes (19 + 19 * e) == 2 && byteAt bytes (20 + 19 * e) == byteAt bytes (19 + 19 * n + 1)))

def entryChecks (bytes : List Byte) (n : Nat) : List (Option LoadFault) :=
  let one := byteAt bytes
  let two := twoAt bytes
  let o := 19 + 19 * n
  let audio := one o == 1
  let bad (place width : Nat) (ok : Bool) := fieldCheck bytes (o + place) width ok .badChannelEntry
  [bad 0 1 (one o ≤ 2), bad 1 1 (if one o = 2 then inRange 1 32 (one (o + 1)) else one (o + 1) == 0),
    fieldCheck bytes (o + 1) 1 (one o != 2 || hostsAnew bytes n) .duplicateMaster,
    bad 2 1 (one (o + 2) ≤ 4 && (audio || one (o + 2) == 0))]
  ++ memberChecks bytes (o + 3) (one (o + 2))
  ++ [bad 7 1 (one (o + 7) ≤ 2 && (one o != 0 || one (o + 7) == 0)),
    bad 8 1 (one (o + 8) == 0 || (one (o + 8) == 1 && one (o + 7) == 1)),
    bad 9 1 (one (o + 9) == 0 || (one (o + 9) == 1 && audio)), bad 10 2 (two (o + 10) ≤ 1023),
    bad 12 1 (one (o + 12) ≤ 1)]
  ++ (actionChecks bytes (o + 13) ++ actionChecks bytes (o + 16))

/-- The groups hosted by the first `n` entries. -/
def HostedBefore (bytes : List Byte) (n : Nat) (hosted : List Group) : Prop :=
  ∀ g : Group, g ∈ hosted ↔ ∃ e < n, byteAt bytes (19 + 19 * e) = 2 ∧ byteAt bytes (20 + 19 * e) = g.val + 1

/-- The group that the entry at `o` hosts. -/
def HostAt (bytes : List Byte) (o : Nat) (group : Option Group) : Prop :=
  (byteAt bytes o = 2 → ∃ g : Group, g.val + 1 = byteAt bytes (o + 1) ∧ group = some g)
    ∧ (byteAt bytes o ≠ 2 → group = none)

theorem HostedBefore.contains_eq {hosted : List Group} (h : HostedBefore bytes n hosted) {g : Group}
    (hg : g.val + 1 = byteAt bytes (19 + 19 * n + 1)) : (!hosted.contains g) = hostsAnew bytes n := by
  rw [Bool.eq_iff_iff]
  simp only [hostsAnew, Bool.not_eq_true', List.contains_eq_mem, decide_eq_false_iff_not, h g, List.all_eq_true,
    List.mem_range, Bool.and_eq_false_iff, beq_eq_false_iff_ne, not_exists, not_and, hg, ← not_and_or, ne_eq]

theorem HostedBefore.next {hosted : List Group} (h : HostedBefore bytes n hosted) {group : Option Group}
    (hg : HostAt bytes (19 + 19 * n) group) : HostedBefore bytes (n + 1) (group.toList ++ hosted) := by
  intro x
  rw [List.mem_append, h x]
  have hplace : 20 + 19 * n = 19 + 19 * n + 1 := by omega
  constructor
  · rintro (hx | ⟨e, he, hx⟩)
    · by_cases hm : byteAt bytes (19 + 19 * n) = 2
      · obtain ⟨g, hbyte, rfl⟩ := hg.1 hm
        obtain rfl : x = g := by simpa using hx
        exact ⟨n, by omega, hm, hplace ▸ hbyte.symm⟩
      · rw [hg.2 hm] at hx
        exact absurd hx (by simp)
    · exact ⟨e, by omega, hx⟩
  · rintro ⟨e, he, hm, hx⟩
    rcases Nat.lt_succ_iff_lt_or_eq.mp he with hlt | rfl
    · exact .inr ⟨e, hlt, hm, hx⟩
    · obtain ⟨g, hbyte, rfl⟩ := hg.1 hm
      rw [hplace] at hx
      exact .inl (by simp [Fin.ext_iff]; omega)

/-- The reader of a MASTER's group; other roles name none (R26). -/
def readHost (hosted : List Group) (role host at1 : Nat) : Except LoadFault (Option Group) :=
  if role == 2 then do
    let g ← requireSome (toGroup? host) .badChannelEntry at1
    require (!hosted.contains g) .duplicateMaster at1
    return some g
  else do
    require (host == 0) .badChannelEntry at1
    return none

theorem readHost_follows {hosted : List Group} (hh : HostedBefore bytes n hosted) (h : 19 + 19 * n + 2 ≤ bytes.length) :
    Follows (readHost hosted (byteAt bytes (19 + 19 * n)) (byteAt bytes (19 + 19 * n + 1)) (19 + 19 * n + 1))
      [fieldCheck bytes (19 + 19 * n + 1) 1 (if byteAt bytes (19 + 19 * n) = 2
          then inRange 1 32 (byteAt bytes (19 + 19 * n + 1)) else byteAt bytes (19 + 19 * n + 1) == 0) .badChannelEntry,
        fieldCheck bytes (19 + 19 * n + 1) 1 (byteAt bytes (19 + 19 * n) != 2 || hostsAnew bytes n) .duplicateMaster]
      (fun group => HostAt bytes (19 + 19 * n) group
        ∧ (byteAt bytes (19 + 19 * n) = 2 → hostsAnew bytes n = true)) := by
  unfold readHost
  by_cases hm : byteAt bytes (19 + 19 * n) = 2
  · rw [if_pos (beq_iff_eq.mpr hm), if_pos hm, (bne_eq_false_iff_eq).mpr hm, Bool.false_or]
    refine .choose h (isSome_toGroup? _) fun g hg => ?_
    have hg := val_of_toGroup? hg
    rw [← hh.contains_eq hg]
    exact .require h fun hnew => .done ⟨⟨fun _ => ⟨g, hg, rfl⟩, fun hn => absurd hm hn⟩, fun _ => hnew⟩
  · rw [if_neg (by simpa using hm), if_neg hm, bne_iff_ne.mpr hm, Bool.true_or]
    exact .require h fun _ => .free h (.done ⟨⟨fun h => absurd h hm, fun _ => rfl⟩, fun h => absurd h hm⟩)

/-- What an entry holds at its place (R19, R26). -/
structure EntryAt (bytes : List Byte) (n : Nat) (e : ChannelEntry) : Prop where
  code : byteAt bytes (19 + 19 * n) ≤ 2
  unused : byteAt bytes (19 + 19 * n) = 0 → e.role = .unused
  audio : byteAt bytes (19 + 19 * n) = 1 → ∃ members : List Group,
    members.map (fun g => g.val + 1)
        = (List.range (byteAt bytes (19 + 19 * n + 2))).map (fun i => byteAt bytes (19 + 19 * n + 3 + i))
      ∧ members.length ≤ 4 ∧ members.Nodup
      ∧ e.role = .audio members (byteAt bytes (19 + 19 * n + 9) == 1)
  master : byteAt bytes (19 + 19 * n) = 2 → ∃ g : Group, g.val + 1 = byteAt bytes (19 + 19 * n + 1) ∧ e.role = .master g
  anew : byteAt bytes (19 + 19 * n) = 2 → hostsAnew bytes n = true
  faderless : byteAt bytes (19 + 19 * n) = 0 → e.fader = .absent
  absent : byteAt bytes (19 + 19 * n + 7) = 0 → e.fader = .absent
  motor : byteAt bytes (19 + 19 * n + 7) = 1 →
    e.fader = .motor (if byteAt bytes (19 + 19 * n + 8) = 0 then .keep else .returns)
  plain : byteAt bytes (19 + 19 * n + 7) = 2 → e.fader = .plain
  preset : e.preset.val = twoAt bytes (19 + 19 * n + 10)
  presetMute : e.presetMute = (byteAt bytes (19 + 19 * n + 12) == 1)
  stopA : ActionAt bytes (19 + 19 * n + 13) e.stopA
  stopB : ActionAt bytes (19 + 19 * n + 16) e.stopB

theorem readChannelEntry_follows {hosted : List Group} (hh : HostedBefore bytes n hosted)
    (h : 19 + 19 * n ≤ bytes.length) :
    Follows (readChannelEntry hosted (readingAt bytes (19 + 19 * n))) (entryChecks bytes n)
      (fun r => 19 + 19 * (n + 1) ≤ bytes.length ∧ r.2.2 = readingAt bytes (19 + 19 * (n + 1))
        ∧ HostedBefore bytes (n + 1) r.2.1 ∧ EntryAt bytes n r.1) := by
  unfold readChannelEntry entryChecks
  rw [List.append_assoc, List.append_assoc]
  refine .read1 h fun h1 => .require h1 fun hrole => ?_
  refine .read1 h1 fun h2 => ?_
  refine (readHost_follows hh h2).bind fun group hgroup => ?_
  obtain ⟨hhost, hanew⟩ := hgroup
  refine .read1 h2 fun h3 => .require h3 fun hcount => ?_
  rw [Bool.and_eq_true, decide_eq_true_eq] at hcount
  refine (readMemberList_follows h3 hcount.1).bind fun r hr => ?_
  obtain ⟨members, c⟩ := r
  obtain ⟨h7, rfl, hlength, hnodup, hmembers⟩ := hr
  refine .read1 h7 fun h8 => .require h8 fun hfader => ?_
  refine .read1 h8 fun h9 => .require h9 fun hpolicy => ?_
  refine .read1 h9 fun h10 => .require h10 fun hsafe => ?_
  refine .read2 h10 fun h12 => .choose h12 (isSome_toPosition? _) fun preset hpreset => ?_
  refine .read1 h12 fun h13 => .require h13 fun hmute => ?_
  refine (readStopAction_follows h13).bind fun a ha => ?_
  obtain ⟨stopA, c⟩ := a
  obtain ⟨h16, rfl, hstopA⟩ := ha
  refine (readStopAction_follows h16).last fun b hb => ?_
  obtain ⟨stopB, c⟩ := b
  obtain ⟨h19, rfl, hstopB⟩ := hb
  refine .done ⟨?_, ?_, hh.next hhost, ?_⟩
  · omega
  · exact congrArg (readingAt bytes) (by omega)
  · simp only [Bool.and_eq_true, Bool.or_eq_true, decide_eq_true_eq, bne_iff_ne, beq_iff_eq] at hfader hpolicy
    exact {
      code := of_decide_eq_true hrole
      unused := fun h0 => by
        obtain rfl := hhost.2 (by omega)
        exact if_neg (by simp [h0])
      audio := fun h1 => by
        obtain rfl := hhost.2 (by omega)
        exact ⟨members, hmembers, hlength.trans_le hcount.1, hnodup, if_pos (by simp [h1])⟩
      master := fun h2 => by
        obtain ⟨g, hg, rfl⟩ := hhost.1 h2
        exact ⟨g, hg, rfl⟩
      anew := hanew
      faderless := fun h0 => by
        have h7 := hfader.2.resolve_left (fun h => h h0)
        simp only [h7]
      absent := fun h7 => by simp only [h7]
      motor := fun h7 => by
        simp only [h7, beq_iff_eq]
        rcases hpolicy with h8 | ⟨h8, -⟩ <;> simp [h8]
      plain := fun h7 => by simp only [h7]
      preset := val_of_toPosition? hpreset
      presetMute := rfl
      stopA := hstopA
      stopB := hstopB }

/-! ## The channel table -/

theorem channels_drop (h : n < 16) : channels.drop n = ⟨n, h⟩ :: channels.drop (n + 1) := by
  have hlen : n < channels.length := by simpa [channels] using h
  rw [List.drop_eq_getElem_cons hlen]
  simp [channels]

theorem readChannels_follows : ∀ (k n : Nat) (hosted : List Group) (table : Vector ChannelEntry 16), n + k = 16 →
    HostedBefore bytes n hosted → 19 + 19 * n ≤ bytes.length → (∀ ch : Channel, ch.val < n → EntryAt bytes ch.val table[ch]) →
    Follows (readChannels (channels.drop n) hosted table (readingAt bytes (19 + 19 * n)))
      ((List.range' n k).flatMap (entryChecks bytes))
      (fun r => 323 ≤ bytes.length ∧ r.2 = readingAt bytes 323 ∧ ∀ ch : Channel, EntryAt bytes ch.val r.1[ch]) := by
  intro k
  induction k with
  | zero =>
    intro n hosted table hn _ hlen htable
    obtain rfl : n = 16 := by omega
    exact .done ⟨hlen, rfl, fun ch => htable ch ch.isLt⟩
  | succ k ih =>
    intro n hosted table hn hh hlen htable
    have hlt : n < 16 := by omega
    rw [channels_drop hlt, List.range'_succ, List.flatMap_cons, readChannels]
    refine (readChannelEntry_follows hh hlen).bind fun r hr => ?_
    obtain ⟨entry, hosted', c⟩ := r
    obtain ⟨hend, rfl, hh', hentry⟩ := hr
    refine ih (n + 1) hosted' (put table ⟨n, hlt⟩ entry) (by omega) hh' hend fun ch hch => ?_
    rcases Nat.lt_succ_iff_lt_or_eq.mp hch with hb | rfl
    · rw [put_other _ _ (fun he => by rw [← he] at hb; exact lt_irrefl _ hb)]
      exact htable ch hb
    · rw [put_same]
      exact hentry

end Sys2Proof.Machine
end

section
/-!
PROOFS. The cue table of an image: a move, a cue record with its moves, and the records in table order (R21, R22, R24,
R27, R181).
-/

namespace Sys2Proof.Machine

variable {bytes : List Byte} {o n : Nat} {table : Vector ChannelEntry 16}

/-! ## One move (R22, R27) -/

def moveChecks (bytes : List Byte) (o : Nat) : List (Option LoadFault) :=
  let one := byteAt bytes
  let two := twoAt bytes
  let level := one (o + 1) < 16
  let field := fieldCheck bytes
  [field o 1 (inRange 1 16 (one o) && one (19 + 19 * (one o - 1)) != 0) .moveChannel,
    field (o + 1) 1 (one (o + 1) / 16 ≤ 2 && one (o + 1) % 16 ≤ 3 && (level || one (o + 1) % 16 == 0)) .badValue,
    field (o + 2) 2 true .badValue, field (o + 4) 2 (level || two (o + 4) == 0) .badValue,
    field (o + 6) 2 (two (o + 6) ≤ 1023 && (level || two (o + 6) == 0)) .badValue]

/-- The entries of the table stand at their places in the image. -/
def TableAt (bytes : List Byte) (table : Vector ChannelEntry 16) : Prop :=
  ∀ ch : Channel, EntryAt bytes ch.val table[ch]

/-- A channel is UNUSED where its role byte is 0. -/
theorem TableAt.unused_iff (h : TableAt bytes table) (ch : Channel) :
    table[ch].role = .unused ↔ byteAt bytes (19 + 19 * ch.val) = 0 := by
  have he := h ch
  refine ⟨fun hu => ?_, he.unused⟩
  have hcode := he.code
  by_contra hne
  rcases (by omega : byteAt bytes (19 + 19 * ch.val) = 1 ∨ byteAt bytes (19 + 19 * ch.val) = 2) with h1 | h2
  · obtain ⟨members, -, -, -, hr⟩ := he.audio h1
    exact absurd (hu.symm.trans hr) (by simp)
  · obtain ⟨g, -, hr⟩ := he.master h2
    exact absurd (hu.symm.trans hr) (by simp)

theorem isSome_moveChannel? (h : TableAt bytes table) (m : Nat) :
    (moveChannel? table m).isSome = (inRange 1 16 m && byteAt bytes (19 + 19 * (m - 1)) != 0) := by
  rw [← isSome_toChannel?, moveChannel?]
  cases hc : toChannel? m with
  | none => rfl
  | some ch =>
    have hm := val_of_toChannel? hc
    have hused : (table[ch].role != .unused) = (byteAt bytes (19 + 19 * (m - 1)) != 0) := by
      rw [Bool.eq_iff_iff, bne_iff_ne, bne_iff_ne, Ne, h.unused_iff ch, ← hm, Nat.add_sub_cancel]
    rw [Option.isSome_some, Bool.true_and, ← hused, Option.filter]
    cases table[ch].role != .unused <;> rfl

theorem of_moveChannel? {m : Nat} {ch : Channel} (h : moveChannel? table m = some ch) :
    ch.val + 1 = m ∧ table[ch].role ≠ .unused := by
  rw [moveChannel?, Option.filter_eq_some_iff] at h
  exact ⟨val_of_toChannel? h.1, by simpa using h.2⟩

/-- What a move holds at its place. -/
structure MoveAt (bytes : List Byte) (table : Vector ChannelEntry 16) (o : Nat) (m : Move) : Prop where
  channel : m.channel.val + 1 = byteAt bytes o
  used : table[m.channel].role ≠ .unused
  delay : m.delay = twoAt bytes (o + 2)
  code : byteAt bytes (o + 1) / 16 ≤ 2
  level : byteAt bytes (o + 1) / 16 = 0 → ∃ (curve : Curve) (target : Position),
    curve? (byteAt bytes (o + 1) % 16) = some curve ∧ target.val = twoAt bytes (o + 6)
      ∧ m.kind = .level (twoAt bytes (o + 4)) curve target
  muteOn : byteAt bytes (o + 1) / 16 = 1 → m.kind = .muteOn
  muteOff : byteAt bytes (o + 1) / 16 = 2 → m.kind = .muteOff

theorem level_eq (code : Nat) : decide (code < 16) = (code / 16 == 0) := by
  rw [Bool.eq_iff_iff]
  simp

theorem position_beq_zero {p : Position} {m : Nat} (h : p.val = m) : (p == 0) = (m == 0) := by
  rw [Bool.eq_iff_iff, beq_iff_eq, beq_iff_eq, Fin.ext_iff, h]
  rfl

theorem readMove_follows (ht : TableAt bytes table) (h : o ≤ bytes.length) :
    Follows (readMove table (readingAt bytes o)) (moveChecks bytes o)
      (fun r => o + 8 ≤ bytes.length ∧ r.2 = readingAt bytes (o + 8) ∧ MoveAt bytes table o r.1) := by
  unfold readMove moveChecks
  dsimp only
  rw [level_eq, Bool.and_assoc]
  refine .read1 h fun h1 => .choose h1 (isSome_moveChannel? ht _) fun ch hch => ?_
  refine .read1 h1 fun h2 => .requireAnd h2 fun hcode => ?_
  refine .chooseAnd h2 (isSome_curve? _) fun curve hcurve => .require h2 fun _ => ?_
  refine .read2 h2 fun h4 => .free h4 ?_
  refine .read2 h4 fun h6 => .require h6 fun _ => ?_
  refine .read2 h6 fun h8 => .chooseAnd h8 (isSome_toPosition? _) fun target htarget => ?_
  rw [← position_beq_zero (val_of_toPosition? htarget)]
  refine .require h8 fun _ => .done ⟨h8, rfl, ?_⟩
  obtain ⟨hnumber, hused⟩ := of_moveChannel? hch
  exact {
    channel := hnumber
    used := hused
    delay := rfl
    code := of_decide_eq_true hcode
    level := fun h0 => ⟨curve, target, hcurve, val_of_toPosition? htarget, by simp only [h0]⟩
    muteOn := fun h1 => by simp only [h1]
    muteOff := fun h2 => by simp only [h2] }

theorem readMoves_follows (ht : TableAt bytes table) (base count : Nat) : ∀ i, base + 8 * i ≤ bytes.length →
    Follows (readMoves table count (readingAt bytes (base + 8 * i)))
      ((List.range' i count).flatMap (fun j => moveChecks bytes (base + 8 * j)))
      (fun r => base + 8 * (i + count) ≤ bytes.length ∧ r.2 = readingAt bytes (base + 8 * (i + count))
        ∧ r.1.length = count ∧ ∀ (j : Nat) (m : Move), r.1[j]? = some m → MoveAt bytes table (base + 8 * (i + j)) m) := by
  induction count with
  | zero => exact fun i h => .done ⟨h, rfl, rfl, fun j m hj => by simp at hj⟩
  | succ count ih =>
    intro i h
    rw [List.range'_succ, List.flatMap_cons, readMoves]
    refine (readMove_follows ht h).bind fun r hr => ?_
    obtain ⟨m, c⟩ := r
    obtain ⟨hlen, rfl, hm⟩ := hr
    refine (ih (i + 1) hlen).last fun r hr => ?_
    obtain ⟨ms, c⟩ := r
    obtain ⟨hend, rfl, hlength, hms⟩ := hr
    rw [show i + 1 + count = i + (count + 1) by omega] at hend ⊢
    refine .done ⟨hend, rfl, congrArg (· + 1) hlength, fun j x hx => ?_⟩
    cases j with
    | zero =>
      obtain rfl : m = x := by simpa using hx
      exact hm
    | succ j =>
      have := hms j x (by simpa using hx)
      rwa [show i + 1 + j = i + (j + 1) by omega] at this

/-! ## One cue record (R21, R27) -/

/-- The offset of a cue record: each takes ten bytes and eight for each of its moves. -/
def recordAt (bytes : List Byte) (n : Nat) : Nat := (fun o => o + 10 + 8 * byteAt bytes (o + 3))^[n] 323

/-- The total of the move counts of the records before `n`. -/
def totalAt (bytes : List Byte) (n : Nat) : Nat :=
  ((List.range n).map (fun i => byteAt bytes (recordAt bytes i + 3))).sum

theorem recordAt_succ (bytes : List Byte) (n : Nat) :
    recordAt bytes (n + 1) = recordAt bytes n + 10 + 8 * byteAt bytes (recordAt bytes n + 3) :=
  Function.iterate_succ_apply' _ n 323

theorem totalAt_succ (bytes : List Byte) (n : Nat) :
    totalAt bytes (n + 1) = totalAt bytes n + byteAt bytes (recordAt bytes n + 3) := by
  simp [totalAt, List.range_succ]

theorem recordAt_eq (bytes : List Byte) (n : Nat) : recordAt bytes n = 323 + 10 * n + 8 * totalAt bytes n := by
  induction n with
  | zero => rfl
  | succ n ih =>
    rw [recordAt_succ, totalAt_succ]
    omega

def cueChecks (bytes : List Byte) (n : Nat) : List (Option LoadFault) :=
  let one := byteAt bytes
  let two := twoAt bytes
  let three := threeAt bytes
  let field := fieldCheck bytes
  let o := recordAt bytes n
  let present := one (o + 4) == 1
  [field o 3 (inRange 1 99999 (three o)) .badValue,
    field o 3 (n == 0 || three (recordAt bytes (n - 1)) < three o) .cueOrder,
    field (o + 3) 1 (one (o + 3) ≤ 64 && totalAt bytes n + one (o + 3) ≤ two 17) .size,
    field (o + 4) 1 (one (o + 4) ≤ 1) .badValue,
    field (o + 5) 3 (if present = true then inRange 1 99999 (three (o + 5)) else three (o + 5) == 0) .badValue,
    field (o + 5) 3 (!present || three (o + 5) != three o) .followTarget,
    field (o + 8) 2 (present || two (o + 8) == 0) .badValue]
  ++ (List.range (one (o + 3))).flatMap (fun j => moveChecks bytes (o + 10 + 8 * j))

/-- What a cue record holds at its place, and what the format asks of it. -/
structure CueAt (bytes : List Byte) (table : Vector ChannelEntry 16) (n : Nat) (r : CueRecord) : Prop where
  number : r.number = threeAt bytes (recordAt bytes n)
  count : r.moves.length = byteAt bytes (recordAt bytes n + 3)
  follow : r.follow = if byteAt bytes (recordAt bytes n + 4) = 1
    then some { target := threeAt bytes (recordAt bytes n + 5), delay := twoAt bytes (recordAt bytes n + 8) } else none
  moves : ∀ (j : Nat) (m : Move), r.moves[j]? = some m → MoveAt bytes table (recordAt bytes n + 10 + 8 * j) m
  inRange : 1 ≤ r.number ∧ r.number ≤ 99999
  ascends : n ≠ 0 → threeAt bytes (recordAt bytes (n - 1)) < threeAt bytes (recordAt bytes n)
  atMost : r.moves.length ≤ 64
  target : byteAt bytes (recordAt bytes n + 4) = 1 →
    (1 ≤ threeAt bytes (recordAt bytes n + 5) ∧ threeAt bytes (recordAt bytes n + 5) ≤ 99999)
      ∧ threeAt bytes (recordAt bytes n + 5) ≠ threeAt bytes (recordAt bytes n)

/-- The number that the record before gives, 0 at the first. -/
def previousNumber (bytes : List Byte) (n : Nat) : Nat := if n = 0 then 0 else threeAt bytes (recordAt bytes (n - 1))

theorem previous_lt_eq {number : Nat} (h : 1 ≤ number) :
    decide (previousNumber bytes n < number) = (n == 0 || decide (threeAt bytes (recordAt bytes (n - 1)) < number)) := by
  unfold previousNumber
  by_cases h0 : n = 0
  · simp [h0]
    omega
  · simp [h0]

theorem mark_eq {mark : Nat} (h : mark ≤ 1) : (mark == 0) = !(mark == 1) := by
  rcases Nat.le_one_iff_eq_zero_or_eq_one.mp h with rfl | rfl <;> rfl

theorem readCue_follows (ht : TableAt bytes table) (h : recordAt bytes n ≤ bytes.length) :
    Follows (readCue (headerAt bytes) table (previousNumber bytes n) (totalAt bytes n) (readingAt bytes (recordAt bytes n)))
      (cueChecks bytes n)
      (fun r => recordAt bytes (n + 1) ≤ bytes.length ∧ r.2.2 = readingAt bytes (recordAt bytes (n + 1))
        ∧ r.2.1 = totalAt bytes (n + 1) ∧ CueAt bytes table n r.1) := by
  unfold readCue cueChecks
  refine .read3 h fun h3 => .require h3 fun hnumber => ?_
  have hnumber := inRange_iff.mp hnumber
  rw [← previous_lt_eq hnumber.1]
  refine .require h3 fun horder => ?_
  refine .read1 h3 fun h4 => .requireAnd h4 fun hcount => .require h4 fun _ => ?_
  refine .read1 h4 fun h5 => .require h5 fun hmark => ?_
  rw [← mark_eq (of_decide_eq_true hmark)]
  refine .read3 h5 fun h8 => .require h8 fun htarget => .require h8 fun hother => ?_
  refine .read2 h8 fun h10 => .require h10 fun _ => ?_
  rw [List.range_eq_range']
  refine (readMoves_follows ht (recordAt bytes n + 10) (byteAt bytes (recordAt bytes n + 3)) 0 h10).last fun r hr => ?_
  obtain ⟨ms, c⟩ := r
  obtain ⟨hend, rfl, hlength, hms⟩ := hr
  rw [Nat.zero_add, ← recordAt_succ] at hend ⊢
  refine .done ⟨hend, rfl, (totalAt_succ bytes n).symm, ?_⟩
  have hle := of_decide_eq_true hcount
  exact {
    number := rfl
    count := hlength
    follow := by simp
    moves := fun j m hj => by simpa using hms j m hj
    inRange := hnumber
    ascends := fun h0 => by simpa [previousNumber, h0] using horder
    atMost := hlength.trans_le hle
    target := fun h1 => by
      rw [h1] at htarget hother
      exact ⟨inRange_iff.mp htarget, by simpa using hother⟩ }

/-! ## The cue table -/

theorem CueAt.previous {r : CueRecord} (h : CueAt bytes table n r) : r.number = previousNumber bytes (n + 1) := h.number

theorem readCues_follows (ht : TableAt bytes table) (k : Nat) : ∀ n, recordAt bytes n ≤ bytes.length →
    Follows (readCues (headerAt bytes) table k (previousNumber bytes n) (totalAt bytes n)
        (readingAt bytes (recordAt bytes n)))
      ((List.range' n k).flatMap (cueChecks bytes))
      (fun r => recordAt bytes (n + k) ≤ bytes.length ∧ r.2.2 = readingAt bytes (recordAt bytes (n + k))
        ∧ r.2.1 = totalAt bytes (n + k) ∧ r.1.length = k
        ∧ ∀ (i : Nat) (c : CueRecord), r.1[i]? = some c → CueAt bytes table (n + i) c) := by
  induction k with
  | zero => exact fun n h => .done ⟨h, rfl, rfl, rfl, fun i c hi => by simp at hi⟩
  | succ k ih =>
    intro n h
    rw [List.range'_succ, List.flatMap_cons, readCues]
    refine (readCue_follows ht h).bind fun r hr => ?_
    obtain ⟨cue, total, c⟩ := r
    obtain ⟨hlen, rfl, rfl, hcue⟩ := hr
    dsimp only
    rw [hcue.previous]
    refine (ih (n + 1) hlen).last fun r hr => ?_
    obtain ⟨cues, total, c⟩ := r
    obtain ⟨hend, rfl, rfl, hlength, hcues⟩ := hr
    rw [show n + 1 + k = n + (k + 1) by omega] at hend ⊢
    refine .done ⟨hend, rfl, rfl, congrArg (· + 1) hlength, fun i x hx => ?_⟩
    cases i with
    | zero =>
      obtain rfl : cue = x := by simpa using hx
      exact hcue
    | succ i =>
      have := hcues i x (by simpa using hx)
      rwa [show n + 1 + i = n + (i + 1) by omega] at this

end Sys2Proof.Machine
end

section
/-!
PROOFS. The whole image: its row of checks, and what an image that is taken holds (R18, R19, R21 to R28, R181).
-/

namespace Sys2Proof.Machine

variable {bytes : List Byte} {im : ShowImage} {n : Nat}

/-- The checks of an image in the order of the layout, and after its fields the total, the CRC and the length. -/
def imageChecks (bytes : List Byte) : List (Option LoadFault) :=
  let two := twoAt bytes
  let crcAt := recordAt bytes (two 15)
  headerChecks bytes ++ (List.range 16).flatMap (entryChecks bytes) ++ (List.range (two 15)).flatMap (cueChecks bytes)
    ++ [fieldCheck bytes crcAt 0 (totalAt bytes (two 15) == two 17) .size,
      fieldCheck bytes crcAt 2 (two crcAt == (crc (bytes.take crcAt)).toNat) .crcMismatch,
      fieldCheck bytes (crcAt + 2) 0 (bytes.length ≤ crcAt + 2) .size]

/-- What an image that is taken holds. -/
structure ImageAt (bytes : List Byte) (im : ShowImage) : Prop where
  header : im.header = headerAt bytes
  inRange : HeaderInRange im.header
  channels : TableAt bytes im.channels
  cueCount : im.cues.length = twoAt bytes 15
  cues : ∀ (i : Nat) (r : CueRecord), im.cues[i]? = some r → CueAt bytes im.channels i r
  moveCount : totalAt bytes (twoAt bytes 15) = twoAt bytes 17
  crc : twoAt bytes (recordAt bytes (twoAt bytes 15)) = (crc (bytes.take (recordAt bytes (twoAt bytes 15)))).toNat
  length : bytes.length = recordAt bytes (twoAt bytes 15) + 2

theorem isEmpty_readingAt (o : Nat) : (readingAt bytes o).rest.isEmpty = decide (bytes.length ≤ o) := by
  rw [Bool.eq_iff_iff]
  simp [readingAt]

theorem validate_follows (bytes : List Byte) : Follows (validate bytes) (imageChecks bytes) (ImageAt bytes) := by
  unfold validate imageChecks
  dsimp only
  rw [List.append_assoc, List.append_assoc]
  refine (readHeader_follows bytes).bind fun r hr => ?_
  obtain ⟨h19, rfl, hheader⟩ := hr
  have hnone : HostedBefore bytes 0 [] := fun g => by simp
  rw [List.range_eq_range', List.range_eq_range']
  refine (readChannels_follows 16 0 [] _ rfl hnone h19 fun ch hch => absurd hch (Nat.not_lt_zero _)).bind fun r hr => ?_
  obtain ⟨table, c⟩ := r
  obtain ⟨h323, rfl, htable⟩ := hr
  refine (readCues_follows htable (twoAt bytes 15) 0 h323).bind fun r hr => ?_
  obtain ⟨cues, total, c⟩ := r
  obtain ⟨hend, rfl, rfl, hlength, hcues⟩ := hr
  rw [Nat.zero_add] at hend ⊢
  refine .require hend fun htotal => .read2 hend fun hcrc => .require hcrc fun hsum => ?_
  rw [← isEmpty_readingAt]
  refine .require hcrc fun hrest => .done ?_
  rw [isEmpty_readingAt] at hrest
  exact {
    header := rfl
    inRange := hheader
    channels := htable
    cueCount := hlength
    cues := fun i r hi => by simpa using hcues i r hi
    moveCount := beq_iff_eq.mp htotal
    crc := beq_iff_eq.mp hsum
    length := Nat.le_antisymm (of_decide_eq_true hrest) hcrc }

/-! ## What an image that is taken keeps -/

theorem twoAt_le (bytes : List Byte) (o : Nat) : twoAt bytes o ≤ 65535 := by
  have h1 := byteAt_le bytes o
  have h2 := byteAt_le bytes (o + 1)
  unfold twoAt
  omega

namespace ImageAt

/-- The total of the move counts is that of the records. -/
theorem sum_moves (h : ImageAt bytes im) : (im.cues.map (fun r => r.moves.length)).sum = twoAt bytes 17 := by
  have hmap : im.cues.map (fun r => r.moves.length)
      = (List.range (twoAt bytes 15)).map (fun i => byteAt bytes (recordAt bytes i + 3)) := by
    refine List.ext_getElem (by simp [h.cueCount]) fun i hi _ => ?_
    rw [List.length_map] at hi
    simpa using (h.cues i im.cues[i] (List.getElem?_eq_getElem hi)).count
  rw [hmap]
  exact h.moveCount

theorem size (h : ImageAt bytes im) :
    bytes.length = 325 + 10 * im.cues.length + 8 * (im.cues.map (fun r => r.moves.length)).sum := by
  rw [h.sum_moves, h.length, recordAt_eq, h.moveCount, h.cueCount]
  omega

/-- The last two bytes are the CRC of those before (R28). -/
theorem last_two (h : ImageAt bytes im) :
    numberOf (bytes.drop (bytes.length - 2)) = (Machine.crc (bytes.take (bytes.length - 2))).toNat := by
  have hlen := h.length
  have hat : bytes.length - 2 = recordAt bytes (twoAt bytes 15) := by omega
  rw [hat, ← h.crc]
  obtain ⟨o, ho⟩ : ∃ o, o = recordAt bytes (twoAt bytes 15) := ⟨_, rfl⟩
  rw [← ho] at hlen ⊢
  have hdrop : bytes.drop o = [bytes[o], bytes[o + 1]] := by
    rw [List.drop_eq_getElem_cons (by omega), List.drop_eq_getElem_cons (by omega), List.drop_of_length_le (by omega)]
  have h0 : bytes.getD o 0 = bytes[o] := List.getD_eq_getElem _ _ (by omega)
  have h1 : bytes.getD (o + 1) 0 = bytes[o + 1] := List.getD_eq_getElem _ _ (by omega)
  rw [hdrop, twoAt, byteAt, byteAt, h0, h1]
  simp [numberOf]

theorem number_at (h : ImageAt bytes im) {i : Nat} (hi : i < im.cues.length) :
    im.cues[i].number = threeAt bytes (recordAt bytes i) := (h.cues i _ (List.getElem?_eq_getElem hi)).number

/-- Each record's number stands above those before it (R21, R27). -/
theorem ascends (h : ImageAt bytes im) : im.cues.Pairwise (fun x y => x.number < y.number) := by
  rw [List.pairwise_iff_getElem]
  intro i j hi hj hij
  rw [h.number_at hi, h.number_at hj]
  induction j, hij using Nat.le_induction with
  | base => exact (h.cues (i + 1) _ (List.getElem?_eq_getElem hj)).ascends (by omega)
  | succ j _ ih => exact (ih (by omega)).trans ((h.cues (j + 1) _ (List.getElem?_eq_getElem hj)).ascends (by omega))

theorem exists_at (h : ImageAt bytes im) {r : CueRecord} (hr : r ∈ im.cues) : ∃ i, CueAt bytes im.channels i r := by
  obtain ⟨i, hi⟩ := List.mem_iff_getElem?.mp hr
  exact ⟨i, h.cues i r hi⟩

end ImageAt

theorem CueAt.follow_inRange {table : Vector ChannelEntry 16} {r : CueRecord} (h : CueAt bytes table n r) {f : Follow}
    (hf : r.follow = some f) : 1 ≤ f.target ∧ f.target ≤ 99999 ∧ f.target ≠ r.number ∧ f.delay ≤ 65535 := by
  rw [h.follow] at hf
  by_cases h1 : byteAt bytes (recordAt bytes n + 4) = 1
  · obtain ⟨hrange, hother⟩ := h.target h1
    obtain rfl := Option.some.inj ((if_pos h1).symm.trans hf)
    exact ⟨hrange.1, hrange.2, fun he => hother (he.trans h.number), twoAt_le bytes _⟩
  · exact absurd ((if_neg h1).symm.trans hf) (by simp)

theorem CueAt.exists_move {table : Vector ChannelEntry 16} {r : CueRecord} (h : CueAt bytes table n r) {m : Move}
    (hm : m ∈ r.moves) : ∃ o, MoveAt bytes table o m := by
  obtain ⟨j, hj⟩ := List.mem_iff_getElem?.mp hm
  exact ⟨_, h.moves j m hj⟩

theorem MoveAt.fade_le {table : Vector ChannelEntry 16} {o : Nat} {m : Move} (h : MoveAt bytes table o m) {fade : Nat}
    {curve : Curve} {target : Position} (hk : m.kind = .level fade curve target) : fade ≤ 65535 := by
  have hcode := h.code
  rcases (by omega : byteAt bytes (o + 1) / 16 = 0 ∨ byteAt bytes (o + 1) / 16 = 1 ∨ byteAt bytes (o + 1) / 16 = 2)
    with h0 | h1 | h2
  · obtain ⟨curve', target', -, -, hlevel⟩ := h.level h0
    obtain ⟨rfl, -⟩ := MoveKind.level.inj (hk.symm.trans hlevel)
    exact twoAt_le bytes _
  · exact absurd (hk.symm.trans (h.muteOn h1)) (by simp)
  · exact absurd (hk.symm.trans (h.muteOff h2)) (by simp)

theorem EntryAt.role_cases {e : ChannelEntry} (h : EntryAt bytes n e) :
    byteAt bytes (19 + 19 * n) = 0 ∨ byteAt bytes (19 + 19 * n) = 1 ∨ byteAt bytes (19 + 19 * n) = 2 := by
  have := h.code
  omega

theorem EntryAt.members_of_audio {e : ChannelEntry} (h : EntryAt bytes n e) {members : List Group} {safe : Bool}
    (hr : e.role = .audio members safe) : members.length ≤ 4 ∧ members.Nodup := by
  rcases h.role_cases with h0 | h1 | h2
  · exact absurd (hr.symm.trans (h.unused h0)) (by simp)
  · obtain ⟨members', -, hlen, hnodup, hrole⟩ := h.audio h1
    obtain ⟨rfl, -⟩ := Role.audio.inj (hr.symm.trans hrole)
    exact ⟨hlen, hnodup⟩
  · obtain ⟨g, -, hrole⟩ := h.master h2
    exact absurd (hr.symm.trans hrole) (by simp)

theorem EntryAt.byte_of_master {e : ChannelEntry} (h : EntryAt bytes n e) {g : Group} (hr : e.role = .master g) :
    byteAt bytes (19 + 19 * n) = 2 ∧ byteAt bytes (19 + 19 * n + 1) = g.val + 1 := by
  rcases h.role_cases with h0 | h1 | h2
  · exact absurd (hr.symm.trans (h.unused h0)) (by simp)
  · obtain ⟨members, -, -, -, hrole⟩ := h.audio h1
    exact absurd (hr.symm.trans hrole) (by simp)
  · obtain ⟨g', hg, hrole⟩ := h.master h2
    obtain rfl := Role.master.inj (hr.symm.trans hrole)
    exact ⟨h2, hg.symm⟩

/-- A group has its master on one channel (R26). -/
theorem TableAt.not_hosted_before {table : Vector ChannelEntry 16} (h : TableAt bytes table) {ch other : Channel}
    {g : Group} (hch : table[ch].role = .master g) (hother : table[other].role = .master g) : ¬ other.val < ch.val := by
  intro hlt
  obtain ⟨hm, hg⟩ := (h ch).byte_of_master hch
  obtain ⟨hm', hg'⟩ := (h other).byte_of_master hother
  have hnew := (h ch).anew hm
  simp only [hostsAnew, List.all_eq_true, List.mem_range] at hnew
  have := hnew other.val hlt
  rw [hm', show 20 + 19 * other.val = 19 + 19 * other.val + 1 by omega, hg', hg] at this
  simp at this

theorem TableAt.master_unique {table : Vector ChannelEntry 16} (h : TableAt bytes table) {ch other : Channel} {g : Group}
    (hch : table[ch].role = .master g) (hother : table[other].role = .master g) : ch = other :=
  Fin.ext (Nat.le_antisymm (Nat.le_of_not_lt (h.not_hosted_before hch hother))
    (Nat.le_of_not_lt (h.not_hosted_before hother hch)))

/-- What the cues of an image keep. -/
theorem ImageAt.cues_kept (h : ImageAt bytes im) : ∀ r ∈ im.cues, 1 ≤ r.number ∧ r.number ≤ 99999 ∧ r.moves.length ≤ 64
    ∧ (∀ f, r.follow = some f → 1 ≤ f.target ∧ f.target ≤ 99999 ∧ f.target ≠ r.number ∧ f.delay ≤ 65535)
    ∧ (∀ m ∈ r.moves, im.channels[m.channel].role ≠ .unused ∧ m.delay ≤ 65535
      ∧ ∀ fade curve target, m.kind = .level fade curve target → fade ≤ 65535) := by
  intro r hr
  obtain ⟨i, hi⟩ := h.exists_at hr
  refine ⟨hi.inRange.1, hi.inRange.2, hi.atMost, fun f => hi.follow_inRange, fun m hm => ?_⟩
  obtain ⟨o, ho⟩ := hi.exists_move hm
  exact ⟨ho.used, ho.delay ▸ twoAt_le bytes _, fun _ _ _ => ho.fade_le⟩

/-- What the channels of an image keep. -/
theorem ImageAt.channels_kept (h : ImageAt bytes im) (ch : Channel) :
    (im.channels[ch].role = .unused → im.channels[ch].fader = .absent)
      ∧ (∀ members safe, im.channels[ch].role = .audio members safe → members.length ≤ 4 ∧ members.Nodup)
      ∧ ∀ (other : Channel) (g : Group), im.channels[ch].role = .master g →
          im.channels[other].role = .master g → ch = other :=
  ⟨fun hu => (h.channels ch).faderless ((h.channels.unused_iff ch).mp hu), fun _ _ => (h.channels ch).members_of_audio,
    fun _ _ => h.channels.master_unique⟩

/-- Settles O15, by the row of checks that validation follows and what it holds of the bytes where none is in fault. -/
theorem validatedImageKeepsTheFormat : Obligations.ValidatedImageKeepsTheFormat := by
  unfold Obligations.ValidatedImageKeepsTheFormat
  intro bytes one two three within field header entry move record total cue crcAt checks
  have hfollows := validate_follows bytes
  have hentry : entry = entryChecks bytes := by
    funext n
    simp only [entry, entryChecks, memberChecks, placeChecks, actionChecks, hostsAnew, List.append_assoc, List.cons_append,
      List.nil_append, List.range_eq_range', Nat.add_assoc]
    rfl
  have hchecks : checks = imageChecks bytes := by
    show headerChecks bytes ++ (List.range 16).flatMap entry ++ _ ++ _ = _
    rw [hentry]
    rfl
  refine ⟨fun reason offset => hchecks ▸ hfollows.error_iff (reason, offset), fun im hok => ?_⟩
  have him : ImageAt bytes im := hfollows.of_ok hok
  have hr := him.inRange
  have hcount : im.cues.length = im.header.cueCount := him.cueCount.trans (congrArg Header.cueCount him.header).symm
  refine ⟨him.size, him.last_two, hr.repeatGuard, hr.slewStep.1, hr.slewStep.2, hr.touchHold, hr.deadband.1, hr.deadband.2,
    hr.kp.1, hr.kp.2, hr.minDuty, hr.reversalRest, hr.stallLimit.1, hr.stallLimit.2, hr.eventThreshold.1,
    hr.eventThreshold.2, hr.staleTime, ?count, ?least, ?most, ?moves, hr.moveCount, him.ascends, him.cues_kept,
    him.channels_kept, him.header, fun ch => ?entry, fun n r hn => ?cue⟩
  case count => exact hcount
  case least => exact hcount ▸ hr.cueCount.1
  case most => exact hcount ▸ hr.cueCount.2
  case moves => exact him.sum_moves.trans (congrArg Header.moveCount him.header).symm
  case entry =>
    intro o e action
    have he := him.channels ch
    refine ⟨he.unused, fun h1 => ?_, he.master, he.absent, he.motor, he.plain, he.preset, he.presetMute, he.stopA, he.stopB⟩
    obtain ⟨members, hmembers, -, -, hrole⟩ := he.audio h1
    exact ⟨members, hmembers, hrole⟩
  case cue =>
    intro o
    have hc := him.cues n r hn
    refine ⟨hc.number, hc.count, hc.follow, fun j m hj => ?_⟩
    have hm := hc.moves j m hj
    refine And.intro hm.channel (And.intro hm.delay (And.intro (fun h0 => ?_) (And.intro hm.muteOn hm.muteOff)))
    obtain ⟨curve, target, hcurve, htarget, hkind⟩ := hm.level h0
    refine ⟨target, htarget, hkind.trans (congrArg (MoveKind.level _ · target) ?_)⟩
    have hcode : one (o + 10 + 8 * j + 1) % 16 = byteAt bytes (recordAt bytes n + 10 + 8 * j + 1) % 16 := rfl
    rw [hcode]
    generalize byteAt bytes (recordAt bytes n + 10 + 8 * j + 1) % 16 = code at hcurve
    match code with
    | 0 | 1 | 2 | 3 => exact (Option.some.inj hcurve).symm
    | code + 4 => exact absurd hcurve (by simp [curve?])

end Sys2Proof.Machine
end
